-- ==== Sys2Proof/Word.lean ====
section
/-! DEFINITION. The word types of the Velah V4 and the coordinates of its cores.

Addresses are computed as bit vectors of 64 bits and used as natural numbers once they name a byte. -/

namespace Sys2Proof

/-- One byte of memory (03 R88, 04 R122). -/
abbrev Byte := BitVec 8

/-- A 32-bit value: one lane, one C word, one FP32 code. -/
abbrev Word32 := BitVec 32

/-- A 64-bit value: a scalar register, a word register, an effective address. -/
abbrev Dword := BitVec 64

/-- A 128-bit lane mask: bit `i` governs lane `i` (01 R8). -/
abbrev Mask := BitVec 128

/-- The five engines of a core, in the order C, A, V, M, X of 01 R30. -/
inductive Engine where
  | c | a | v | m | x
  deriving DecidableEq, Repr

/-- The number of an engine in FAULTINFO.ENGINE (01 R17). -/
def Engine.num : Engine → Nat
  | .c => 0
  | .a => 1
  | .v => 2
  | .m => 3
  | .x => 4

/-- The length in bytes of one word of an engine's stream (03 R88). -/
def Engine.wordBytes : Engine → Nat
  | .c => 4
  | .a => 8
  | .v => 8
  | .m => 16
  | .x => 8

/-- The physical coordinate of a core (01 R15): die 0–3, row on the die 0–7, physical column 0–17. -/
structure CoreId where
  die : Nat
  row : Nat
  col : Nat
  deriving DecidableEq, Repr

/-- The package row, 8 × DIE + ROW (01 R15). -/
def CoreId.packageRow (c : CoreId) : Nat := 8 * c.die + c.row

/-- The core number 18 × package row + physical column (23 R480). -/
def CoreId.number (c : CoreId) : Nat := 18 * c.packageRow + c.col

/-- The 10-bit COREID layout: DIE 9:8, ROW 7:5, COL 4:0 (01 R15). -/
def CoreId.code (c : CoreId) : Nat := 256 * c.die + 32 * c.row + c.col

/-- The core a 10-bit coordinate field names (01 R15, 03 R101). -/
def CoreId.ofCode (n : Nat) : CoreId := ⟨n / 256 % 4, n / 32 % 8, n % 32⟩

/-- The core number `k` = 18 × package row + physical column (23 R480). -/
def CoreId.ofNumber (k : Nat) : CoreId := ⟨k / 18 / 8 % 4, k / 18 % 8, k % 18⟩

/-- The number 0–191 of the cluster that holds the core (15 R379). -/
def CoreId.cluster (c : CoreId) : Nat := 6 * c.packageRow + c.col / 3

/-- The core's position 0–2 in its cluster, counted from the west (10 R288). -/
def CoreId.clusterPos (c : CoreId) : Nat := c.col % 3

/-- The core at cluster position `p` of the same cluster (08 R237, 10 R288). -/
def CoreId.peer (c : CoreId) (p : Nat) : CoreId := ⟨c.die, c.row, 3 * (c.col / 3) + p⟩

end Sys2Proof
end

