-- ==== Sys2Proof/Syntax.lean ====
section
/-! DEFINITION. The syntax of the Velah V4: one constructor of `Instr` per row of spec/opcode_table.json, the words
of the five streams first, then the steps that are no words (95_what_each_step_holds.md).

Register numbers are bounded naturals, immediates are bit vectors of their field's width. The hint field changes no
result (03 R90) and is no part of an instruction. -/

namespace Sys2Proof

/-- A scalar register s0–s63 (01 R8). -/
abbrev SReg := Fin 64
/-- A predicate q0–q7 (01 R8). -/
abbrev QReg := Fin 8
/-- A word register w0–w15 (01 R8). -/
abbrev WNo := Fin 16
/-- An address register a0–a15 (01 R8). -/
abbrev ANo := Fin 16
/-- A vector register v0–v31 (01 R8). -/
abbrev VNo := Fin 32
/-- A mask register m0–m7 (01 R8). -/
abbrev MNo := Fin 8
/-- A cask ck0–ck63 (01 R8). -/
abbrev CkNo := Fin 64
/-- An ordering class 0–15 (03 R97). -/
abbrev Cls := Fin 16
/-- The 8-bit stall-bound field as encoded (03 R99). -/
abbrev Stall := Fin 256

/-- The run of classes of an acquire or a release, LO to HI (03 R98). -/
structure Orng where
  lo : Fin 16
  hi : Fin 16
  deriving DecidableEq, Repr

/-- A tile operand: a tile register or a tile queue (03 R102). -/
inductive TileRef where
  | tile (t : Fin 32)
  | queue (q : Fin 8)
  deriving DecidableEq, Repr

/-- The type codes of 03 R104. -/
inductive Ty where
  | f32 | f16 | bf16 | e4m3 | e5m2 | t8 | e2m1 | i32 | i16 | i8
  deriving DecidableEq, Repr

/-- The rounding field of 03 R111. -/
inductive Rm where
  | dyn | rne | rtz | rup | rdn | sr
  deriving DecidableEq, Repr

/-- The operand formats of a matrix pass (03 R115). -/
inductive Fmt where
  | bf16 | e4m3 | e5m2 | t8 | int8 | mxfp4 | mxfp8
  deriving DecidableEq, Repr

/-- The count of an A, V, M or X loop word: CW = 0 or CW = 1 (06 R191, 07 R224, 08 R251, 09 R282). -/
inductive LoopCount where
  | imm (n : BitVec 20)
  | word (w : WNo) (stall : Stall)
  deriving DecidableEq, Repr

/-- A domain set in the DSET layout (03 R100). -/
structure DSet where
  dind : BitVec 7
  sp : Option (Fin 16 × Fin 16)
  ac : Option (Fin 8 × Fin 8)
  deriving DecidableEq, Repr

/-- The fields of an affine tile word, layout AT (03 R108, 06 R183); `rows` and `rbytes` as encoded, minus one. -/
structure AT where
  cls : Cls
  tile : TileRef
  ab : ANo
  stride : ANo
  rows : Fin 32
  rbytes : Fin 4096
  keep : Bool
  off : BitVec 8
  stall : Stall
  deriving DecidableEq, Repr

/-- The fields of an indexed tile word, layout AX (03 R108, 06 R188); `count` as encoded, minus one. -/
structure AX where
  cls : Cls
  tile : TileRef
  ab : ANo
  idx : TileRef
  esz : Fin 4
  count : Fin 1024
  keep : Bool
  stall : Stall
  deriving DecidableEq, Repr

/-- The fields of a copy word, layout XD (03 R116); `cask` is present when CKE = 1, `coord` when CV = 1. -/
structure XD where
  cls : Cls
  cask : Option CkNo
  fill : Bool
  queue : Fin 8
  desc : Fin 32768
  coord : Option (BitVec 10)
  stall : Stall
  deriving DecidableEq, Repr

/-- The source of VMOV (07 R218). -/
inductive VSrc where
  | reg (v : VNo) | vw | col | row | die | ctx
  deriving DecidableEq, Repr

/-- The trip count of MSET (08 R235). -/
inductive Trip where
  | imm (n : BitVec 20)
  | word (w : WNo) (stall : Stall)
  deriving DecidableEq, Repr

/-- The destination of MDRAIN (08 R247). -/
inductive DrainDst where
  | spad (addr : BitVec 21)
  | tile (t : TileRef) (stall : Stall)
  deriving DecidableEq, Repr

/-- The operands of MSRC (08 R237). -/
structure MSrc where
  apos : Fin 4
  amc : Bool
  abase : BitVec 21
  bpos : Fin 4
  bmc : Bool
  bbase : BitVec 21
  deriving DecidableEq, Repr

/-- The kinds of relocation, by the type in bits 31:0 of its info; `other` is an unassigned type (22 R468). -/
inductive RelocKind where
  | coord10 | arena18 | abs64 | varent
  | other (type : Nat)
  deriving DecidableEq, Repr

/-- One relocation: its kind, the byte offset it rewrites, the address of its symbol and its addend (22 R468). -/
structure Reloc where
  kind : RelocKind
  offset : Nat
  symbol : Nat
  addend : Int
  deriving DecidableEq, Repr

/-- Copy `variant` of a kernel as the loader is to place it, its rectangle the one to try first (22 R466, R469, R470): its context, arena address, bytes, relocations,
shape (rows and columns minus one), rectangle, the offset of its C entry and the kernel's USEMASK; its C words end at
byte `cend`, and from byte `xstart` on its words are X words. -/
structure CodeCopy where
  ctx : Nat
  variant : Nat
  base : Nat
  bytes : List Byte
  cend : Nat
  xstart : Nat
  relocs : List Reloc
  rows : Nat
  cols : Nat
  row0 : Nat
  wcol : Nat
  centry : Nat
  use : BitVec 24
  deriving DecidableEq, Repr

/-- The fields of an ELF64 file's header that the loader checks (22 R465). -/
structure ElfHeader where
  fileClass : Nat
  data : Nat
  osabi : Nat
  type : Nat
  machine : Nat
  flags : Nat
  deriving DecidableEq, Repr

/-- A data section: the virtual address that system software chooses for it, the entries of tables at addresses of HBM that map it
there, its alignment, its bytes, the offsets of its `.launch` records and its relocations (02 R85, 22 R466, R469). -/
structure DataSection where
  va : Nat
  maps : List (Nat × Dword)
  align : Nat
  bytes : List Byte
  records : List Nat
  relocs : List Reloc
  deriving DecidableEq, Repr

/-- A code object as the loader reads it: its header, the contexts that its data sections are for beside those of its copies, the
copies of its kernels and its data sections (22 R465, R466, R469). -/
structure CodeImage where
  header : ElfHeader
  ctxs : List Nat
  copies : List CodeCopy
  data : List DataSection
  deriving DecidableEq, Repr

/-- What system software sets when it creates a job and its context (14 R338, 01 R18, 17 R394, 19 R441). -/
structure JobSpec where
  job : Nat
  ctx : Nat
  system : Bool
  codebase : Dword
  codebound : Dword
  trapvec : Dword
  ptroot : Dword
  savebase : Dword
  logbase : Dword
  frqbase : Dword
  deriving DecidableEq, Repr

/-- One step of the Velah V4: a word of one of its five streams, or a step that is no word. -/
inductive Instr where
  /-- ADD (05 R153). -/
  | add (d a b : SReg)
  /-- SUB (05 R153). -/
  | sub (d a b : SReg)
  /-- AND (05 R153). -/
  | and (d a b : SReg)
  /-- OR (05 R153). -/
  | or (d a b : SReg)
  /-- XOR (05 R153). -/
  | xor (d a b : SReg)
  /-- SLL (05 R153). -/
  | sll (d a b : SReg)
  /-- SRL (05 R153). -/
  | srl (d a b : SReg)
  /-- SRA (05 R153). -/
  | sra (d a b : SReg)
  /-- MIN (05 R153). -/
  | min (d a b : SReg)
  /-- MAX (05 R153). -/
  | max (d a b : SReg)
  /-- MINU (05 R153). -/
  | minu (d a b : SReg)
  /-- MAXU (05 R153). -/
  | maxu (d a b : SReg)
  /-- CLZ (05 R153). -/
  | clz (d a : SReg)
  /-- POPC (05 R153). -/
  | popc (d a : SReg)
  /-- MUL (05 R153). -/
  | mul (d a b : SReg)
  /-- MULH (05 R153). -/
  | mulh (d a b : SReg)
  /-- MULHU (05 R153). -/
  | mulhu (d a b : SReg)
  /-- DIV (05 R153). -/
  | div (d a b : SReg)
  /-- DIVU (05 R153). -/
  | divu (d a b : SReg)
  /-- REM (05 R153). -/
  | rem (d a b : SReg)
  /-- REMU (05 R153). -/
  | remu (d a b : SReg)
  /-- CMP_EQ (05 R153). -/
  | cmpEq (d : QReg) (a b : SReg)
  /-- CMP_NE (05 R153). -/
  | cmpNe (d : QReg) (a b : SReg)
  /-- CMP_LT (05 R153). -/
  | cmpLt (d : QReg) (a b : SReg)
  /-- CMP_LTU (05 R153). -/
  | cmpLtu (d : QReg) (a b : SReg)
  /-- CMP_GE (05 R153). -/
  | cmpGe (d : QReg) (a b : SReg)
  /-- CMP_GEU (05 R153). -/
  | cmpGeu (d : QReg) (a b : SReg)
  /-- SEL (05 R153). -/
  | sel (d : SReg) (q : QReg) (a b : SReg)
  /-- ADDI (05 R154). -/
  | addi (d a : SReg) (imm : BitVec 12)
  /-- ANDI (05 R154). -/
  | andi (d a : SReg) (imm : BitVec 12)
  /-- ORI (05 R154). -/
  | ori (d a : SReg) (imm : BitVec 12)
  /-- XORI (05 R154). -/
  | xori (d a : SReg) (imm : BitVec 12)
  /-- SLLI (05 R154). -/
  | slli (d a : SReg) (sh : Fin 64)
  /-- SRLI (05 R154). -/
  | srli (d a : SReg) (sh : Fin 64)
  /-- SRAI (05 R154). -/
  | srai (d a : SReg) (sh : Fin 64)
  /-- LI (05 R155). -/
  | li (d : SReg) (imm : BitVec 18)
  /-- LUI (05 R155). -/
  | lui (d : SReg) (imm : BitVec 18)
  /-- LD_B (05 R156). -/
  | ldB (d base : SReg) (off : BitVec 8) (cls : Cls)
  /-- LD_BU (05 R156). -/
  | ldBu (d base : SReg) (off : BitVec 8) (cls : Cls)
  /-- LD_H (05 R156). -/
  | ldH (d base : SReg) (off : BitVec 8) (cls : Cls)
  /-- LD_HU (05 R156). -/
  | ldHu (d base : SReg) (off : BitVec 8) (cls : Cls)
  /-- LD_W (05 R156). -/
  | ldW (d base : SReg) (off : BitVec 8) (cls : Cls)
  /-- LD_WU (05 R156). -/
  | ldWu (d base : SReg) (off : BitVec 8) (cls : Cls)
  /-- LD_D (05 R156). -/
  | ldD (d base : SReg) (off : BitVec 8) (cls : Cls)
  /-- ST_B (05 R156). -/
  | stB (d base : SReg) (off : BitVec 8) (cls : Cls)
  /-- ST_H (05 R156). -/
  | stH (d base : SReg) (off : BitVec 8) (cls : Cls)
  /-- ST_W (05 R156). -/
  | stW (d base : SReg) (off : BitVec 8) (cls : Cls)
  /-- ST_D (05 R156). -/
  | stD (d base : SReg) (off : BitVec 8) (cls : Cls)
  /-- LD_ACQ_W (05 R157). -/
  | ldAcqW (d base : SReg) (run : Orng) (cls : Cls)
  /-- LD_ACQ_D (05 R157). -/
  | ldAcqD (d base : SReg) (run : Orng) (cls : Cls)
  /-- ST_REL_W (05 R157). -/
  | stRelW (d base : SReg) (run : Orng) (cls : Cls)
  /-- ST_REL_D (05 R157). -/
  | stRelD (d base : SReg) (run : Orng) (cls : Cls)
  /-- LDW (05 R158). -/
  | ldw (w : WNo) (base : SReg) (stall : Stall) (cls : Cls)
  /-- STW (05 R159). -/
  | stw (d base : SReg) (off : BitVec 8) (cls : Cls)
  /-- STW_REL (05 R159). -/
  | stwRel (d base : SReg) (run : Orng) (cls : Cls)
  /-- AMO_ADD_W (05 R160). -/
  | amoAddW (d a b : SReg) (cls : Cls)
  /-- AMO_AND_W (05 R160). -/
  | amoAndW (d a b : SReg) (cls : Cls)
  /-- AMO_OR_W (05 R160). -/
  | amoOrW (d a b : SReg) (cls : Cls)
  /-- AMO_XOR_W (05 R160). -/
  | amoXorW (d a b : SReg) (cls : Cls)
  /-- AMO_SMIN_W (05 R160). -/
  | amoSminW (d a b : SReg) (cls : Cls)
  /-- AMO_SMAX_W (05 R160). -/
  | amoSmaxW (d a b : SReg) (cls : Cls)
  /-- AMO_UMIN_W (05 R160). -/
  | amoUminW (d a b : SReg) (cls : Cls)
  /-- AMO_UMAX_W (05 R160). -/
  | amoUmaxW (d a b : SReg) (cls : Cls)
  /-- AMO_SWAP_W (05 R160). -/
  | amoSwapW (d a b : SReg) (cls : Cls)
  /-- AMO_FADD_W (05 R160). -/
  | amoFaddW (d a b : SReg) (cls : Cls)
  /-- AMO_BFADD_W (05 R160). -/
  | amoBfaddW (d a b : SReg) (cls : Cls)
  /-- AMO_ADD_D (05 R160). -/
  | amoAddD (d a b : SReg) (cls : Cls)
  /-- AMO_AND_D (05 R160). -/
  | amoAndD (d a b : SReg) (cls : Cls)
  /-- AMO_OR_D (05 R160). -/
  | amoOrD (d a b : SReg) (cls : Cls)
  /-- AMO_XOR_D (05 R160). -/
  | amoXorD (d a b : SReg) (cls : Cls)
  /-- AMO_SMIN_D (05 R160). -/
  | amoSminD (d a b : SReg) (cls : Cls)
  /-- AMO_SMAX_D (05 R160). -/
  | amoSmaxD (d a b : SReg) (cls : Cls)
  /-- AMO_UMIN_D (05 R160). -/
  | amoUminD (d a b : SReg) (cls : Cls)
  /-- AMO_UMAX_D (05 R160). -/
  | amoUmaxD (d a b : SReg) (cls : Cls)
  /-- AMO_SWAP_D (05 R160). -/
  | amoSwapD (d a b : SReg) (cls : Cls)
  /-- CAS_W (05 R161). -/
  | casW (d a b : SReg) (cls : Cls)
  /-- CAS_D (05 R161). -/
  | casD (d a b : SReg) (cls : Cls)
  /-- FENCE_C (05 R163). -/
  | fenceC (mask : BitVec 16)
  /-- BR (05 R164). -/
  | br (q : QReg) (off : BitVec 20)
  /-- BRN (05 R164). -/
  | brn (q : QReg) (off : BitVec 20)
  /-- JMP (05 R164). -/
  | jmp (imm : BitVec 18)
  /-- CALL (05 R164). -/
  | call (imm : BitVec 18)
  /-- CALLI (05 R164). -/
  | calli (a : SReg)
  /-- RET (05 R164). -/
  | ret
  /-- LOOP (05 R165). -/
  | loop (cnt : SReg) (lvl : Fin 4) (len : BitVec 16)
  /-- FORK (05 R166). -/
  | fork (engines : BitVec 4) (a : SReg)
  /-- RENDEZ (05 R167). -/
  | rendez (engines : BitVec 4) (stall : Stall)
  /-- WPUT (05 R168). -/
  | wput (w : WNo) (a : SReg) (stall : Stall)
  /-- WGET (05 R168). -/
  | wget (d : SReg) (w : WNo) (stall : Stall)
  /-- CKWAIT (05 R169). -/
  | ckwait (d : SReg) (ck : CkNo) (stall : Stall)
  /-- CKREL (05 R169). -/
  | ckrel (ck : CkNo)
  /-- STEEP (05 R171). -/
  | steep (set : DSet)
  /-- KILN_R (05 R171). -/
  | kilnR (set : DSet)
  /-- KILN_L (05 R171). -/
  | kilnL (set : DSet)
  /-- STEEP_REG (05 R171). -/
  | steepReg (a : SReg)
  /-- KILN_R_REG (05 R171). -/
  | kilnRReg (a : SReg)
  /-- KILN_L_REG (05 R171). -/
  | kilnLReg (a : SReg)
  /-- DOMQ (05 R172). -/
  | domq (d : SReg) (dom : Fin 31)
  /-- CLKDIV (05 R173). -/
  | clkdiv (eng : Engine) (dv : Fin 16)
  /-- CSRR (05 R175). -/
  | csrr (d : SReg) (num : BitVec 12)
  /-- CSRW (05 R175). -/
  | csrw (num : BitVec 12) (a : SReg)
  /-- NOP (05 R177). -/
  | nop
  /-- CLKWAIT (05 R174). -/
  | clkwait
  /-- PWRACK (05 R174). -/
  | pwrack
  /-- ERET (05 R176). -/
  | eret
  /-- HALT (05 R177). -/
  | halt
  /-- GYLE (05 R177). -/
  | gyle
  /-- TEND (05 R177). -/
  | tend
  /-- BSYNC (05 R177). -/
  | bsync
  /-- TRAP (05 R176). -/
  | trap (code : Fin 64)
  /-- LAUNCH (05 R177). -/
  | launch (a : SReg)
  /-- TSPAWN (05 R177). -/
  | tspawn (a : SReg)
  /-- CANCEL_L (05 R177). -/
  | cancelL (a : SReg)
  /-- CANCEL_G (05 R177). -/
  | cancelG (a : SReg)
  /-- CANCEL_P (05 R177). -/
  | cancelP (a : SReg)
  /-- CANCEL_J (05 R177). -/
  | cancelJ (a : SReg)
  /-- SEIZE (05 R177). -/
  | seize (a : SReg)
  /-- TLD (06 R184). -/
  | tld (x : AT)
  /-- TST (06 R184). -/
  | tst (x : AT)
  /-- TLD_RAW (06 R184). -/
  | tldRaw (x : AT)
  /-- TLDX (06 R188). -/
  | tldx (x : AX)
  /-- TSTX (06 R188). -/
  | tstx (x : AX)
  /-- APF (06 R187). -/
  | apf (ab stride : ANo) (rows : Fin 32) (rbytes : Fin 4096) (off : BitVec 8)
  /-- QDEF (06 R189). -/
  | qdef (q : Fin 8) (base : Fin 32) (len : BitVec 6)
  /-- APUSH (06 R190). -/
  | apush (w : WNo) (a : ANo) (stall : Stall)
  /-- APOP (06 R190). -/
  | apop (a : ANo) (w : WNo) (stall : Stall)
  /-- AADD (06 R190). -/
  | aadd (d a b : ANo)
  /-- AADDI (06 R190). -/
  | aaddi (d a : ANo) (imm : BitVec 32)
  /-- ALOOP (06 R191). -/
  | aloop (lvl : Fin 4) (count : LoopCount) (len : BitVec 12)
  /-- A_CKWAIT (06 R192). -/
  | aCkwait (d : ANo) (ck : CkNo) (stall : Stall)
  /-- A_CKREL (06 R192). -/
  | aCkrel (ck : CkNo)
  /-- AFENCE (06 R193). -/
  | afence (mask : BitVec 16)
  /-- AJOIN (06 R193). -/
  | ajoin
  /-- ANOP (06 R193). -/
  | anop
  /-- VADD (07 R202). -/
  | vadd (ty : Ty) (mask : MNo) (rm : Rm) (vd va vb : VNo)
  /-- VSUB (07 R202). -/
  | vsub (ty : Ty) (mask : MNo) (rm : Rm) (vd va vb : VNo)
  /-- VMUL (07 R202). -/
  | vmul (ty : Ty) (mask : MNo) (rm : Rm) (vd va vb : VNo)
  /-- VFMA (07 R202). -/
  | vfma (ty : Ty) (mask : MNo) (rm : Rm) (vd va vb vc : VNo)
  /-- VFMS (07 R202). -/
  | vfms (ty : Ty) (mask : MNo) (rm : Rm) (vd va vb vc : VNo)
  /-- VNFMA (07 R202). -/
  | vnfma (ty : Ty) (mask : MNo) (rm : Rm) (vd va vb vc : VNo)
  /-- VMIN (07 R202). -/
  | vmin (ty : Ty) (mask : MNo) (rm : Rm) (vd va vb : VNo)
  /-- VMAX (07 R202). -/
  | vmax (ty : Ty) (mask : MNo) (rm : Rm) (vd va vb : VNo)
  /-- VABS (07 R202). -/
  | vabs (ty : Ty) (mask : MNo) (rm : Rm) (vd va : VNo)
  /-- VNEG (07 R202). -/
  | vneg (ty : Ty) (mask : MNo) (rm : Rm) (vd va : VNo)
  /-- VADDI (07 R203). -/
  | vaddi (ty : Ty) (mask : MNo) (rm : Rm) (vd va : VNo) (imm : BitVec 32)
  /-- VMOVI (07 R203). -/
  | vmovi (mask : MNo) (vd : VNo) (imm : BitVec 32)
  /-- VCMP_EQ (07 R204). -/
  | vcmpEq (ty : Ty) (mask md : MNo) (va vb : VNo)
  /-- VCMP_NE (07 R204). -/
  | vcmpNe (ty : Ty) (mask md : MNo) (va vb : VNo)
  /-- VCMP_LT (07 R204). -/
  | vcmpLt (ty : Ty) (mask md : MNo) (va vb : VNo)
  /-- VCMP_LE (07 R204). -/
  | vcmpLe (ty : Ty) (mask md : MNo) (va vb : VNo)
  /-- VCMP_GT (07 R204). -/
  | vcmpGt (ty : Ty) (mask md : MNo) (va vb : VNo)
  /-- VCMP_GE (07 R204). -/
  | vcmpGe (ty : Ty) (mask md : MNo) (va vb : VNo)
  /-- VCMP_UN (07 R204). -/
  | vcmpUn (ty : Ty) (mask md : MNo) (va vb : VNo)
  /-- VSEL (07 R205). -/
  | vsel (mask : MNo) (vd va vb : VNo) (mc : MNo)
  /-- VAND (07 R206). -/
  | vand (mask : MNo) (vd va vb : VNo)
  /-- VOR (07 R206). -/
  | vor (mask : MNo) (vd va vb : VNo)
  /-- VXOR (07 R206). -/
  | vxor (mask : MNo) (vd va vb : VNo)
  /-- VANDN (07 R206). -/
  | vandn (mask : MNo) (vd va vb : VNo)
  /-- VNOT (07 R206). -/
  | vnot (mask : MNo) (vd va : VNo)
  /-- VSLL (07 R207). -/
  | vsll (ty : Ty) (mask : MNo) (vd va vb : VNo)
  /-- VSRL (07 R207). -/
  | vsrl (ty : Ty) (mask : MNo) (vd va vb : VNo)
  /-- VSRA (07 R207). -/
  | vsra (ty : Ty) (mask : MNo) (vd va vb : VNo)
  /-- VSLLI (07 R207). -/
  | vslli (ty : Ty) (mask : MNo) (vd va : VNo) (sh : Fin 32)
  /-- VSRLI (07 R207). -/
  | vsrli (ty : Ty) (mask : MNo) (vd va : VNo) (sh : Fin 32)
  /-- VSRAI (07 R207). -/
  | vsrai (ty : Ty) (mask : MNo) (vd va : VNo) (sh : Fin 32)
  /-- VCVT (07 R208, R209). -/
  | vcvt (dst src : Ty) (mx ns : Bool) (mask : MNo) (rm : Rm) (vd va : VNo)
  /-- VROUNDI (07 R212). -/
  | vroundi (ty : Ty) (mask : MNo) (rm : Rm) (vd va : VNo)
  /-- VFEXP2 (07 R212). -/
  | vfexp2 (mask : MNo) (rm : Rm) (vd va : VNo)
  /-- VSCALEB (07 R212). -/
  | vscaleb (mask : MNo) (rm : Rm) (vd va vb : VNo)
  /-- VGETEXP (07 R213). -/
  | vgetexp (mask : MNo) (rm : Rm) (vd va : VNo)
  /-- VGETMANT (07 R213). -/
  | vgetmant (mask : MNo) (rm : Rm) (vd va : VNo)
  /-- VRCP (07 R213). -/
  | vrcp (mask : MNo) (rm : Rm) (vd va : VNo)
  /-- VRSQ (07 R213). -/
  | vrsq (mask : MNo) (rm : Rm) (vd va : VNo)
  /-- VLOG2 (07 R213). -/
  | vlog2 (mask : MNo) (rm : Rm) (vd va : VNo)
  /-- VCLASS (07 R214). -/
  | vclass (mask : MNo) (vd va : VNo)
  /-- VRED_SUM (07 R215). -/
  | vredSum (ty : Ty) (mask : MNo) (rm : Rm) (vd va : VNo)
  /-- VRED_MAX (07 R215). -/
  | vredMax (ty : Ty) (mask : MNo) (rm : Rm) (vd va : VNo)
  /-- VRED_MIN (07 R215). -/
  | vredMin (ty : Ty) (mask : MNo) (rm : Rm) (vd va : VNo)
  /-- VPERM (07 R216). -/
  | vperm (mask : MNo) (vd va vb : VNo)
  /-- VBCAST (07 R217). -/
  | vbcast (mask : MNo) (vd : VNo) (w : WNo) (keep : Bool) (stall : Stall)
  /-- VIOTA (07 R218). -/
  | viota (mask : MNo) (vd : VNo)
  /-- VMOV (07 R218). -/
  | vmov (mask : MNo) (vd : VNo) (src : VSrc)
  /-- VPOP (07 R219). -/
  | vpop (mask : MNo) (vd : VNo) (tile : TileRef) (part : Fin 8) (keep : Bool) (stall : Stall)
  /-- VPUSH (07 R220). -/
  | vpush (mask : MNo) (va : VNo) (tile : TileRef) (part : Fin 8) (partial_ : Bool) (stall : Stall)
  /-- VPUTE (07 R221). -/
  | vpute (mask : MNo) (va : VNo)
  /-- VDRAIN (07 R222). -/
  | vdrain (ty : Ty) (mask : MNo) (rm : Rm) (vd : VNo) (acc row : Fin 32) (lg : Fin 4) (stall : Stall)
  /-- VMAND (07 R223). -/
  | vmand (mask md ma mb : MNo)
  /-- VMOR (07 R223). -/
  | vmor (mask md ma mb : MNo)
  /-- VMXOR (07 R223). -/
  | vmxor (mask md ma mb : MNo)
  /-- VMANDN (07 R223). -/
  | vmandn (mask md ma mb : MNo)
  /-- VMNOT (07 R223). -/
  | vmnot (mask md ma : MNo)
  /-- VMMOV (07 R223). -/
  | vmmov (mask md ma : MNo)
  /-- VLOOP (07 R224). -/
  | vloop (lvl : Fin 4) (count : LoopCount) (len : BitVec 12)
  /-- VJOIN (07 R225). -/
  | vjoin
  /-- VNOP (07 R225). -/
  | vnop
  /-- MSET (08 R235). -/
  | mset (lvl : Fin 6) (trip : Trip) (sa sb sc : BitVec 24)
  /-- MWIN (08 R236). -/
  | mwin (win : Fin 8)
  /-- MFMT (08 R236). -/
  | mfmt (fa fb : Fmt)
  /-- MSRC (08 R237). -/
  | msrc (x : MSrc)
  /-- MGO (08 R238). -/
  | mgo
  /-- MGO_S (08 R241). -/
  | mgoS (md : BitVec 10)
  /-- MZERO (08 R245). -/
  | mzero (tiles : BitVec 32)
  /-- MALLOC (08 R244). -/
  | malloc (banks : BitVec 8)
  /-- MFREE (08 R244). -/
  | mfree (banks : BitVec 8)
  /-- MCLAIM (08 R246). -/
  | mclaim (tile frow lrow : Fin 32) (lg : Fin 4)
  /-- MRELEASE (08 R246). -/
  | mrelease (tile frow lrow : Fin 32) (lg : Fin 4)
  /-- MDRAIN (08 R247). -/
  | mdrain (tile frow lrow : Fin 32) (dst : DrainDst) (fmt : Ty) (rm : Rm)
  /-- MFLAGS (08 R248). -/
  | mflags (tile : Fin 32) (dst : TileRef) (stall : Stall)
  /-- MFLAGS_C (08 R248). -/
  | mflagsC (tile : Fin 32) (dst : TileRef) (stall : Stall)
  /-- MCHK (08 R249). -/
  | mchk (w : WNo) (stall : Stall)
  /-- MWAIT (08 R251). -/
  | mwait
  /-- MLOOP (08 R251). -/
  | mloop (lvl : Fin 4) (count : LoopCount) (len : BitVec 12)
  /-- MJOIN (08 R251). -/
  | mjoin
  /-- MNOP (08 R251). -/
  | mnop
  /-- XCOPY (09 R262). -/
  | xcopy (x : XD)
  /-- XCONV (09 R264). -/
  | xconv (x : XD)
  /-- XMCAST (09 R265). -/
  | xmcast (x : XD)
  /-- XCSR (09 R267). -/
  | xcsr (x : XD)
  /-- XGATHER (09 R268). -/
  | xgather (x : XD)
  /-- XSCATTER (09 R268). -/
  | xscatter (x : XD)
  /-- XSMD (09 R269). -/
  | xsmd (x : XD)
  /-- XRED (09 R270). -/
  | xred (x : XD)
  /-- XAMO (09 R271). -/
  | xamo (x : XD)
  /-- XMIG (09 R272). -/
  | xmig (x : XD)
  /-- XLINK (09 R273). -/
  | xlink (x : XD)
  /-- XCHAIN (09 R274). -/
  | xchain (x : XD)
  /-- XCASK (09 R277). -/
  | xcask (ck : CkNo) (slots : Fin 64) (bytes : BitVec 32)
  /-- XSIG (09 R278). -/
  | xsig (ck : CkNo) (bytes : BitVec 32)
  /-- XJOIN (09 R281). -/
  | xjoin (queues : BitVec 8)
  /-- XFENCE (09 R281). -/
  | xfence (mask : BitVec 16)
  /-- XLOOP (09 R282). -/
  | xloop (lvl : Fin 4) (count : LoopCount) (len : BitVec 12)
  /-- XHALT (09 R282). -/
  | xhalt
  /-- XNOP (09 R282). -/
  | xnop
  /-- RESULT_LANDING (01 R20, R21). -/
  | resultLanding (e : Engine)
  /-- LDW_DATA_ARRIVE (05 R158). -/
  | ldwDataArrive (w : WNo)
  /-- TILE_DATA_LAND (06 R185, 07 R220). -/
  | tileDataLand (t : Fin 32)
  /-- ACCESS_PERFORM (11 R303; the k-th access not yet performed). -/
  | accessPerform (k : Nat)
  /-- DOMAIN_AWAKE (01 R49). -/
  | domainAwake (d : Fin 31)
  /-- ENGINE_JOINED (01 R35). -/
  | engineJoined (e : Engine)
  /-- HALT_RETIRE (01 R36). -/
  | haltRetire
  /-- TEND_RETIRE (14 R351). -/
  | tendRetire
  /-- ROW_BARRIER_REACHED (01 R487). -/
  | rowBarrierReached (row : Nat)
  /-- COMM_STEP_START (14 R353). -/
  | commStepStart (launch : Nat)
  /-- COMM_STEP_END (14 R354). -/
  | commStepEnd (launch : Nat)
  /-- X_QUEUE_ENTRY (09 R253). -/
  | xQueueEntry
  /-- COPY_COMPLETE (09 R254). -/
  | copyComplete (copy : Nat)
  /-- CASK_CREDIT_ARRIVE (09 R279). -/
  | caskCreditArrive (k : Nat)
  /-- XSIG_CREDIT_APPLY (09 R278). -/
  | xsigCreditApply (k : Nat)
  /-- COPY_STOP (09 R258). -/
  | copyStop (copy : Nat)
  /-- A_TRANSLATION_HALT (06 R194). -/
  | aTranslationHalt
  /-- FAULT_REPORT_WRITE (17 R395). -/
  | faultReportWrite (k : Nat)
  /-- CHAIN_RECORD_READ (09 R274). -/
  | chainRecordRead
  /-- NEST_STEP (08 R240, R243; `misses` is how many attempts of the step fail the residue check). -/
  | nestStep (misses : Fin 3)
  /-- NEST_COMPLETE (08 R238). -/
  | nestComplete
  /-- M_WRITE_COMPLETE (08 R250). -/
  | mWriteComplete (k : Nat)
  /-- STALL_BOUND_EXPIRE (17 R398). -/
  | stallBoundExpire (e : Engine)
  /-- WATCHDOG_EXPIRE (17 R399). -/
  | watchdogExpire
  /-- FAULT_STOP (17 R387, R388). -/
  | faultStop
  /-- ROW_DRAIN_COMPLETE (17 R388). -/
  | rowDrainComplete (row : Nat)
  /-- HANDLER_ENTRY (17 R392). -/
  | handlerEntry
  /-- DOUBLE_FAULT (17 R392, R405). -/
  | doubleFault
  /-- UNCORRECTABLE_DATA (04 R128, 17 R391). -/
  | uncorrectableData (unit : Fin 7) (num : Nat) (addr : Dword)
  /-- FREPLY_RETRY (17 R396). -/
  | freplyRetry (ctx : BitVec 12) (fseq : BitVec 32)
  /-- FREPLY_ABORT (17 R396). -/
  | freplyAbort (ctx : BitVec 12) (fseq : BitVec 32)
  /-- BOUNDARY_PREEMPT (17 R409). -/
  | boundaryPreempt (ctx : Nat)
  /-- DEEP_PREEMPT (17 R410). -/
  | deepPreempt (ctx : Nat)
  /-- SAVE_DEADLINE_EXPIRE (17 R415). -/
  | saveDeadlineExpire (ctx : Nat)
  /-- CONTEXT_RESUME (17 R414). -/
  | contextResume (ctx : Nat)
  /-- SEIZURE_COMMAND_ARRIVE (17 R416). -/
  | seizureCommandArrive (job : Nat)
  /-- SEIZURE_RELEASE (17 R417). -/
  | seizureRelease
  /-- HOST_SEIZE_WRITE (21 R464). -/
  | hostSeizeWrite (v : Dword)
  /-- SQTAIL_WRITE (21 R461). -/
  | sqtailWrite (q : Fin 16) (v : BitVec 32)
  /-- RECORD_ACCEPT (14 R333). -/
  | recordAccept (q : Fin 16)
  /-- LAUNCH_READY (14 R338). -/
  | launchReady (launch : Nat)
  /-- DISPATCH_VISIT (14 R342). -/
  | dispatchVisit
  /-- TASK_BIND (14 R350). -/
  | taskBind (launch : Nat)
  /-- TASK_START (14 R350). -/
  | taskStart (launch : Nat)
  /-- LAUNCH_COMPLETE (14 R355). -/
  | launchComplete (launch : Nat)
  /-- COMPLETION_RECORD_WRITE (21 R461). -/
  | completionRecordWrite (q : Fin 16)
  /-- RE_RELOCATE (22 R471). -/
  | reRelocate (copy : Nat)
  /-- CODE_OBJECT_LOAD (22 R469). -/
  | codeObjectLoad (img : CodeImage)
  /-- PATCH (22 R472). -/
  | patch (copy : Nat) (reloc : Nat) (v : Dword)
  /-- QCTL_WRITE (21 R460, R462). -/
  | qctlWrite (q : Fin 16) (v : BitVec 32)
  /-- DEVICE_RESET (21 R462). -/
  | deviceReset
  /-- HOST_WINDOW_READ (21 R460). -/
  | hostWindowRead (off : BitVec 36) (size : Fin 9)
  /-- HOST_WINDOW_WRITE (21 R460). -/
  | hostWindowWrite (off : BitVec 36) (size : Fin 9) (v : Dword)
  /-- HOST_ATOMICOP (21 R459). -/
  | hostAtomicop (off : BitVec 36) (v : Dword)
  /-- CHAINHEAD (09 R274). -/
  | chainhead (v : Dword)
  /-- SRSEED (04 R140). -/
  | srseed (v : Dword)
  /-- CSR_WRITE (01 R11). -/
  | csrWrite (num : BitVec 12) (v : Dword)
  /-- TLBINV_PAGE (19 R432). -/
  | tlbinvPage (ctx : BitVec 12) (page : BitVec 33)
  /-- TLBINV_CONTEXT (19 R432). -/
  | tlbinvContext (ctx : BitVec 12)
  /-- TLBINV_DEVICE (19 R432). -/
  | tlbinvDevice
  /-- TLBINV_COMPLETE (19 R432). -/
  | tlbinvComplete
  /-- MCGSEL (21 R452). -/
  | mcgsel (v : Dword)
  /-- MCGENT (21 R452). -/
  | mcgent (v : Dword)
  /-- MULTICAST_COPY (21 R451). -/
  | multicastCopy (k : Nat)
  /-- BRIDGE_RETRAIN (21 R450). -/
  | bridgeRetrain (bridge : Fin 6)
  /-- LINK_PORT_DOWN (23 R486). -/
  | linkPortDown (port : Fin 18)
  /-- RAIL_STEP (15 R364). -/
  | railStep (cluster : Fin 192)
  /-- BOOST_TOKEN_TICK (15 R369). -/
  | boostTokenTick
  /-- BOOST_REFILL (15 R370). -/
  | boostRefill
  /-- POWER_LIMIT_SET (15 R371). -/
  | powerLimitSet (cluster : Fin 192)
  /-- POWER_LIMIT_CLEAR (15 R371). -/
  | powerLimitClear (cluster : Fin 192)
  /-- ACK_TIMER_EXPIRE (15 R372). -/
  | ackTimerExpire (cluster : Fin 192)
  /-- ACK_GRANT_EXPIRE (15 R372). -/
  | ackGrantExpire (cluster : Fin 192)
  /-- THERMAL_LIMIT (23 R478). -/
  | thermalLimit (die : Fin 4)
  /-- THERMAL_TRIP (23 R478). -/
  | thermalTrip (die : Fin 4)
  /-- SBM_BANK_STATE_CHANGE (15 R361; state 0 Off, 1 Retained, 2 Awake). -/
  | sbmBankStateChange (bank : Fin 1152) (state : Fin 3)
  /-- CLCTL_RUN (15 R380). -/
  | clctlRun
  /-- CLCTL_QUIESCE (15 R380). -/
  | clctlQuiesce
  /-- CLCTL_RETAIN (15 R380). -/
  | clctlRetain
  /-- CLCTL_CLOCKOFF (15 R380). -/
  | clctlClockoff
  /-- CLCTL_RAILOFF (15 R380). -/
  | clctlRailoff
  /-- CLWAKE (16 R384). -/
  | clwake (cluster : Fin 192)
  /-- CLUSTER_QUIESCED (15 R380). -/
  | clusterQuiesced (cluster : Fin 192)
  /-- CLUSTER_RETAIN_DONE (15 R380). -/
  | clusterRetainDone (cluster : Fin 192)
  /-- CLUSTER_WAKE_COMPLETE (15 R380). -/
  | clusterWakeComplete (cluster : Fin 192)
  /-- MODULE_BOOT (23 R480, R481). -/
  | moduleBoot (image : List Byte)
  /-- MBCMD_ATTEST (23 R484). -/
  | mbcmdAttest
  /-- MBCMD_STAGE_FIRMWARE (23 R483). -/
  | mbcmdStageFirmware
  /-- MBCMD_STAGE_IMAGE (23 R480). -/
  | mbcmdStageImage
  /-- MBCMD_COMPLETE (23 R485). -/
  | mbcmdComplete
  /-- ERROR_RECORD_WRITE (23 R486). -/
  | errorRecordWrite
  /-- LINK_PORT_TRAINED (21 R454). -/
  | linkPortTrained (port : Fin 18)
  /-- BRIDGE_RETRAIN_END (21 R450). -/
  | bridgeRetrainEnd (bridge : Fin 6)
  /-- HOST_PORT_STATE_CHANGE (21 R463). -/
  | hostPortStateChange (port : Fin 2) (up atomics : Bool)
  /-- TIME_BASE_LOCK_CHANGE (15 R377). -/
  | timeBaseLockChange (locked : Bool) (offset : BitVec 32)
  /-- PREEMPTION_REQUEST (17 R409). -/
  | preemptionRequest (ctx : Nat)
  /-- SAVE_COMPLETE (17 R414). -/
  | saveComplete (ctx : Nat)
  /-- FREEZE_COMPLETE (17 R417). -/
  | freezeComplete
  /-- HOST_RING_HEAD_WRITE (21 R461, 23 R485; ring 16 is the error ring). -/
  | hostRingHeadWrite (ring : Fin 17) (v : BitVec 32)
  /-- JOB_CREATION (14 R338). -/
  | jobCreation (spec : JobSpec)
  deriving DecidableEq, Repr

end Sys2Proof
end

