-- ==== Sys2Proof/WellFormed.lean ====
section
/-! DEFINITION. The well-formed instructions: the limits that the opcode maps put on a word's fields beyond their
widths (03 R91, R97–R117). A field the encoding reserves in some form has its reset value there. -/

namespace Sys2Proof

/-- The code of a type (03 R104). -/
def Ty.code : Ty → Nat
  | .f32 => 0
  | .f16 => 1
  | .bf16 => 2
  | .e4m3 => 3
  | .e5m2 => 4
  | .t8 => 5
  | .e2m1 => 6
  | .i32 => 8
  | .i16 => 9
  | .i8 => 10

/-- The type of a code; the codes with a dash are unassigned (03 R104). -/
def Ty.ofCode : Nat → Option Ty
  | 0 => some .f32
  | 1 => some .f16
  | 2 => some .bf16
  | 3 => some .e4m3
  | 4 => some .e5m2
  | 5 => some .t8
  | 6 => some .e2m1
  | 8 => some .i32
  | 9 => some .i16
  | 10 => some .i8
  | _ => none

/-- The types that 03 R112 calls FP. -/
def Ty.fp : Ty → Bool
  | .f32 | .f16 | .bf16 => true
  | _ => false

/-- The types that 03 R112 calls INT. -/
def Ty.int : Ty → Bool
  | .i32 | .i16 | .i8 => true
  | _ => false

/-- The types of the words that take FP and INT. -/
def Ty.fpOrInt (t : Ty) : Bool := t.fp || t.int

/-- The types of VADDI, VRED and VDRAIN. -/
def Ty.is32 (t : Ty) : Bool := decide (t = .f32 ∨ t = .i32)

/-- The type of the f32 functions. -/
def Ty.isF32 (t : Ty) : Bool := decide (t = .f32)

/-- The width in bits of a type. -/
def Ty.width : Ty → Nat
  | .f32 | .i32 => 32
  | .f16 | .bf16 | .i16 => 16
  | .e4m3 | .e5m2 | .t8 | .i8 => 8
  | .e2m1 => 4

/-- The code of a rounding field (03 R111). -/
def Rm.code : Rm → Nat
  | .dyn => 0
  | .rne => 1
  | .rtz => 2
  | .rup => 3
  | .rdn => 4
  | .sr => 5

/-- The rounding field of a code (03 R111). -/
def Rm.ofCode : Nat → Option Rm
  | 0 => some .dyn
  | 1 => some .rne
  | 2 => some .rtz
  | 3 => some .rup
  | 4 => some .rdn
  | 5 => some .sr
  | _ => none

/-- The code of an operand format (03 R115). -/
def Fmt.code : Fmt → Nat
  | .bf16 => 0
  | .e4m3 => 1
  | .e5m2 => 2
  | .t8 => 3
  | .int8 => 4
  | .mxfp4 => 5
  | .mxfp8 => 6

/-- The operand format of a code (03 R115). -/
def Fmt.ofCode : Nat → Option Fmt
  | 0 => some .bf16
  | 1 => some .e4m3
  | 2 => some .e5m2
  | 3 => some .t8
  | 4 => some .int8
  | 5 => some .mxfp4
  | 6 => some .mxfp8
  | _ => none

/-- The pairs MFMT accepts (03 R115). -/
def fmtPair (fa fb : Fmt) : Bool :=
  decide (fa = fb ∨ (fa = .e4m3 ∧ fb = .e5m2) ∨ (fa = .e5m2 ∧ fb = .e4m3))

/-- How a VCVT uses its rounding field (07 R209). -/
inductive RmUse where
  | withSr | plain | reserved
  deriving DecidableEq, Repr

/-- The rounding use of a VCVT pair; none for a pair that VCVT does not accept (07 R209). -/
def cvtRm (dst src : Ty) (mx : Bool) : Option RmUse :=
  match src, dst, mx with
  | .f32, .f16, false | .f32, .bf16, false | .f32, .e4m3, false | .f32, .e5m2, false | .f32, .t8, false
  | .f32, .e2m1, true | .f32, .e4m3, true => some .withSr
  | .f32, .i32, false | .f32, .i16, false | .f32, .i8, false
  | .i32, .i16, false | .i32, .i8, false | .i16, .i32, false | .i8, .i32, false => some .reserved
  | .f16, .f32, false | .bf16, .f32, false | .e4m3, .f32, false | .e5m2, .f32, false | .t8, .f32, false
  | .e2m1, .f32, false | .e2m1, .f32, true | .e4m3, .f32, true
  | .i32, .f32, false | .i16, .f32, false | .i8, .f32, false => some .plain
  | _, _, _ => none

/-- Whether `.ns` is accepted (07 R208). -/
def nsOk (dst : Ty) (mx : Bool) : Bool := !mx && decide (dst = .e4m3 ∨ dst = .e5m2 ∨ dst = .t8)

/-- The rounding field of a VCVT (07 R209). -/
def cvtRmOk (dst src : Ty) (mx : Bool) (rm : Rm) : Bool :=
  match cvtRm dst src mx with
  | none => false
  | some .reserved => decide (rm = .dyn)
  | some .plain => decide (rm ≠ .sr)
  | some .withSr => true

/-- The rounding field of a V word that is no VCVT (03 R111). -/
def rmOk (fp : Bool) (rm : Rm) : Bool := if fp then decide (rm ≠ .sr) else decide (rm = .dyn)

/-- The limits that CLKDIV's divisors keep (03 R107, 15 R362). -/
def divisorOk (e : Engine) (d : Nat) : Bool :=
  match e with
  | .v | .m => decide (2 ≤ d ∧ d ≤ 8)
  | _ => decide (3 ≤ d ∧ d ≤ 8)

/-- The limits of a domain set (03 R100). -/
def DSet.ok (d : DSet) : Bool :=
  (match d.sp with | some (f, l) => decide (f ≤ l) | none => true) &&
  (match d.ac with | some (f, l) => decide (f ≤ l) | none => true)

/-- The limit of an affine tile word (03 R108). -/
def AT.ok (x : AT) : Bool := decide ((x.rows.val + 1) * (x.rbytes.val + 1) ≤ 4096)

/-- The limit of an indexed tile word (03 R108). -/
def AX.ok (x : AX) : Bool := decide ((x.count.val + 1) * 2 ^ x.esz.val ≤ 4096)

/-- The fields that a copy word accepts (09 R261). -/
def XD.ok (x : XD) (oob cv cke : Bool) : Bool :=
  (!x.fill || oob) && (!x.coord.isSome || cv) && (!x.cask.isSome || cke)

/-- The size in bytes of a drained element (08 R247). -/
def Ty.size (t : Ty) : Nat := t.width / 8

/-- The limits of MDRAIN (08 R247). -/
def mdrainOk (fmt : Ty) (frow lrow : Fin 32) (dst : DrainDst) : Bool :=
  decide (fmt ≠ .e2m1 ∧ frow ≤ lrow) &&
  (match dst with
   | .spad a => decide (a.toNat % fmt.size = 0 ∧ a.toNat + 32 * fmt.size * (lrow.val - frow.val + 1) ≤ 2 ^ 21)
   | .tile _ _ => decide (32 * fmt.size * (lrow.val - frow.val + 1) ≤ 4096))

/-- A loop word: a body of one word at least (05 R165), and for VLOOP a count of 17 bits and no STALL (07 R224). -/
def vcountOk : LoopCount → Bool
  | .imm n => decide (n.toNat < 2 ^ 17)
  | .word _ s => decide (s = 255)

/-- The well-formed instructions. -/
def Instr.wf : Instr → Bool
  | .ldAcqW _ _ run _ | .ldAcqD _ _ run _ | .stRelW _ _ run _ | .stRelD _ _ run _
  | .stwRel _ _ run _ => decide (run.lo ≤ run.hi)
  | .loop _ _ len => decide (len ≠ 0)
  | .fork engines a => decide (engines ≠ 0 ∧ 1 ≤ a.val ∧ a.val ≤ 60)
  | .rendez engines _ => decide (engines ≠ 0)
  | .steep set | .kilnR set | .kilnL set => set.ok
  | .clkdiv e d => divisorOk e d.val
  | .tld x | .tst x | .tldRaw x => x.ok
  | .tldx x | .tstx x => x.ok
  | .apf _ _ rows rbytes _ => decide ((rows.val + 1) * (rbytes.val + 1) ≤ 4096)
  | .aloop _ _ len | .mloop _ _ len | .xloop _ _ len => decide (len ≠ 0)
  | .vloop _ count len => vcountOk count && decide (len ≠ 0)
  | .vadd ty _ rm _ _ _ | .vsub ty _ rm _ _ _ | .vmul ty _ rm _ _ _
  | .vmin ty _ rm _ _ _ | .vmax ty _ rm _ _ _ => ty.fpOrInt && rmOk ty.fp rm
  | .vfma ty _ rm _ _ _ _ | .vfms ty _ rm _ _ _ _ | .vnfma ty _ rm _ _ _ _ => ty.fp && rmOk true rm
  | .vabs ty _ rm _ _ | .vneg ty _ rm _ _ => ty.fpOrInt && rmOk ty.fp rm
  | .vaddi ty _ rm _ _ _ => ty.is32 && rmOk ty.fp rm
  | .vcmpEq ty _ _ _ _ | .vcmpNe ty _ _ _ _ | .vcmpLt ty _ _ _ _ | .vcmpLe ty _ _ _ _
  | .vcmpGt ty _ _ _ _ | .vcmpGe ty _ _ _ _ => ty.fpOrInt
  | .vcmpUn ty _ _ _ _ => ty.fp
  | .vsll ty _ _ _ _ | .vsrl ty _ _ _ _ | .vsra ty _ _ _ _ => ty.int
  | .vslli ty _ _ _ sh | .vsrli ty _ _ _ sh | .vsrai ty _ _ _ sh => ty.int && decide (sh.val < ty.width)
  | .vcvt dst src mx ns _ rm _ _ => cvtRmOk dst src mx rm && (!ns || nsOk dst mx)
  | .vroundi ty _ rm _ _ => ty.fp && rmOk true rm
  | .vfexp2 _ rm _ _ | .vgetexp _ rm _ _ | .vgetmant _ rm _ _ | .vrcp _ rm _ _ | .vrsq _ rm _ _
  | .vlog2 _ rm _ _ => rmOk true rm
  | .vscaleb _ rm _ _ _ => rmOk true rm
  | .vredSum ty _ rm _ _ | .vredMax ty _ rm _ _ | .vredMin ty _ rm _ _ => ty.is32 && rmOk ty.fp rm
  | .vdrain ty _ rm _ _ _ _ _ => ty.is32 && rmOk ty.fp rm
  | .mset _ (.imm n) _ _ _ => decide (n ≠ 0)
  | .mfmt fa fb => fmtPair fa fb
  | .malloc banks | .mfree banks => decide (banks ≠ 0)
  | .mclaim _ frow lrow _ | .mrelease _ frow lrow _ => decide (frow ≤ lrow)
  | .mdrain _ frow lrow dst fmt rm => mdrainOk fmt frow lrow dst && (!fmt.int || decide (rm = .dyn))
  | .xcopy x | .xconv x | .xgather x => x.ok true true true
  | .xmcast x | .xscatter x | .xsmd x | .xred x | .xamo x => x.ok false false true
  | .xcsr x => x.ok false true true
  | .xmig x | .xlink x | .xchain x => x.ok false false false
  | .xcask _ _ bytes => decide (bytes ≠ 0)
  | .xsig _ bytes => decide (bytes ≠ 0)
  | .xjoin queues => decide (queues ≠ 0)
  | _ => true

end Sys2Proof
end

