-- ==== Sys2Proof/Machine/Num.lean ====
section
/-! DEFINITION. Number formats and arithmetic (spec/04): exact values, rounding, the codes of every format, T8, MX
blocks, A56, the windowed group sum, the correctly rounded functions, and the stochastic-rounding generator. -/

namespace Sys2Proof.Machine

/-! ## Exact values -/

/-- An exact value: NaN (signalling or not), an infinity, or (−1)^neg · m · 2^e; m = 0 is a zero of that sign. -/
inductive Num where
  | nan (signalling : Bool)
  | inf (neg : Bool)
  | fin (neg : Bool) (m : Nat) (e : Int)
  deriving DecidableEq, Repr

/-- The FPSTATUS flags (01 R12). -/
abbrev Flags := BitVec 5

/-- NV, bit 0. -/
def fNV : Flags := 1
/-- DZ, bit 1. -/
def fDZ : Flags := 2
/-- OF, bit 2. -/
def fOF : Flags := 4
/-- UF, bit 3. -/
def fUF : Flags := 8
/-- NX, bit 4. -/
def fNX : Flags := 16

/-- The flags `f` when the condition holds. -/
def flagIf (b : Bool) (f : Flags) : Flags := if b then f else 0

/-- A number shifted left by a signed count of places. -/
def shiftBy (n : Nat) (k : Int) : Nat := if 0 ≤ k then n * 2 ^ k.toNat else n / 2 ^ (-k).toNat

/-- floor(log2 (m · 2^e)) of a nonzero magnitude. -/
def floorLog (m : Nat) (e : Int) : Int := (Nat.log2 m : Int) + e

/-- Whether m · 2^e < m' · 2^e'. -/
def magLt (m : Nat) (e : Int) (m' : Nat) (e' : Int) : Bool :=
  let q := min e e'
  decide (m * 2 ^ (e - q).toNat < m' * 2 ^ (e' - q).toNat)

/-- The signed integer that (−1)^neg · m · 2^e is at the quantum 2^q, q ≤ e. -/
def atQuantum (neg : Bool) (m : Nat) (e q : Int) : Int :=
  let v : Int := (m * 2 ^ (e - q).toNat : Nat)
  if neg then -v else v

/-! ## Rounding -/

/-- A resolved rounding mode; `sr` draws `n` bits `u` (04 R129, R130). -/
inductive Mode1 where
  | rne | rtz | rup | rdn
  | sr (u n : Nat)
  deriving DecidableEq, Repr

/-- A rounding mode of FPSTATUS.RM (01 R12). -/
def Mode1.ofCode : Nat → Mode1
  | 0 => .rne
  | 1 => .rtz
  | 2 => .rup
  | _ => .rdn

/-- What a format makes of a magnitude above its largest finite value (04 R129). -/
inductive Over where
  | inf | nan | sat
  deriving DecidableEq, Repr

/-- A format as a set of finite values: the quantum of each binade and of every binade if the exponent range were
unbounded, the largest finite value F and its next F′, the exponent of the least normal magnitude, and its overflow
results (04 R118, R124, R129). -/
structure Grid where
  quantum : Int → Int
  unbounded : Int → Int
  maxM : Nat
  maxE : Int
  nextM : Nat
  emin : Int
  ovf : Over

/-- The grid of a format with F fraction bits and the given bias, and the fraction field of its largest value. -/
def ieeeGrid (fb : Nat) (bias : Int) (maxM : Nat) (maxE : Int) (ovf : Over) : Grid where
  quantum := fun p => max (p - fb) (1 - bias - fb)
  unbounded := fun p => p - fb
  maxM := maxM
  maxE := maxE
  nextM := maxM + 1
  emin := 1 - bias
  ovf := ovf

/-- FP32 (04 R118). -/
def gF32 : Grid := ieeeGrid 23 127 (2 ^ 24 - 1) 104 .inf
/-- FP16 (04 R118). -/
def gF16 : Grid := ieeeGrid 10 15 (2 ^ 11 - 1) 5 .inf
/-- BF16 (04 R118). -/
def gBf16 : Grid := ieeeGrid 7 127 (2 ^ 8 - 1) 120 .inf
/-- E4M3 (04 R118). -/
def gE4m3 (sat : Bool) : Grid := ieeeGrid 3 7 14 5 (if sat then .sat else .nan)
/-- E5M2 (04 R118). -/
def gE5m2 (sat : Bool) : Grid := ieeeGrid 2 15 7 13 (if sat then .sat else .inf)
/-- E2M1, always saturating (04 R118, R129). -/
def gE2m1 : Grid := ieeeGrid 1 1 3 1 .sat

/-- The fraction bits of the T8 binade 2^p (04 R124). -/
def t8FracBits (p : Int) : Nat :=
  let t : Nat := if 0 ≤ p then p.toNat else (-p - 1).toNat
  4 - t / 2

/-- The quantum of T8 at binade p; below 2^−11 there is only 0 (04 R124, R125). -/
def t8Quantum (p : Int) : Int := if p < -11 then -11 else p - t8FracBits p

/-- T8 (04 R124, R125). Its tininess is decided apart (R136). -/
def gT8 (sat : Bool) : Grid where
  quantum := t8Quantum
  unbounded := t8Quantum
  maxM := 1
  maxE := 10
  nextM := 2
  emin := -11
  ovf := if sat then .sat else .inf

/-- Whether the magnitude rounds away from `a`: `r` of `2^k` parts above it, `a` odd (04 R129, R130). -/
def roundsUp (mode : Mode1) (neg odd : Bool) (r k : Nat) : Bool :=
  match mode with
  | .rne => decide (2 ^ k < 2 * r) || (decide (2 * r = 2 ^ k) && odd)
  | .rtz => false
  | .rup => !neg && decide (r ≠ 0)
  | .rdn => neg && decide (r ≠ 0)
  | .sr u n => decide (u < r * 2 ^ n / 2 ^ k)

/-- The magnitude m · 2^e rounded on the quantum 2^q: the count of quanta and whether it is inexact. -/
def roundOn (mode : Mode1) (neg : Bool) (m : Nat) (e q : Int) : Nat × Bool :=
  if q ≤ e then (m * 2 ^ (e - q).toNat, false)
  else
    let k := (q - e).toNat
    let a := m / 2 ^ k
    let r := m % 2 ^ k
    (if roundsUp mode neg (decide (a % 2 = 1)) r k then a + 1 else a, decide (r ≠ 0))

/-- The outcome of rounding: a finite magnitude n · 2^q, or the overflow result; with what happened. -/
structure Rounded where
  ovf : Bool
  n : Nat
  q : Int
  inexact : Bool
  tiny : Bool
  deriving DecidableEq, Repr

/-- Whether a magnitude above F overflows (04 R129): RNE from (F + F′)/2, RTZ never, the directed modes by sign; SR
as RNE (R130). -/
def overflows (g : Grid) (mode : Mode1) (neg : Bool) (m : Nat) (e : Int) : Bool :=
  match mode with
  | .rne | .sr _ _ => !magLt m e (g.maxM + g.nextM) (g.maxE - 1)
  | .rtz => false
  | .rup => !neg
  | .rdn => neg

/-- Rounding of a nonzero magnitude onto a grid (04 R129, R130); tininess after rounding (R136). -/
def roundMag (g : Grid) (mode : Mode1) (neg : Bool) (m : Nat) (e : Int) : Rounded :=
  if magLt g.maxM g.maxE m e then
    ⟨overflows g mode neg m e, g.maxM, g.maxE, true, false⟩
  else
    let p := floorLog m e
    let q := g.quantum p
    let (n, ix) := roundOn mode neg m e q
    let (n', _) := roundOn mode neg m e (g.unbounded p)
    ⟨false, n, q, ix, decide (n' ≠ 0) && magLt n' (g.unbounded p) 1 g.emin⟩

/-- The mode in which a magnitude above F is rounded: SR rounds it as RNE (04 R130). -/
def Mode1.above : Mode1 → Mode1
  | .sr _ _ => .rne
  | m => m

/-- Whether a magnitude above F, rounded as if the exponent range were unbounded, lies above F (IEEE 754 overflow). -/
def beyond (g : Grid) (mode : Mode1) (neg : Bool) (m : Nat) (e : Int) : Bool :=
  magLt g.maxM g.maxE m e &&
    (let q := g.unbounded (floorLog m e)
     let (n, _) := roundOn mode.above neg m e q
     magLt g.maxM g.maxE n q)

/-! ## Codes -/

/-- The value of a code with `eb` exponent and `fb` fraction bits (04 R118); `specials`: exponents of all ones are
infinities and NaNs. -/
def decodeIeee (eb fb : Nat) (bias : Int) (specials : Bool) (c : Nat) : Num :=
  let f := c % 2 ^ fb
  let x := c / 2 ^ fb % 2 ^ eb
  let neg := decide (c / 2 ^ (fb + eb) % 2 = 1)
  if specials && decide (x = 2 ^ eb - 1) then
    if f = 0 then .inf neg else .nan (decide (f / 2 ^ (fb - 1) % 2 = 0))
  else if x = 0 then .fin neg f (1 - bias - fb)
  else .fin neg (2 ^ fb + f) ((x : Int) - bias - fb)

/-- A NaN that is never signalling (04 R119). -/
def Num.quiet : Num → Num
  | .nan _ => .nan false
  | x => x

/-- The value of a T8 code (04 R123). -/
def decodeT8 (c : Nat) : Num :=
  if c = 0x00 then .fin false 0 0
  else if c = 0x80 then .nan false
  else if c = 0x40 then .inf false
  else if c = 0xC0 then .inf true
  else
    let neg := decide (c / 128 % 2 = 1)
    let p := c % 64
    let h := Nat.log2 p
    let k := 5 - h
    let x := if k ≤ 4 then p / 2 ^ (h - 1) % 2 else 0
    let nf := 4 - k
    let fr := p % 2 ^ nf
    let t : Int := 2 * k + x
    let e : Int := if c / 64 % 2 = 1 then t else -t - 1
    .fin neg (2 ^ nf + fr) (e - nf)

/-- The value of a code of a floating-point type (04 R118, R123). -/
def decodeFp (t : Ty) (c : Nat) : Num :=
  match t with
  | .f32 => decodeIeee 8 23 127 true c
  | .f16 => decodeIeee 5 10 15 true c
  | .bf16 => decodeIeee 8 7 127 true c
  | .e4m3 => if c % 128 = 127 then .nan false else decodeIeee 4 3 7 false c
  | .e5m2 => (decodeIeee 5 2 15 true c).quiet
  | .e2m1 => decodeIeee 2 1 1 false c
  | .t8 => decodeT8 c
  | _ => .nan false

/-- The code of the finite magnitude n · 2^q, which the format represents (04 R118). -/
def packIeee (eb fb : Nat) (bias : Int) (neg : Bool) (n : Nat) (q : Int) : Nat :=
  let s := if neg then 2 ^ (fb + eb) else 0
  if n = 0 then s
  else
    let p := floorLog n q
    if p < 1 - bias then s + shiftBy n (q - (1 - bias - fb))
    else s + (p + bias).toNat * 2 ^ fb + (shiftBy n (q - (p - fb)) - 2 ^ fb)

/-- The T8 code of a finite magnitude (04 R123, R124); zero is 0x00 whatever its sign (R125). -/
def packT8 (neg : Bool) (n : Nat) (q : Int) : Nat :=
  if n = 0 then 0
  else
    let p := floorLog n q
    let t : Nat := if 0 ≤ p then p.toNat else (-p - 1).toNat
    let k := t / 2
    let h := 5 - k
    let nf := 4 - k
    let fr := shiftBy n (q - (p - nf)) - 2 ^ nf
    let pay := if k ≤ 4 then 2 ^ h + (t % 2) * 2 ^ (h - 1) + fr else 1
    (if neg then 128 else 0) + (if 0 ≤ p then 64 else 0) + pay

/-- The default NaN of a type (04 R119). E2M1 has none; its NaNs never arise. -/
def defaultNaN : Ty → Nat
  | .f32 => 0x7FC00000
  | .f16 => 0x7E00
  | .bf16 => 0x7FC0
  | .e4m3 => 0x7F
  | .e5m2 => 0x7E
  | .t8 => 0x80
  | _ => 0

/-- The grid of a floating-point type. -/
def gridOf (t : Ty) (sat : Bool) : Grid :=
  match t with
  | .f32 => gF32
  | .f16 => gF16
  | .bf16 => gBf16
  | .e4m3 => gE4m3 sat
  | .e5m2 => gE5m2 sat
  | .e2m1 => gE2m1
  | _ => gT8 sat

/-- The code of a finite value of a type. -/
def packFin (t : Ty) (neg : Bool) (n : Nat) (q : Int) : Nat :=
  match t with
  | .f32 => packIeee 8 23 127 neg n q
  | .f16 => packIeee 5 10 15 neg n q
  | .bf16 => packIeee 8 7 127 neg n q
  | .e4m3 => packIeee 4 3 7 neg n q
  | .e5m2 => packIeee 5 2 15 neg n q
  | .e2m1 => packIeee 2 1 1 neg n q
  | _ => packT8 neg n q

/-- The code of an infinity of a type; an overflow result of E4M3 non-saturating is its NaN (04 R129). -/
def packInf (t : Ty) (neg : Bool) : Nat :=
  match t with
  | .f32 => if neg then 0xFF800000 else 0x7F800000
  | .f16 => if neg then 0xFC00 else 0x7C00
  | .bf16 => if neg then 0xFF80 else 0x7F80
  | .e5m2 => if neg then 0xFC else 0x7C
  | .t8 => if neg then 0xC0 else 0x40
  | t => defaultNaN t

/-- The largest finite value of a type with a sign. -/
def packMax (t : Ty) (neg : Bool) : Nat := packFin t neg (gridOf t true).maxM (gridOf t true).maxE

/-- fp_encode and t8_encode (04 R147, R125): the code of a value under a mode, and the rounding it took. A NaN gives
the default NaN; an infinity converts as R129 gives. -/
def encodeFp (t : Ty) (mode : Mode1) (sat : Bool) (x : Num) : Nat × Rounded :=
  let none : Rounded := ⟨false, 0, 0, false, false⟩
  match x with
  | .nan _ => (defaultNaN t, none)
  | .inf neg =>
    match t with
    | .f32 | .f16 | .bf16 | .t8 => (packInf t neg, none)
    | .e4m3 => (if sat then packMax t neg else defaultNaN t, none)
    | .e5m2 => (if sat then packMax t neg else packInf t neg, none)
    | _ => (packMax t neg, none)
  | .fin neg m e =>
    if m = 0 then (packFin t neg 0 0, none)
    else
      let r := roundMag (gridOf t sat) mode neg m e
      let code :=
        if r.ovf then
          match (gridOf t sat).ovf with
          | .inf => packInf t neg
          | .nan => defaultNaN t
          | .sat => packMax t neg
        else packFin t neg r.n r.q
      (code, r)

/-- round_fmt into FP32, FP16 or BF16 with the flags of a V word (04 R136): overflow sets OF and NX. -/
def roundFp (t : Ty) (mode : Mode1) (x : Num) : Nat × Flags :=
  match x with
  | .fin neg m e =>
    if m = 0 then (packFin t neg 0 0, 0)
    else
      let (c, r) := encodeFp t mode false x
      let ovf := beyond (gridOf t false) mode neg m e
      (c, flagIf r.inexact fNX ||| flagIf ovf fOF ||| flagIf (r.tiny && r.inexact) fUF)
  | _ => ((encodeFp t mode false x).1, 0)

/-! ## Exact arithmetic (IEEE 754, 04 R136) -/

/-- The sign changed. -/
def Num.neg : Num → Num
  | .nan s => .nan s
  | .inf n => .inf !n
  | .fin n m e => .fin (!n) m e

/-- Whether a value is a NaN. -/
def Num.isNaN : Num → Bool
  | .nan _ => true
  | _ => false

/-- Whether a value is a signalling NaN. -/
def Num.isSig : Num → Bool
  | .nan s => s
  | _ => false

/-- An exact sum; the sign of an exact zero sum follows IEEE 754 (`down`: the mode is RDN). -/
def finAdd (down : Bool) (n1 : Bool) (m1 : Nat) (e1 : Int) (n2 : Bool) (m2 : Nat) (e2 : Int) : Num :=
  let q := min e1 e2
  let v := atQuantum n1 m1 e1 q + atQuantum n2 m2 e2 q
  if v = 0 then
    if m1 = 0 ∧ m2 = 0 ∧ n1 = n2 then .fin n1 0 0 else .fin down 0 0
  else .fin (decide (v < 0)) v.natAbs q

/-- The sum of two values and the flag NV (04 R136). -/
def numAdd (down : Bool) (a b : Num) : Num × Flags :=
  match a, b with
  | .nan s, y => (.nan false, flagIf (s || y.isSig) fNV)
  | x, .nan s => (.nan false, flagIf (s || x.isSig) fNV)
  | .inf n1, .inf n2 => if n1 = n2 then (.inf n1, 0) else (.nan false, fNV)
  | .inf n, _ => (.inf n, 0)
  | _, .inf n => (.inf n, 0)
  | .fin n1 m1 e1, .fin n2 m2 e2 => (finAdd down n1 m1 e1 n2 m2 e2, 0)

/-- The product of two values and the flag NV (04 R136). -/
def numMul (a b : Num) : Num × Flags :=
  match a, b with
  | .nan s, y => (.nan false, flagIf (s || y.isSig) fNV)
  | x, .nan s => (.nan false, flagIf (s || x.isSig) fNV)
  | .inf n1, .inf n2 => (.inf (n1 != n2), 0)
  | .inf n1, .fin n2 m _ => if m = 0 then (.nan false, fNV) else (.inf (n1 != n2), 0)
  | .fin n1 m _, .inf n2 => if m = 0 then (.nan false, fNV) else (.inf (n1 != n2), 0)
  | .fin n1 m1 e1, .fin n2 m2 e2 => (.fin (n1 != n2) (m1 * m2) (e1 + e2), 0)

/-- a · b + c, the product exact; zero times infinity sets NV even when the addend is a quiet NaN (07 R202). -/
def numFma (down : Bool) (a b c : Num) : Num × Flags :=
  let (p, f) := numMul a b
  let (s, g) := numAdd down p c
  (s, f ||| g)

/-- The order of two values that are no NaN, −0 below +0. -/
def numLt (a b : Num) : Bool :=
  match a, b with
  | .inf n1, .inf n2 => n1 && !n2
  | .inf n, _ => n
  | _, .inf n => !n
  | .fin n1 m1 e1, .fin n2 m2 e2 =>
    if m1 = 0 ∧ m2 = 0 then n1 && !n2
    else
      let q := min e1 e2
      decide (atQuantum n1 m1 e1 q < atQuantum n2 m2 e2 q)
  | _, _ => false

/-- Equality of two values that are no NaN, −0 equal to +0. -/
def numEq (a b : Num) : Bool :=
  match a, b with
  | .inf n1, .inf n2 => n1 == n2
  | .fin n1 m1 e1, .fin n2 m2 e2 =>
    let q := min e1 e2
    decide (atQuantum n1 m1 e1 q = atQuantum n2 m2 e2 q)
  | _, _ => false

/-! ## Correctly rounded functions

Each value is given by enough bits with the lowest one standing for what lies below (DEDUCED, log entry 12). -/

/-- The square root of `n`, rounded down, by bits from 2^i on. -/
def isqrtFrom (n : Nat) : Nat → Nat → Nat
  | 0, r => r
  | i + 1, r => if (r + 2 ^ i) * (r + 2 ^ i) ≤ n then isqrtFrom n i (r + 2 ^ i) else isqrtFrom n i r

/-- floor(√n). -/
def isqrt (n : Nat) : Nat := isqrtFrom n (Nat.log2 n / 2 + 1) 0

/-- A positive value between v · 2^q and (v + 1) · 2^q, exact when `exact` holds. -/
def sticky (neg : Bool) (v : Nat) (q : Int) (exact : Bool) : Num :=
  .fin neg (2 * v + (if exact then 0 else 1)) (q - 1)

/-- 1/x of a nonzero magnitude (07 R213). -/
def recip (neg : Bool) (m : Nat) (e : Int) : Num :=
  let k := Nat.log2 m + 64
  sticky neg (2 ^ k / m) (-e - k) (decide (2 ^ k % m = 0))

/-- 1/√x of a positive magnitude (07 R213). -/
def rsqrt (m : Nat) (e : Int) : Num :=
  let m' := if e % 2 = 0 then m else 2 * m
  let e' := if e % 2 = 0 then e else e - 1
  let k := Nat.log2 m' + 128
  let k2 := k + k % 2
  let r := isqrt (2 ^ (2 * k2) / m')
  sticky false r (-(e' / 2) - k2) (decide (r * r * m' = 2 ^ (2 * k2)))

/-- `i` further bits of log2 of y · 2^−n, y in [2^n, 2^(n+1)). -/
def logBits (n : Nat) : Nat → Nat → Nat → Nat
  | 0, _, acc => acc
  | i + 1, y, acc =>
    let y2 := y * y / 2 ^ n
    if 2 ^ (n + 1) ≤ y2 then logBits n i (y2 / 2) (2 * acc + 1) else logBits n i y2 (2 * acc)

/-- log2 of a positive magnitude, to 96 bits below the point (07 R213). -/
def numLog2 (m : Nat) (e : Int) : Num :=
  let l := Nat.log2 m
  let p : Int := l + e
  if m = 2 ^ l then .fin (decide (p < 0)) p.natAbs 0
  else
    let y := m * 2 ^ 256 / 2 ^ l
    let f := logBits 256 96 y 0
    let v : Int := p * 2 ^ 96 + f
    if 0 ≤ v then sticky false v.toNat (-96) false
    else sticky true (-v - 1).toNat (-96) false

/-- ln 2 · 2^320, rounded down: Σ 1/(k·2^k). -/
def ln2Scaled : Nat := (List.range 340).foldl (fun s k => s + 2 ^ 320 / ((k + 1) * 2 ^ (k + 1))) 0

/-- Σ t^k/k! scaled by 2^320, `i` further terms, from term `term` of index `k`. -/
def expTerms (t : Nat) : Nat → Nat → Nat → Nat → Nat
  | 0, _, _, acc => acc
  | i + 1, k, term, acc =>
    let term' := term * t / 2 ^ 320 / (k + 1)
    expTerms t i (k + 1) term' (acc + term')

/-- 2^x of a fraction m · 2^e with 0 ≤ x < 1, scaled by 2^320 (04 R137). -/
def exp2Frac (m : Nat) (e : Int) : Nat :=
  let x := shiftBy m (e + 320)
  let t := x * ln2Scaled / 2 ^ 320
  expTerms t 72 0 (2 ^ 320) (2 ^ 320)

/-- 2^x for |x| ≤ 1 (04 R137). -/
def numExp2 (neg : Bool) (m : Nat) (e : Int) : Num :=
  if m = 0 then .fin false 1 0
  else if !magLt m e 1 0 then (if neg then .fin false 1 (-1) else .fin false 1 1)
  else if neg then
    -- 2^−x = 2^(1−x)/2, and 1 − x is a fraction
    let q := min e 0
    let f := 2 ^ (-q).toNat - m * 2 ^ (e - q).toNat
    sticky false (exp2Frac f q) (-321) false
  else sticky false (exp2Frac m e) (-320) false

/-! ## Integers -/

/-- The signed value of the low `w` bits. -/
def signed (w n : Nat) : Int :=
  let v := n % 2 ^ w
  if v < 2 ^ (w - 1) then v else (v : Int) - 2 ^ w

/-- The low `w` bits of an integer. -/
def wrap (w : Nat) (v : Int) : Nat := (v % (2 ^ w : Int)).toNat

/-- sat_i8, sat_i16 and sat_i32 (04 R147). -/
def satInt (w : Nat) (v : Int) : Int := max (-(2 ^ (w - 1))) (min (2 ^ (w - 1) - 1) v)

/-- An integer as an exact value. -/
def numOfInt (v : Int) : Num := .fin (decide (v < 0)) v.natAbs 0

/-- A finite value truncated toward zero. -/
def truncNum (neg : Bool) (m : Nat) (e : Int) : Int :=
  let v : Int := shiftBy m e
  if neg then -v else v

/-! ## MX blocks (04 R120, R121) -/

/-- The value of an element under a scale byte: 0xFF makes it NaN (04 R120). -/
def mxValue (elem : Num) (s : Nat) : Num :=
  if s = 255 then .nan false
  else
    match elem with
    | .fin n m e => .fin n m (e + ((s : Int) - 127))
    | x => x

/-- The scale of a block (04 R121 steps 1 to 4): none stands for 0xFF. -/
def mxScale (t : Ty) (xs : List Num) : Option Nat :=
  if xs.any fun x => match x with | .fin _ _ _ => false | _ => true then none
  else
    let top := xs.foldl (fun (acc : Option Int) x =>
      match x with
      | .fin _ m e => if m = 0 then acc else
          match acc with
          | some p => some (max p (floorLog m e))
          | none => some (floorLog m e)
      | _ => acc) none
    match top with
    | none => some 127
    | some p =>
      let emax : Int := if t = .e2m1 then 2 else 8
      some (max 0 (min 254 (p - emax + 127))).toNat

/-- A finite value divided by 2^(S − 127). -/
def mxUnscale (x : Num) (s : Nat) : Num :=
  match x with
  | .fin n m e => .fin n m (e - ((s : Int) - 127))
  | x => x

/-! ## A56 (04 R126, R127) -/

/-- a56_unpack (04 R126). -/
def a56Unpack (v : Nat) : Num :=
  let e := v / 2 ^ 46 % 1024
  let m := v % 2 ^ 46
  if e = 1023 then
    if m = 0x1FFFFFFFFFFF then .inf false
    else if m = 0x200000000000 then .inf true
    else .nan false
  else
    let s := signed 46 m
    .fin (decide (s < 0)) s.natAbs ((max e 1 : Nat) - 555)

/-- The code of a significand and exponent. -/
def a56Code (e : Nat) (neg : Bool) (m : Nat) : Nat := e * 2 ^ 46 + wrap 46 (if neg then -(m : Int) else m)

/-- a56_pack (04 R127). -/
def a56Pack : Num → Nat
  | .nan _ => 1023 * 2 ^ 46
  | .inf neg => if neg then 1023 * 2 ^ 46 + 0x200000000000 else 1023 * 2 ^ 46 + 0x1FFFFFFFFFFF
  | .fin neg m e =>
    if m = 0 then 0
    else
      let p := floorLog m e
      let q := max (p - 44) (-554)
      let (n, _) := roundOn .rne neg m e q
      if n = 0 then 0
      else
        let n' := if 2 ^ 45 ≤ n then n / 2 else n
        let q' := if 2 ^ 45 ≤ n then q + 1 else q
        if n' < 2 ^ 44 then a56Code 0 neg n'
        else if q' + 555 > 1022 then (if neg then 1023 * 2 ^ 46 + 0x200000000000 else 1023 * 2 ^ 46 + 0x1FFFFFFFFFFF)
        else a56Code (q' + 555).toNat neg n'

/-- window_sum of terms with a window of W bits (04 R133): the new A56 value and husk flag. -/
def windowSum (terms : List Num) (w : Nat) (husk : Bool) : Nat × Bool :=
  let anyNaN := terms.any Num.isNaN
  let pInf := terms.any (fun t => decide (t = .inf false))
  let nInf := terms.any (fun t => decide (t = .inf true))
  if anyNaN || (pInf && nInf) then (a56Pack (.nan false), husk)
  else if pInf then (a56Pack (.inf false), husk)
  else if nInf then (a56Pack (.inf true), husk)
  else
    let top := terms.foldl (fun (acc : Option Int) t =>
      match t with
      | .fin _ m e => if m = 0 then acc else
          match acc with
          | some p => some (max p (floorLog m e))
          | none => some (floorLog m e)
      | _ => acc) none
    match top with
    | none => (a56Pack (.fin false 0 0), husk)
    | some p =>
      let q := p - w + 1
      let (s, h) := terms.foldl (fun (acc : Int × Bool) t =>
        match t with
        | .fin neg m e =>
          let k := shiftBy m (e - q)
          let lost := decide (e < q) && decide (m % 2 ^ (q - e).toNat ≠ 0)
          (acc.1 + (if neg then -(k : Int) else k), acc.2 || lost)
        | _ => acc) (0, husk)
      (a56Pack (.fin (decide (s < 0)) s.natAbs q), h)

/-- The window width of a WIN value (04 R131). -/
def windowWidth (win : Nat) : Nat := 24 + 8 * win

/-- One group of an INT8 pass (04 R135): the new VAL and husk flag. -/
def int8Group (val : Nat) (products : List Int) (husk : Bool) : Nat × Bool :=
  let s := products.foldl (· + ·) (signed 32 val)
  let t := satInt 32 s
  (wrap 56 t, husk || decide (t ≠ s))

/-! ## Stochastic rounding (04 R139) -/

/-- lfsr_step. -/
def lfsrStep (g : Word32) : Word32 :=
  if g.getLsbD 0 then (g >>> 1) ^^^ 0x80200003#32 else g >>> 1

/-- sr_bits: a rotation left by 5 × lane, the low `n` bits. -/
def srBits (g : Word32) (lane n : Nat) : Nat :=
  let k := 5 * lane % 32
  ((g <<< k) ||| (g >>> (32 - k))).toNat % 2 ^ n

/-- The count of random bits for a destination (04 R130). -/
def srCount (t : Ty) : Nat := if 16 ≤ t.width then 16 else 12

end Sys2Proof.Machine
end

