-- ==== Sys2Proof/Decode.lean ====
section
/-! DEFINITION. The decoder, total on the bits of a word, rejecting by name; after it the encoder, written from the
same tables of spec/03. Bits are numbered from the least significant bit of the word; hint bits are ignored (R90). -/

namespace Sys2Proof

/-- Why a word is not an instruction (03 R91). `reserved` carries the instruction that the other bits name, so that
the checks that come before *reserved field nonzero* can be made (03 R92). -/
inductive Reject where
  | illegal
  | reserved (i : Instr)
  deriving DecidableEq, Repr

/-- The `k` bits of `w` from bit `lo` on. -/
def bits (w lo k : Nat) : Nat := w / 2 ^ lo % 2 ^ k

/-- A register number read from bit `lo` on. -/
def rn {n : Nat} [NeZero n] (w lo : Nat) : Fin n := Fin.ofNat n (w / 2 ^ lo)

/-- An immediate read from bit `lo` on. -/
def rb {n : Nat} (w lo : Nat) : BitVec n := BitVec.ofNat n (w / 2 ^ lo)

/-- One bit. -/
def flag (w lo : Nat) : Bool := decide (w / 2 ^ lo % 2 = 1)

/-- The number of a bit. -/
def bit (b : Bool) : Nat := if b then 1 else 0

/-- The instruction, unless a reserved bit is set (03 R91). -/
def done (rsv : Nat) (i : Instr) : Except Reject Instr := if rsv = 0 then .ok i else .error (.reserved i)

/-- The limits of a field (03 R91). -/
def check (ok : Bool) (r : Except Reject Instr) : Except Reject Instr := if ok then r else .error .illegal

/-- The type of a V word, from TY (03 R104, R112). -/
def withTy (w : Nat) (allowed : Ty → Bool) (k : Ty → Except Reject Instr) : Except Reject Instr :=
  match Ty.ofCode (bits w 54 4) with
  | some ty => check (allowed ty) (k ty)
  | none => .error .illegal

/-- The rounding field of a V word: semantic in a word with a floating-point result, where `sr` is refused (VCVT
reads its own), reserved in every other (03 R111). -/
def withRm (w : Nat) (fp : Bool) (k : Rm → Nat → Except Reject Instr) : Except Reject Instr :=
  if fp then
    match Rm.ofCode (bits w 48 3) with
    | some rm => check (decide (rm ≠ .sr)) (k rm 0)
    | none => .error .illegal
  else k .dyn (bits w 48 3)

/-- A TOP field at bit `lo` (03 R102). -/
def readTop (w lo : Nat) : TileRef := if flag w (lo + 5) then .queue (rn w lo) else .tile (rn w lo)

/-- The reserved bits TOP[4:3] of a queue operand (03 R102). -/
def topRsv (w lo : Nat) : Nat := if flag w (lo + 5) then bits w (lo + 3) 2 else 0

/-- The DSET field at bits 25:3 (03 R100). -/
def readDSet (w : Nat) : DSet where
  dind := rb w 19
  sp := if flag w 18 then some (rn w 14, rn w 10) else none
  ac := if flag w 9 then some (rn w 6, rn w 3) else none

/-- The limits of DSET (03 R100). -/
def dsetOk (w : Nat) : Bool :=
  (!flag w 18 || decide (bits w 14 4 ≤ bits w 10 4)) && (!flag w 9 || decide (bits w 6 3 ≤ bits w 3 3))

/-- The reserved bits of DSET (03 R100). -/
def dsetRsv (w : Nat) : Nat := (if flag w 18 then 0 else bits w 10 8) + (if flag w 9 then 0 else bits w 3 6)

/-- The engine of CLKDIV (03 R107). -/
def engineOf : Nat → Option Engine
  | 0 => some .c
  | 1 => some .a
  | 2 => some .v
  | 3 => some .m
  | 4 => some .x
  | _ => none

/-- Body layout AT with CLS (03 R108). -/
def readAT (w : Nat) : AT where
  cls := rn w 54
  tile := readTop w 42
  ab := rn w 38
  stride := rn w 34
  rows := rn w 29
  rbytes := rn w 17
  keep := flag w 16
  off := rb w 8
  stall := rn w 0

/-- The limit of AT (03 R108). -/
def atOk (w : Nat) : Bool := decide ((bits w 29 5 + 1) * (bits w 17 12 + 1) ≤ 4096)

/-- Body layout AX with CLS (03 R108). -/
def readAX (w : Nat) : AX where
  cls := rn w 54
  tile := readTop w 42
  ab := rn w 38
  idx := readTop w 32
  esz := rn w 30
  count := rn w 20
  keep := flag w 19
  stall := rn w 0

/-- The limit of AX (03 R108). -/
def axOk (w : Nat) : Bool := decide ((bits w 20 10 + 1) * 2 ^ bits w 30 2 ≤ 4096)

/-- The count of a loop word of layout AL, XL or MLOOP (03 R108, R114). -/
def readCount (w cw cnt wl stall : Nat) : LoopCount :=
  if flag w cw then .word (rn w wl) (rn w stall) else .imm (rb w cnt)

/-- Its reserved bits: the rest of COUNT with CW = 1, STALL with CW = 0 (03 R99, R108). -/
def countRsv (w cw cnt cn wl stall : Nat) : Nat :=
  if flag w cw then bits w (wl + 4) (cnt + cn - wl - 4) else bits w stall 8

/-- The count of VLOOP, which has 17 bits and no STALL field (07 R224). -/
def readVCount (w : Nat) : LoopCount :=
  if flag w 29 then .word (rn w 12) 255 else .imm (BitVec.ofNat 20 (bits w 12 17))

/-- The reserved bits of VLOOP's count (07 R224). -/
def vcountRsv (w : Nat) : Nat := if flag w 29 then bits w 16 13 else 0

/-- The trip count of MSET (08 R235). -/
def readTrip (w : Nat) : Trip := if flag w 12 then .word (rn w 85) (rn w 108) else .imm (rb w 85)

/-- The reserved bits of MSET's trip count (08 R235). -/
def tripRsv (w : Nat) : Nat := if flag w 12 then bits w 89 16 else bits w 108 8

/-- The body of MSRC (03 R114). -/
def readMSrc (w : Nat) : MSrc where
  apos := rn w 0
  amc := flag w 2
  abase := rb w 3
  bpos := rn w 24
  bmc := flag w 26
  bbase := rb w 27

/-- Body layout XD with CLS (03 R116). -/
def readXD (w : Nat) : XD where
  cls := rn w 54
  cask := if flag w 41 then some (rn w 42) else none
  fill := flag w 40
  queue := rn w 37
  desc := rn w 22
  coord := if flag w 11 then some (rb w 12) else none
  stall := rn w 0

/-- The fields OOB, CV and CKE that a copy word accepts (09 R261). -/
def xdOk (w : Nat) (oob cv cke : Bool) : Bool := (!flag w 40 || oob) && (!flag w 11 || cv) && (!flag w 41 || cke)

/-- The reserved bits of XD (03 R116). -/
def xdRsv (w : Nat) : Nat := (if flag w 41 then 0 else bits w 42 6) + (if flag w 11 then 0 else bits w 12 10)

/-- VCVT: the pairs, `.mx`, `.ns` and the rounding field (07 R208, R209). A reserved field that holds `sr` is refused
as such where the destination is no narrower than its source (07 R199, log 40). -/
def decodeVcvt (w : Nat) : Except Reject Instr :=
  match Ty.ofCode (bits w 54 4), Ty.ofCode (bits w 18 4) with
  | some dst, some src =>
    match cvtRm dst src (flag w 17) with
    | none => .error .illegal
    | some use =>
      check (!flag w 22 || nsOk dst (flag w 17)) <|
      let rsv := bits w 27 5 + bits w 23 4 + bits w 0 17
      match use with
      | .reserved =>
        check (decide (bits w 48 3 ≠ 5 ∨ dst ≠ .i32)) <|
        done (rsv + bits w 48 3) (.vcvt dst src (flag w 17) (flag w 22) (rn w 51) .dyn (rn w 43) (rn w 38))
      | _ =>
        match Rm.ofCode (bits w 48 3) with
        | none => .error .illegal
        | some rm =>
          check (decide (rm ≠ .sr ∨ use = .withSr)) <|
          done rsv (.vcvt dst src (flag w 17) (flag w 22) (rn w 51) rm (rn w 43) (rn w 38))
  | _, _ => .error .illegal

/-- VMOV: its sources (07 R218). -/
def decodeVmov (w : Nat) : Except Reject Instr :=
  let rsv := bits w 54 4 + bits w 48 3 + bits w 22 10 + bits w 0 18
  let other := fun s => done (rsv + bits w 38 5) (.vmov (rn w 51) (rn w 43) s)
  match bits w 18 4 with
  | 0 => done rsv (.vmov (rn w 51) (rn w 43) (.reg (rn w 38)))
  | 1 => other .vw
  | 2 => other .col
  | 3 => other .row
  | 4 => other .die
  | 5 => other .ctx
  | _ => .error .illegal

/-- MFMT: its pairs (03 R115). -/
def decodeMfmt (w : Nat) : Except Reject Instr :=
  match Fmt.ofCode (bits w 0 3), Fmt.ofCode (bits w 3 3) with
  | some fa, some fb => check (fmtPair fa fb) (done (bits w 6 110) (.mfmt fa fb))
  | _, _ => .error .illegal

/-- MDRAIN: its formats, rounding and limits (08 R247). -/
def decodeMdrain (w : Nat) : Except Reject Instr :=
  match Ty.ofCode (bits w 37 4) with
  | none => .error .illegal
  | some fmt =>
    let dst : DrainDst := if flag w 15 then .tile (readTop w 16) (rn w 108) else .spad (rb w 16)
    let rsv := bits w 44 64 + (if flag w 15 then topRsv w 16 + bits w 22 15 else bits w 108 8)
    check (mdrainOk fmt (rn w 5) (rn w 10) dst) <|
    if fmt.int then done (rsv + bits w 41 3) (.mdrain (rn w 0) (rn w 5) (rn w 10) dst fmt .dyn)
    else
      match Rm.ofCode (bits w 41 3) with
      | none => .error .illegal
      | some rm => done rsv (.mdrain (rn w 0) (rn w 5) (rn w 10) dst fmt rm)

/-- The C word map (03 R107). -/
def decodeC (w : Nat) : Except Reject Instr :=
  match bits w 26 6 with
  | 1 =>
    match bits w 4 4 with
    | 0 => done (bits w 2 2) (.add (rn w 20) (rn w 14) (rn w 8))
    | 1 => done (bits w 2 2) (.sub (rn w 20) (rn w 14) (rn w 8))
    | 2 => done (bits w 2 2) (.and (rn w 20) (rn w 14) (rn w 8))
    | 3 => done (bits w 2 2) (.or (rn w 20) (rn w 14) (rn w 8))
    | 4 => done (bits w 2 2) (.xor (rn w 20) (rn w 14) (rn w 8))
    | 5 => done (bits w 2 2) (.sll (rn w 20) (rn w 14) (rn w 8))
    | 6 => done (bits w 2 2) (.srl (rn w 20) (rn w 14) (rn w 8))
    | 7 => done (bits w 2 2) (.sra (rn w 20) (rn w 14) (rn w 8))
    | 8 => done (bits w 2 2) (.min (rn w 20) (rn w 14) (rn w 8))
    | 9 => done (bits w 2 2) (.max (rn w 20) (rn w 14) (rn w 8))
    | 10 => done (bits w 2 2) (.minu (rn w 20) (rn w 14) (rn w 8))
    | 11 => done (bits w 2 2) (.maxu (rn w 20) (rn w 14) (rn w 8))
    | 12 => done (bits w 2 2 + bits w 8 6) (.clz (rn w 20) (rn w 14))
    | 13 => done (bits w 2 2 + bits w 8 6) (.popc (rn w 20) (rn w 14))
    | _ => .error .illegal
  | 2 =>
    match bits w 4 4 with
    | 0 => done (bits w 2 2) (.mul (rn w 20) (rn w 14) (rn w 8))
    | 1 => done (bits w 2 2) (.mulh (rn w 20) (rn w 14) (rn w 8))
    | 2 => done (bits w 2 2) (.mulhu (rn w 20) (rn w 14) (rn w 8))
    | 3 => done (bits w 2 2) (.div (rn w 20) (rn w 14) (rn w 8))
    | 4 => done (bits w 2 2) (.divu (rn w 20) (rn w 14) (rn w 8))
    | 5 => done (bits w 2 2) (.rem (rn w 20) (rn w 14) (rn w 8))
    | 6 => done (bits w 2 2) (.remu (rn w 20) (rn w 14) (rn w 8))
    | _ => .error .illegal
  | 3 =>
    match bits w 4 4 with
    | 0 => done (bits w 2 2 + bits w 23 3) (.cmpEq (rn w 20) (rn w 14) (rn w 8))
    | 1 => done (bits w 2 2 + bits w 23 3) (.cmpNe (rn w 20) (rn w 14) (rn w 8))
    | 2 => done (bits w 2 2 + bits w 23 3) (.cmpLt (rn w 20) (rn w 14) (rn w 8))
    | 3 => done (bits w 2 2 + bits w 23 3) (.cmpLtu (rn w 20) (rn w 14) (rn w 8))
    | 4 => done (bits w 2 2 + bits w 23 3) (.cmpGe (rn w 20) (rn w 14) (rn w 8))
    | 5 => done (bits w 2 2 + bits w 23 3) (.cmpGeu (rn w 20) (rn w 14) (rn w 8))
    | _ => .error .illegal
  | 4 => done (bits w 2 2 + bits w 7 1) (.sel (rn w 20) (rn w 4) (rn w 14) (rn w 8))
  | 5 => done (0) (.addi (rn w 20) (rn w 14) (rb w 2))
  | 6 => done (0) (.andi (rn w 20) (rn w 14) (rb w 2))
  | 7 => done (0) (.ori (rn w 20) (rn w 14) (rb w 2))
  | 8 => done (0) (.xori (rn w 20) (rn w 14) (rb w 2))
  | 9 =>
    match bits w 12 2 with
    | 0 => done (bits w 8 4) (.slli (rn w 20) (rn w 14) (rn w 2))
    | 1 => done (bits w 8 4) (.srli (rn w 20) (rn w 14) (rn w 2))
    | 2 => done (bits w 8 4) (.srai (rn w 20) (rn w 14) (rn w 2))
    | _ => .error .illegal
  | 10 => done (0) (.li (rn w 20) (rb w 2))
  | 11 => done (0) (.lui (rn w 20) (rb w 2))
  | 16 => done (0) (.ldB (rn w 20) (rn w 14) (rb w 6) (rn w 2))
  | 17 => done (0) (.ldBu (rn w 20) (rn w 14) (rb w 6) (rn w 2))
  | 18 => done (0) (.ldH (rn w 20) (rn w 14) (rb w 6) (rn w 2))
  | 19 => done (0) (.ldHu (rn w 20) (rn w 14) (rb w 6) (rn w 2))
  | 20 => done (0) (.ldW (rn w 20) (rn w 14) (rb w 6) (rn w 2))
  | 21 => done (0) (.ldWu (rn w 20) (rn w 14) (rb w 6) (rn w 2))
  | 22 => done (0) (.ldD (rn w 20) (rn w 14) (rb w 6) (rn w 2))
  | 24 => done (0) (.stB (rn w 20) (rn w 14) (rb w 6) (rn w 2))
  | 25 => done (0) (.stH (rn w 20) (rn w 14) (rb w 6) (rn w 2))
  | 26 => done (0) (.stW (rn w 20) (rn w 14) (rb w 6) (rn w 2))
  | 27 => done (0) (.stD (rn w 20) (rn w 14) (rb w 6) (rn w 2))
  | 28 => check (decide (bits w 10 4 ≤ bits w 6 4)) <| done (0) (.ldAcqW (rn w 20) (rn w 14) ⟨rn w 10, rn w 6⟩ (rn w 2))
  | 29 => check (decide (bits w 10 4 ≤ bits w 6 4)) <| done (0) (.ldAcqD (rn w 20) (rn w 14) ⟨rn w 10, rn w 6⟩ (rn w 2))
  | 30 => check (decide (bits w 10 4 ≤ bits w 6 4)) <| done (0) (.stRelW (rn w 20) (rn w 14) ⟨rn w 10, rn w 6⟩ (rn w 2))
  | 31 => check (decide (bits w 10 4 ≤ bits w 6 4)) <| done (0) (.stRelD (rn w 20) (rn w 14) ⟨rn w 10, rn w 6⟩ (rn w 2))
  | 32 => done (bits w 24 2) (.ldw (rn w 20) (rn w 14) (rn w 6) (rn w 2))
  | 33 => done (0) (.stw (rn w 20) (rn w 14) (rb w 6) (rn w 2))
  | 34 => check (decide (bits w 10 4 ≤ bits w 6 4)) <| done (0) (.stwRel (rn w 20) (rn w 14) ⟨rn w 10, rn w 6⟩ (rn w 2))
  | 35 =>
    match bits w 4 4 with
    | 0 => done (0) (.amoAddW (rn w 20) (rn w 14) (rn w 8) (rn w 0))
    | 1 => done (0) (.amoAndW (rn w 20) (rn w 14) (rn w 8) (rn w 0))
    | 2 => done (0) (.amoOrW (rn w 20) (rn w 14) (rn w 8) (rn w 0))
    | 3 => done (0) (.amoXorW (rn w 20) (rn w 14) (rn w 8) (rn w 0))
    | 4 => done (0) (.amoSminW (rn w 20) (rn w 14) (rn w 8) (rn w 0))
    | 5 => done (0) (.amoSmaxW (rn w 20) (rn w 14) (rn w 8) (rn w 0))
    | 6 => done (0) (.amoUminW (rn w 20) (rn w 14) (rn w 8) (rn w 0))
    | 7 => done (0) (.amoUmaxW (rn w 20) (rn w 14) (rn w 8) (rn w 0))
    | 8 => done (0) (.amoSwapW (rn w 20) (rn w 14) (rn w 8) (rn w 0))
    | 9 => done (0) (.amoFaddW (rn w 20) (rn w 14) (rn w 8) (rn w 0))
    | 10 => done (0) (.amoBfaddW (rn w 20) (rn w 14) (rn w 8) (rn w 0))
    | _ => .error .illegal
  | 36 =>
    match bits w 4 4 with
    | 0 => done (0) (.amoAddD (rn w 20) (rn w 14) (rn w 8) (rn w 0))
    | 1 => done (0) (.amoAndD (rn w 20) (rn w 14) (rn w 8) (rn w 0))
    | 2 => done (0) (.amoOrD (rn w 20) (rn w 14) (rn w 8) (rn w 0))
    | 3 => done (0) (.amoXorD (rn w 20) (rn w 14) (rn w 8) (rn w 0))
    | 4 => done (0) (.amoSminD (rn w 20) (rn w 14) (rn w 8) (rn w 0))
    | 5 => done (0) (.amoSmaxD (rn w 20) (rn w 14) (rn w 8) (rn w 0))
    | 6 => done (0) (.amoUminD (rn w 20) (rn w 14) (rn w 8) (rn w 0))
    | 7 => done (0) (.amoUmaxD (rn w 20) (rn w 14) (rn w 8) (rn w 0))
    | 8 => done (0) (.amoSwapD (rn w 20) (rn w 14) (rn w 8) (rn w 0))
    | _ => .error .illegal
  | 37 =>
    match bits w 4 4 with
    | 0 => done (0) (.casW (rn w 20) (rn w 14) (rn w 8) (rn w 0))
    | 1 => done (0) (.casD (rn w 20) (rn w 14) (rn w 8) (rn w 0))
    | _ => .error .illegal
  | 38 => done (bits w 18 8) (.fenceC (rb w 2))
  | 40 =>
    match bits w 22 1 with
    | 0 => done (0) (.br (rn w 23) (rb w 2))
    | _ => done (0) (.brn (rn w 23) (rb w 2))
  | 41 => done (bits w 20 6) (.jmp (rb w 2))
  | 42 => done (bits w 20 6) (.call (rb w 2))
  | 43 =>
    match bits w 4 4 with
    | 0 => done (bits w 2 2 + bits w 8 6 + bits w 20 6) (.calli (rn w 14))
    | 1 => done (bits w 2 2 + bits w 8 18) .ret
    | _ => .error .illegal
  | 44 => check (decide (bits w 2 16 ≠ 0)) <| done (0) (.loop (rn w 20) (rn w 18) (rb w 2))
  | 48 => check (decide (bits w 4 4 ≠ 0 ∧ 1 ≤ bits w 14 6 ∧ bits w 14 6 ≤ 60)) <| done (bits w 2 2 + bits w 8 6 + bits w 20 6) (.fork (rb w 4) (rn w 14))
  | 49 => check (decide (bits w 2 4 ≠ 0)) <| done (bits w 14 12) (.rendez (rb w 2) (rn w 6))
  | 50 => done (bits w 2 4 + bits w 24 2) (.wput (rn w 20) (rn w 14) (rn w 6))
  | 51 => done (bits w 2 4 + bits w 18 2) (.wget (rn w 20) (rn w 14) (rn w 6))
  | 52 => done (bits w 2 4) (.ckwait (rn w 20) (rn w 14) (rn w 6))
  | 53 =>
    match bits w 4 4 with
    | 0 => done (bits w 2 2 + bits w 8 6 + bits w 20 6) (.ckrel (rn w 14))
    | _ => .error .illegal
  | 54 => check (dsetOk w) <| done (bits w 2 1 + dsetRsv w) (.steep (readDSet w))
  | 55 => check (dsetOk w) <| done (bits w 2 1 + dsetRsv w) (.kilnR (readDSet w))
  | 56 => check (dsetOk w) <| done (bits w 2 1 + dsetRsv w) (.kilnL (readDSet w))
  | 57 =>
    match bits w 4 4 with
    | 0 => done (bits w 2 2 + bits w 8 6 + bits w 20 6) (.steepReg (rn w 14))
    | 1 => done (bits w 2 2 + bits w 8 6 + bits w 20 6) (.kilnRReg (rn w 14))
    | 2 => done (bits w 2 2 + bits w 8 6 + bits w 20 6) (.kilnLReg (rn w 14))
    | _ => .error .illegal
  | 58 => check (decide (bits w 2 5 ≠ 31)) <| done (bits w 7 13) (.domq (rn w 20) (Fin.ofNat 31 (bits w 2 5)))
  | 59 => match engineOf (bits w 2 3) with | some eng => check (divisorOk eng (bits w 5 4)) <| done (bits w 9 17) (.clkdiv eng (rn w 5)) | none => .error .illegal
  | 60 => done (bits w 14 6) (.csrr (rn w 20) (rb w 2))
  | 61 => done (bits w 20 6) (.csrw (rb w 2) (rn w 14))
  | 62 =>
    match bits w 4 4 with
    | 0 => done (bits w 2 2 + bits w 8 18) .nop
    | 1 => done (bits w 2 2 + bits w 8 18) .clkwait
    | 2 => done (bits w 2 2 + bits w 8 18) .pwrack
    | 3 => done (bits w 2 2 + bits w 8 18) .eret
    | 4 => done (bits w 2 2 + bits w 8 18) .halt
    | 5 => done (bits w 2 2 + bits w 8 18) .gyle
    | 6 => done (bits w 2 2 + bits w 8 18) .tend
    | 7 => done (bits w 2 2 + bits w 8 18) .bsync
    | 8 => done (bits w 2 2 + bits w 8 6 + bits w 20 6) (.trap (rn w 14))
    | _ => .error .illegal
  | 63 =>
    match bits w 4 4 with
    | 0 => done (bits w 2 2 + bits w 8 6 + bits w 20 6) (.launch (rn w 14))
    | 1 => done (bits w 2 2 + bits w 8 6 + bits w 20 6) (.tspawn (rn w 14))
    | 2 => done (bits w 2 2 + bits w 8 6 + bits w 20 6) (.cancelL (rn w 14))
    | 3 => done (bits w 2 2 + bits w 8 6 + bits w 20 6) (.cancelG (rn w 14))
    | 4 => done (bits w 2 2 + bits w 8 6 + bits w 20 6) (.cancelP (rn w 14))
    | 5 => done (bits w 2 2 + bits w 8 6 + bits w 20 6) (.cancelJ (rn w 14))
    | 6 => done (bits w 2 2 + bits w 8 6 + bits w 20 6) (.seize (rn w 14))
    | _ => .error .illegal
  | _ => .error .illegal

/-- The A word map (03 R109). -/
def decodeA (w : Nat) : Except Reject Instr :=
  match bits w 58 6 with
  | 1 => check (atOk w) <| done (topRsv w 42) (.tld (readAT w))
  | 2 => check (atOk w) <| done (topRsv w 42) (.tst (readAT w))
  | 3 => check (atOk w) <| done (topRsv w 42) (.tldRaw (readAT w))
  | 4 => check (axOk w) <| done (bits w 8 11 + topRsv w 42 + topRsv w 32) (.tldx (readAX w))
  | 5 => check (axOk w) <| done (bits w 8 11 + topRsv w 42 + topRsv w 32) (.tstx (readAX w))
  | 6 => check (atOk w) <| done (bits w 0 8 + bits w 16 1 + bits w 42 6 + bits w 54 4) (.apf (rn w 38) (rn w 34) (rn w 29) (rn w 17) (rb w 8))
  | 8 => done (bits w 0 34 + bits w 54 4) (.qdef (rn w 45) (rn w 40) (rb w 34))
  | 9 => done (bits w 8 32 + bits w 54 4) (.apush (rn w 40) (rn w 44) (rn w 0))
  | 10 => done (bits w 8 32 + bits w 54 4) (.apop (rn w 44) (rn w 40) (rn w 0))
  | 11 => done (bits w 0 36 + bits w 54 4) (.aadd (rn w 44) (rn w 40) (rn w 36))
  | 12 => done (bits w 32 8 + bits w 54 4) (.aaddi (rn w 44) (rn w 40) (rb w 0))
  | 13 => check (decide (bits w 10 12 ≠ 0)) <| done (bits w 8 2 + bits w 42 3 + bits w 54 4 + countRsv w 45 22 20 22 0) (.aloop (rn w 46) (readCount w 45 22 22 0) (rb w 10))
  | 14 => done (bits w 8 30 + bits w 54 4) (.aCkwait (rn w 44) (rn w 38) (rn w 0))
  | 15 => done (bits w 0 38 + bits w 44 4 + bits w 54 4) (.aCkrel (rn w 38))
  | 16 => done (bits w 16 32 + bits w 54 4) (.afence (rb w 0))
  | 17 => done (bits w 0 48 + bits w 54 4) .ajoin
  | 18 => done (bits w 0 48 + bits w 54 4) .anop
  | _ => .error .illegal

/-- The V word map (03 R112). -/
def decodeVOp (w : Nat) : Except Reject Instr :=
  match bits w 58 6 with
  | 1 => withTy w Ty.fpOrInt fun ty => withRm w (ty.fp) fun rm rs => done (bits w 0 27 + rs) (.vadd ty (rn w 51) rm (rn w 43) (rn w 38) (rn w 27))
  | 2 => withTy w Ty.fpOrInt fun ty => withRm w (ty.fp) fun rm rs => done (bits w 0 27 + rs) (.vsub ty (rn w 51) rm (rn w 43) (rn w 38) (rn w 27))
  | 3 => withTy w Ty.fpOrInt fun ty => withRm w (ty.fp) fun rm rs => done (bits w 0 27 + rs) (.vmul ty (rn w 51) rm (rn w 43) (rn w 38) (rn w 27))
  | 4 => withTy w Ty.fp fun ty => withRm w (ty.fp) fun rm rs => done (bits w 0 22 + rs) (.vfma ty (rn w 51) rm (rn w 43) (rn w 38) (rn w 27) (rn w 22))
  | 5 => withTy w Ty.fp fun ty => withRm w (ty.fp) fun rm rs => done (bits w 0 22 + rs) (.vfms ty (rn w 51) rm (rn w 43) (rn w 38) (rn w 27) (rn w 22))
  | 6 => withTy w Ty.fp fun ty => withRm w (ty.fp) fun rm rs => done (bits w 0 22 + rs) (.vnfma ty (rn w 51) rm (rn w 43) (rn w 38) (rn w 27) (rn w 22))
  | 7 => withTy w Ty.fpOrInt fun ty => withRm w (ty.fp) fun rm rs => done (bits w 0 27 + rs) (.vmin ty (rn w 51) rm (rn w 43) (rn w 38) (rn w 27))
  | 8 => withTy w Ty.fpOrInt fun ty => withRm w (ty.fp) fun rm rs => done (bits w 0 27 + rs) (.vmax ty (rn w 51) rm (rn w 43) (rn w 38) (rn w 27))
  | 9 => withTy w Ty.fpOrInt fun ty => withRm w (ty.fp) fun rm rs => done (bits w 0 32 + rs) (.vabs ty (rn w 51) rm (rn w 43) (rn w 38))
  | 10 => withTy w Ty.fpOrInt fun ty => withRm w (ty.fp) fun rm rs => done (bits w 0 32 + rs) (.vneg ty (rn w 51) rm (rn w 43) (rn w 38))
  | 11 => withTy w Ty.is32 fun ty => withRm w (ty.fp) fun rm rs => done (rs) (.vaddi ty (rn w 51) rm (rn w 43) (rn w 38) (rb w 0))
  | 12 => done (bits w 38 5 + bits w 48 3 + bits w 54 4) (.vmovi (rn w 51) (rn w 43) (rb w 0))
  | 13 =>
    match bits w 18 4 with
    | 0 => withTy w Ty.fpOrInt fun ty => done (bits w 0 18 + bits w 22 5 + bits w 46 5) (.vcmpEq ty (rn w 51) (rn w 43) (rn w 38) (rn w 27))
    | 1 => withTy w Ty.fpOrInt fun ty => done (bits w 0 18 + bits w 22 5 + bits w 46 5) (.vcmpNe ty (rn w 51) (rn w 43) (rn w 38) (rn w 27))
    | 2 => withTy w Ty.fpOrInt fun ty => done (bits w 0 18 + bits w 22 5 + bits w 46 5) (.vcmpLt ty (rn w 51) (rn w 43) (rn w 38) (rn w 27))
    | 3 => withTy w Ty.fpOrInt fun ty => done (bits w 0 18 + bits w 22 5 + bits w 46 5) (.vcmpLe ty (rn w 51) (rn w 43) (rn w 38) (rn w 27))
    | 4 => withTy w Ty.fpOrInt fun ty => done (bits w 0 18 + bits w 22 5 + bits w 46 5) (.vcmpGt ty (rn w 51) (rn w 43) (rn w 38) (rn w 27))
    | 5 => withTy w Ty.fpOrInt fun ty => done (bits w 0 18 + bits w 22 5 + bits w 46 5) (.vcmpGe ty (rn w 51) (rn w 43) (rn w 38) (rn w 27))
    | 6 => withTy w Ty.fp fun ty => done (bits w 0 18 + bits w 22 5 + bits w 46 5) (.vcmpUn ty (rn w 51) (rn w 43) (rn w 38) (rn w 27))
    | _ => .error .illegal
  | 14 => done (bits w 0 22 + bits w 25 2 + bits w 48 3 + bits w 54 4) (.vsel (rn w 51) (rn w 43) (rn w 38) (rn w 27) (rn w 22))
  | 15 =>
    match bits w 18 4 with
    | 0 => done (bits w 0 18 + bits w 22 5 + bits w 48 3 + bits w 54 4) (.vand (rn w 51) (rn w 43) (rn w 38) (rn w 27))
    | 1 => done (bits w 0 18 + bits w 22 5 + bits w 48 3 + bits w 54 4) (.vor (rn w 51) (rn w 43) (rn w 38) (rn w 27))
    | 2 => done (bits w 0 18 + bits w 22 5 + bits w 48 3 + bits w 54 4) (.vxor (rn w 51) (rn w 43) (rn w 38) (rn w 27))
    | 3 => done (bits w 0 18 + bits w 22 5 + bits w 48 3 + bits w 54 4) (.vandn (rn w 51) (rn w 43) (rn w 38) (rn w 27))
    | 4 => done (bits w 0 18 + bits w 22 10 + bits w 48 3 + bits w 54 4) (.vnot (rn w 51) (rn w 43) (rn w 38))
    | _ => .error .illegal
  | 16 =>
    match bits w 18 4 with
    | 0 => withTy w Ty.int fun ty => done (bits w 0 18 + bits w 22 5 + bits w 48 3) (.vsll ty (rn w 51) (rn w 43) (rn w 38) (rn w 27))
    | 1 => withTy w Ty.int fun ty => done (bits w 0 18 + bits w 22 5 + bits w 48 3) (.vsrl ty (rn w 51) (rn w 43) (rn w 38) (rn w 27))
    | 2 => withTy w Ty.int fun ty => done (bits w 0 18 + bits w 22 5 + bits w 48 3) (.vsra ty (rn w 51) (rn w 43) (rn w 38) (rn w 27))
    | _ => .error .illegal
  | 17 =>
    match bits w 30 2 with
    | 0 => withTy w Ty.int fun ty => check (decide (bits w 0 5 < ty.width)) <| done (bits w 5 25 + bits w 48 3) (.vslli ty (rn w 51) (rn w 43) (rn w 38) (rn w 0))
    | 1 => withTy w Ty.int fun ty => check (decide (bits w 0 5 < ty.width)) <| done (bits w 5 25 + bits w 48 3) (.vsrli ty (rn w 51) (rn w 43) (rn w 38) (rn w 0))
    | 2 => withTy w Ty.int fun ty => check (decide (bits w 0 5 < ty.width)) <| done (bits w 5 25 + bits w 48 3) (.vsrai ty (rn w 51) (rn w 43) (rn w 38) (rn w 0))
    | _ => .error .illegal
  | 18 => decodeVcvt w
  | 19 => withTy w Ty.fp fun ty => withRm w (ty.fp) fun rm rs => done (bits w 0 32 + rs) (.vroundi ty (rn w 51) rm (rn w 43) (rn w 38))
  | 20 => withTy w Ty.isF32 fun _ => withRm w true fun rm rs => done (bits w 0 32 + rs) (.vfexp2 (rn w 51) rm (rn w 43) (rn w 38))
  | 21 => withTy w Ty.isF32 fun _ => withRm w true fun rm rs => done (bits w 0 27 + rs) (.vscaleb (rn w 51) rm (rn w 43) (rn w 38) (rn w 27))
  | 22 => withTy w Ty.isF32 fun _ => withRm w true fun rm rs => done (bits w 0 32 + rs) (.vgetexp (rn w 51) rm (rn w 43) (rn w 38))
  | 23 => withTy w Ty.isF32 fun _ => withRm w true fun rm rs => done (bits w 0 32 + rs) (.vgetmant (rn w 51) rm (rn w 43) (rn w 38))
  | 24 => withTy w Ty.isF32 fun _ => withRm w true fun rm rs => done (bits w 0 32 + rs) (.vrcp (rn w 51) rm (rn w 43) (rn w 38))
  | 25 => withTy w Ty.isF32 fun _ => withRm w true fun rm rs => done (bits w 0 32 + rs) (.vrsq (rn w 51) rm (rn w 43) (rn w 38))
  | 26 => withTy w Ty.isF32 fun _ => withRm w true fun rm rs => done (bits w 0 32 + rs) (.vlog2 (rn w 51) rm (rn w 43) (rn w 38))
  | 27 => withTy w Ty.isF32 fun _ => done (bits w 0 32 + bits w 48 3) (.vclass (rn w 51) (rn w 43) (rn w 38))
  | 32 =>
    match bits w 18 4 with
    | 0 => withTy w Ty.is32 fun ty => withRm w (ty.fp) fun rm rs => done (bits w 0 18 + bits w 22 10 + rs) (.vredSum ty (rn w 51) rm (rn w 43) (rn w 38))
    | 1 => withTy w Ty.is32 fun ty => withRm w (ty.fp) fun rm rs => done (bits w 0 18 + bits w 22 10 + rs) (.vredMax ty (rn w 51) rm (rn w 43) (rn w 38))
    | 2 => withTy w Ty.is32 fun ty => withRm w (ty.fp) fun rm rs => done (bits w 0 18 + bits w 22 10 + rs) (.vredMin ty (rn w 51) rm (rn w 43) (rn w 38))
    | _ => .error .illegal
  | 33 => done (bits w 0 27 + bits w 48 3 + bits w 54 4) (.vperm (rn w 51) (rn w 43) (rn w 38) (rn w 27))
  | 34 => done (bits w 8 14 + bits w 23 3 + bits w 30 2 + bits w 38 5 + bits w 48 3 + bits w 54 4) (.vbcast (rn w 51) (rn w 43) (rn w 26) (flag w 22) (rn w 0))
  | 35 => done (bits w 0 32 + bits w 38 5 + bits w 48 3 + bits w 54 4) (.viota (rn w 51) (rn w 43))
  | 36 => decodeVmov w
  | 40 => done (bits w 8 14 + bits w 38 5 + bits w 48 3 + bits w 54 4 + topRsv w 26) (.vpop (rn w 51) (rn w 43) (readTop w 26) (rn w 23) (flag w 22) (rn w 0))
  | 41 => done (bits w 8 14 + bits w 43 8 + bits w 54 4 + topRsv w 26) (.vpush (rn w 51) (rn w 38) (readTop w 26) (rn w 23) (flag w 22) (rn w 0))
  | 42 => done (bits w 0 32 + bits w 43 8 + bits w 54 4) (.vpute (rn w 51) (rn w 38))
  | 43 => withTy w Ty.is32 fun ty => withRm w (ty.fp) fun rm rs => done (bits w 8 12 + bits w 38 5 + rs) (.vdrain ty (rn w 51) rm (rn w 43) (rn w 27) (rn w 22) (rn w 20) (rn w 0))
  | 44 =>
    match bits w 18 4 with
    | 0 => done (bits w 0 18 + bits w 22 5 + bits w 30 2 + bits w 41 2 + bits w 46 5 + bits w 54 4) (.vmand (rn w 51) (rn w 43) (rn w 38) (rn w 27))
    | 1 => done (bits w 0 18 + bits w 22 5 + bits w 30 2 + bits w 41 2 + bits w 46 5 + bits w 54 4) (.vmor (rn w 51) (rn w 43) (rn w 38) (rn w 27))
    | 2 => done (bits w 0 18 + bits w 22 5 + bits w 30 2 + bits w 41 2 + bits w 46 5 + bits w 54 4) (.vmxor (rn w 51) (rn w 43) (rn w 38) (rn w 27))
    | 3 => done (bits w 0 18 + bits w 22 5 + bits w 30 2 + bits w 41 2 + bits w 46 5 + bits w 54 4) (.vmandn (rn w 51) (rn w 43) (rn w 38) (rn w 27))
    | 4 => done (bits w 0 18 + bits w 22 10 + bits w 41 2 + bits w 46 5 + bits w 54 4) (.vmnot (rn w 51) (rn w 43) (rn w 38))
    | 5 => done (bits w 0 18 + bits w 22 10 + bits w 41 2 + bits w 46 5 + bits w 54 4) (.vmmov (rn w 51) (rn w 43) (rn w 38))
    | _ => .error .illegal
  | 48 => check (decide (bits w 0 12 ≠ 0)) <| done (bits w 38 20 + vcountRsv w) (.vloop (rn w 30) (readVCount w) (rb w 0))
  | 49 => done (bits w 0 32 + bits w 38 20) .vjoin
  | 50 => done (bits w 0 32 + bits w 38 20) .vnop
  | _ => .error .illegal

/-- A V word: `sr` in any word but a VCVT is refused before its reserved fields are looked at (07 R199, 03 R92,
log 40). -/
def decodeV (w : Nat) : Except Reject Instr := check (decide (bits w 58 6 = 18 ∨ bits w 48 3 ≠ 5)) (decodeVOp w)

/-- The M word map (03 R114). -/
def decodeM (w : Nat) : Except Reject Instr :=
  match bits w 122 6 with
  | 1 => check (decide (bits w 105 3 < 6 ∧ (bits w 12 1 = 1 ∨ bits w 85 20 ≠ 0))) <| done (bits w 0 12 + tripRsv w) (.mset (Fin.ofNat 6 (bits w 105 3)) (readTrip w) (rb w 61) (rb w 37) (rb w 13))
  | 2 => done (bits w 3 113) (.mwin (rn w 0))
  | 3 => decodeMfmt w
  | 4 => done (bits w 48 68) (.msrc (readMSrc w))
  | 5 => done (bits w 0 116) .mgo
  | 6 => done (bits w 10 106) (.mgoS (rb w 0))
  | 7 => done (bits w 32 84) (.mzero (rb w 0))
  | 8 => check (decide (bits w 0 8 ≠ 0)) <| done (bits w 8 108) (.malloc (rb w 0))
  | 9 => check (decide (bits w 0 8 ≠ 0)) <| done (bits w 8 108) (.mfree (rb w 0))
  | 10 => check (decide (bits w 5 5 ≤ bits w 10 5)) <| done (bits w 17 99) (.mclaim (rn w 0) (rn w 5) (rn w 10) (rn w 15))
  | 11 => check (decide (bits w 5 5 ≤ bits w 10 5)) <| done (bits w 17 99) (.mrelease (rn w 0) (rn w 5) (rn w 10) (rn w 15))
  | 12 => decodeMdrain w
  | 13 =>
    match bits w 0 1 with
    | 0 => done (bits w 12 96 + topRsv w 6) (.mflags (rn w 1) (readTop w 6) (rn w 108))
    | _ => done (bits w 12 96 + topRsv w 6) (.mflagsC (rn w 1) (readTop w 6) (rn w 108))
  | 14 => done (bits w 4 104) (.mchk (rn w 0) (rn w 108))
  | 15 => done (bits w 0 116) .mwait
  | 16 => check (decide (bits w 23 12 ≠ 0)) <| done (bits w 35 73 + countRsv w 2 3 20 3 108) (.mloop (rn w 0) (readCount w 2 3 3 108) (rb w 23))
  | 17 => done (bits w 0 116) .mjoin
  | 18 => done (bits w 0 116) .mnop
  | _ => .error .illegal

/-- The X word map (03 R117). -/
def decodeX (w : Nat) : Except Reject Instr :=
  match bits w 58 6 with
  | 1 => check (xdOk w true true true) <| done (bits w 8 3 + xdRsv w) (.xcopy (readXD w))
  | 2 => check (xdOk w true true true) <| done (bits w 8 3 + xdRsv w) (.xconv (readXD w))
  | 3 => check (xdOk w false false true) <| done (bits w 8 3 + xdRsv w) (.xmcast (readXD w))
  | 4 => check (xdOk w false true true) <| done (bits w 8 3 + xdRsv w) (.xcsr (readXD w))
  | 5 => check (xdOk w true true true) <| done (bits w 8 3 + xdRsv w) (.xgather (readXD w))
  | 6 => check (xdOk w false false true) <| done (bits w 8 3 + xdRsv w) (.xscatter (readXD w))
  | 7 => check (xdOk w false false true) <| done (bits w 8 3 + xdRsv w) (.xsmd (readXD w))
  | 8 => check (xdOk w false false true) <| done (bits w 8 3 + xdRsv w) (.xred (readXD w))
  | 9 => check (xdOk w false false true) <| done (bits w 8 3 + xdRsv w) (.xamo (readXD w))
  | 10 => check (xdOk w false false false) <| done (bits w 8 3 + xdRsv w) (.xmig (readXD w))
  | 11 => check (xdOk w false false false) <| done (bits w 8 3 + xdRsv w) (.xlink (readXD w))
  | 12 => check (xdOk w false false false) <| done (bits w 8 3 + xdRsv w) (.xchain (readXD w))
  | 16 => check (decide (bits w 0 32 ≠ 0)) <| done (bits w 32 4 + bits w 54 4) (.xcask (rn w 42) (rn w 36) (rb w 0))
  | 17 => check (decide (bits w 0 32 ≠ 0)) <| done (bits w 32 10 + bits w 54 4) (.xsig (rn w 42) (rb w 0))
  | 18 => check (decide (bits w 40 8 ≠ 0)) <| done (bits w 0 40 + bits w 54 4) (.xjoin (rb w 40))
  | 19 => done (bits w 16 32 + bits w 54 4) (.xfence (rb w 0))
  | 20 => check (decide (bits w 10 12 ≠ 0)) <| done (bits w 8 2 + bits w 42 3 + bits w 54 4 + countRsv w 45 22 20 22 0) (.xloop (rn w 46) (readCount w 45 22 22 0) (rb w 10))
  | 21 => done (bits w 0 48 + bits w 54 4) .xhalt
  | 22 => done (bits w 0 48 + bits w 54 4) .xnop
  | _ => .error .illegal

/-- The decoder of one stream's words (03 R91). -/
def decode (e : Engine) (w : Nat) : Except Reject Instr :=
  match e with
  | .c => decodeC w
  | .a => decodeA w
  | .v => decodeV w
  | .m => decodeM w
  | .x => decodeX w

/-! ## The encoder -/

/-- The word whose fields are the listed values, each at its lowest bit. -/
def fields : List (Nat × Nat) → Nat
  | [] => 0
  | (x, lo) :: r => x * 2 ^ lo + fields r

/-- A TOP field (03 R102). -/
def encTop : TileRef → Nat
  | .tile t => t.val
  | .queue q => 32 + q.val

/-- DSET at bits 25:3 (03 R100). -/
def encDSet (d : DSet) : Nat :=
  d.dind.toNat * 2 ^ 19
    + (match d.sp with | some (f, l) => 2 ^ 18 + f.val * 2 ^ 14 + l.val * 2 ^ 10 | none => 0)
    + (match d.ac with | some (f, l) => 2 ^ 9 + f.val * 2 ^ 6 + l.val * 2 ^ 3 | none => 0)

/-- Layout AT with CLS (03 R108). -/
def encAT (x : AT) : Nat :=
  x.cls.val * 2 ^ 54 + encTop x.tile * 2 ^ 42 + x.ab.val * 2 ^ 38 + x.stride.val * 2 ^ 34 + x.rows.val * 2 ^ 29
    + x.rbytes.val * 2 ^ 17 + bit x.keep * 2 ^ 16 + x.off.toNat * 2 ^ 8 + x.stall.val

/-- Layout AX with CLS (03 R108). -/
def encAX (x : AX) : Nat :=
  x.cls.val * 2 ^ 54 + encTop x.tile * 2 ^ 42 + x.ab.val * 2 ^ 38 + encTop x.idx * 2 ^ 32 + x.esz.val * 2 ^ 30
    + x.count.val * 2 ^ 20 + bit x.keep * 2 ^ 19 + x.stall.val

/-- The count of a loop word (03 R108, R114). -/
def encCount (c : LoopCount) (cw cnt wl stall : Nat) : Nat :=
  match c with
  | .imm n => n.toNat * 2 ^ cnt
  | .word w s => 2 ^ cw + w.val * 2 ^ wl + s.val * 2 ^ stall

/-- The count of VLOOP (07 R224). -/
def encVCount : LoopCount → Nat
  | .imm n => n.toNat * 2 ^ 12
  | .word w _ => 2 ^ 29 + w.val * 2 ^ 12

/-- The trip count of MSET (08 R235). -/
def encTrip : Trip → Nat
  | .imm n => n.toNat * 2 ^ 85
  | .word w s => 2 ^ 12 + w.val * 2 ^ 85 + s.val * 2 ^ 108

/-- The body of MSRC (03 R114). -/
def encMSrc (x : MSrc) : Nat :=
  x.apos.val + bit x.amc * 2 ^ 2 + x.abase.toNat * 2 ^ 3 + x.bpos.val * 2 ^ 24 + bit x.bmc * 2 ^ 26
    + x.bbase.toNat * 2 ^ 27

/-- The source of VMOV (07 R218). -/
def encVSrc : VSrc → Nat
  | .reg v => v.val * 2 ^ 38
  | .vw => 1 * 2 ^ 18
  | .col => 2 * 2 ^ 18
  | .row => 3 * 2 ^ 18
  | .die => 4 * 2 ^ 18
  | .ctx => 5 * 2 ^ 18

/-- The destination of MDRAIN (08 R247). -/
def encDrainDst : DrainDst → Nat
  | .spad a => a.toNat * 2 ^ 16
  | .tile t s => 2 ^ 15 + encTop t * 2 ^ 16 + s.val * 2 ^ 108

/-- Layout XD with CLS (03 R116). -/
def encXD (x : XD) : Nat :=
  x.cls.val * 2 ^ 54
    + (match x.cask with | some k => 2 ^ 41 + k.val * 2 ^ 42 | none => 0)
    + bit x.fill * 2 ^ 40 + x.queue.val * 2 ^ 37 + x.desc.val * 2 ^ 22
    + (match x.coord with | some c => 2 ^ 11 + c.toNat * 2 ^ 12 | none => 0)
    + x.stall.val

/-- The engine whose stream holds an instruction; none for a step that is no word. -/
def Instr.stream : Instr → Option Engine
  | .add _ _ _ | .sub _ _ _ | .and _ _ _ | .or _ _ _ | .xor _ _ _ | .sll _ _ _ | .srl _ _ _ | .sra _ _ _
  | .min _ _ _ | .max _ _ _ | .minu _ _ _ | .maxu _ _ _ | .clz _ _ | .popc _ _ | .mul _ _ _ | .mulh _ _ _
  | .mulhu _ _ _ | .div _ _ _ | .divu _ _ _ | .rem _ _ _ | .remu _ _ _ | .cmpEq _ _ _ | .cmpNe _ _ _
  | .cmpLt _ _ _ | .cmpLtu _ _ _ | .cmpGe _ _ _ | .cmpGeu _ _ _ | .sel _ _ _ _ | .addi _ _ _ | .andi _ _ _
  | .ori _ _ _ | .xori _ _ _ | .slli _ _ _ | .srli _ _ _ | .srai _ _ _ | .li _ _ | .lui _ _ | .ldB _ _ _ _
  | .ldBu _ _ _ _ | .ldH _ _ _ _ | .ldHu _ _ _ _ | .ldW _ _ _ _ | .ldWu _ _ _ _ | .ldD _ _ _ _
  | .stB _ _ _ _ | .stH _ _ _ _ | .stW _ _ _ _ | .stD _ _ _ _ | .ldAcqW _ _ _ _ | .ldAcqD _ _ _ _
  | .stRelW _ _ _ _ | .stRelD _ _ _ _ | .ldw _ _ _ _ | .stw _ _ _ _ | .stwRel _ _ _ _ | .amoAddW _ _ _ _
  | .amoAndW _ _ _ _ | .amoOrW _ _ _ _ | .amoXorW _ _ _ _ | .amoSminW _ _ _ _ | .amoSmaxW _ _ _ _
  | .amoUminW _ _ _ _ | .amoUmaxW _ _ _ _ | .amoSwapW _ _ _ _ | .amoFaddW _ _ _ _ | .amoBfaddW _ _ _ _
  | .amoAddD _ _ _ _ | .amoAndD _ _ _ _ | .amoOrD _ _ _ _ | .amoXorD _ _ _ _ | .amoSminD _ _ _ _
  | .amoSmaxD _ _ _ _ | .amoUminD _ _ _ _ | .amoUmaxD _ _ _ _ | .amoSwapD _ _ _ _ | .casW _ _ _ _
  | .casD _ _ _ _ | .fenceC _ | .br _ _ | .brn _ _ | .jmp _ | .call _ | .calli _ | .ret | .loop _ _ _
  | .fork _ _ | .rendez _ _ | .wput _ _ _ | .wget _ _ _ | .ckwait _ _ _ | .ckrel _ | .steep _ | .kilnR _
  | .kilnL _ | .steepReg _ | .kilnRReg _ | .kilnLReg _ | .domq _ _ | .clkdiv _ _ | .csrr _ _ | .csrw _ _
  | .nop | .clkwait | .pwrack | .eret | .halt | .gyle | .tend | .bsync | .trap _ | .launch _ | .tspawn _
  | .cancelL _ | .cancelG _ | .cancelP _ | .cancelJ _ | .seize _ => some .c
  | .tld _ | .tst _ | .tldRaw _ | .tldx _ | .tstx _ | .apf _ _ _ _ _ | .qdef _ _ _ | .apush _ _ _
  | .apop _ _ _ | .aadd _ _ _ | .aaddi _ _ _ | .aloop _ _ _ | .aCkwait _ _ _ | .aCkrel _ | .afence _
  | .ajoin | .anop => some .a
  | .vadd _ _ _ _ _ _ | .vsub _ _ _ _ _ _ | .vmul _ _ _ _ _ _ | .vfma _ _ _ _ _ _ _ | .vfms _ _ _ _ _ _ _
  | .vnfma _ _ _ _ _ _ _ | .vmin _ _ _ _ _ _ | .vmax _ _ _ _ _ _ | .vabs _ _ _ _ _ | .vneg _ _ _ _ _
  | .vaddi _ _ _ _ _ _ | .vmovi _ _ _ | .vcmpEq _ _ _ _ _ | .vcmpNe _ _ _ _ _ | .vcmpLt _ _ _ _ _
  | .vcmpLe _ _ _ _ _ | .vcmpGt _ _ _ _ _ | .vcmpGe _ _ _ _ _ | .vcmpUn _ _ _ _ _ | .vsel _ _ _ _ _
  | .vand _ _ _ _ | .vor _ _ _ _ | .vxor _ _ _ _ | .vandn _ _ _ _ | .vnot _ _ _ | .vsll _ _ _ _ _
  | .vsrl _ _ _ _ _ | .vsra _ _ _ _ _ | .vslli _ _ _ _ _ | .vsrli _ _ _ _ _ | .vsrai _ _ _ _ _
  | .vcvt _ _ _ _ _ _ _ _ | .vroundi _ _ _ _ _ | .vfexp2 _ _ _ _ | .vscaleb _ _ _ _ _ | .vgetexp _ _ _ _
  | .vgetmant _ _ _ _ | .vrcp _ _ _ _ | .vrsq _ _ _ _ | .vlog2 _ _ _ _ | .vclass _ _ _ | .vredSum _ _ _ _ _
  | .vredMax _ _ _ _ _ | .vredMin _ _ _ _ _ | .vperm _ _ _ _ | .vbcast _ _ _ _ _ | .viota _ _ | .vmov _ _ _
  | .vpop _ _ _ _ _ _ | .vpush _ _ _ _ _ _ | .vpute _ _ | .vdrain _ _ _ _ _ _ _ _ | .vmand _ _ _ _
  | .vmor _ _ _ _ | .vmxor _ _ _ _ | .vmandn _ _ _ _ | .vmnot _ _ _ | .vmmov _ _ _ | .vloop _ _ _ | .vjoin
  | .vnop => some .v
  | .mset _ _ _ _ _ | .mwin _ | .mfmt _ _ | .msrc _ | .mgo | .mgoS _ | .mzero _ | .malloc _ | .mfree _
  | .mclaim _ _ _ _ | .mrelease _ _ _ _ | .mdrain _ _ _ _ _ _ | .mflags _ _ _ | .mflagsC _ _ _ | .mchk _ _
  | .mwait | .mloop _ _ _ | .mjoin | .mnop => some .m
  | .xcopy _ | .xconv _ | .xmcast _ | .xcsr _ | .xgather _ | .xscatter _ | .xsmd _ | .xred _ | .xamo _
  | .xmig _ | .xlink _ | .xchain _ | .xcask _ _ _ | .xsig _ _ | .xjoin _ | .xfence _ | .xloop _ _ _
  | .xhalt | .xnop => some .x
  | _ => none

/-- The words of the C stream, hint 0 (03 R105–R117); 0 for any other instruction. -/
def encodeC : Instr → Nat
  | .add d a b => fields [(1, 26), (d.val, 20), (a.val, 14), (b.val, 8)]
  | .sub d a b => fields [(1, 26), (1, 4), (d.val, 20), (a.val, 14), (b.val, 8)]
  | .and d a b => fields [(1, 26), (2, 4), (d.val, 20), (a.val, 14), (b.val, 8)]
  | .or d a b => fields [(1, 26), (3, 4), (d.val, 20), (a.val, 14), (b.val, 8)]
  | .xor d a b => fields [(1, 26), (4, 4), (d.val, 20), (a.val, 14), (b.val, 8)]
  | .sll d a b => fields [(1, 26), (5, 4), (d.val, 20), (a.val, 14), (b.val, 8)]
  | .srl d a b => fields [(1, 26), (6, 4), (d.val, 20), (a.val, 14), (b.val, 8)]
  | .sra d a b => fields [(1, 26), (7, 4), (d.val, 20), (a.val, 14), (b.val, 8)]
  | .min d a b => fields [(1, 26), (8, 4), (d.val, 20), (a.val, 14), (b.val, 8)]
  | .max d a b => fields [(1, 26), (9, 4), (d.val, 20), (a.val, 14), (b.val, 8)]
  | .minu d a b => fields [(1, 26), (10, 4), (d.val, 20), (a.val, 14), (b.val, 8)]
  | .maxu d a b => fields [(1, 26), (11, 4), (d.val, 20), (a.val, 14), (b.val, 8)]
  | .clz d a => fields [(1, 26), (12, 4), (d.val, 20), (a.val, 14)]
  | .popc d a => fields [(1, 26), (13, 4), (d.val, 20), (a.val, 14)]
  | .mul d a b => fields [(2, 26), (d.val, 20), (a.val, 14), (b.val, 8)]
  | .mulh d a b => fields [(2, 26), (1, 4), (d.val, 20), (a.val, 14), (b.val, 8)]
  | .mulhu d a b => fields [(2, 26), (2, 4), (d.val, 20), (a.val, 14), (b.val, 8)]
  | .div d a b => fields [(2, 26), (3, 4), (d.val, 20), (a.val, 14), (b.val, 8)]
  | .divu d a b => fields [(2, 26), (4, 4), (d.val, 20), (a.val, 14), (b.val, 8)]
  | .rem d a b => fields [(2, 26), (5, 4), (d.val, 20), (a.val, 14), (b.val, 8)]
  | .remu d a b => fields [(2, 26), (6, 4), (d.val, 20), (a.val, 14), (b.val, 8)]
  | .cmpEq d a b => fields [(3, 26), (d.val, 20), (a.val, 14), (b.val, 8)]
  | .cmpNe d a b => fields [(3, 26), (1, 4), (d.val, 20), (a.val, 14), (b.val, 8)]
  | .cmpLt d a b => fields [(3, 26), (2, 4), (d.val, 20), (a.val, 14), (b.val, 8)]
  | .cmpLtu d a b => fields [(3, 26), (3, 4), (d.val, 20), (a.val, 14), (b.val, 8)]
  | .cmpGe d a b => fields [(3, 26), (4, 4), (d.val, 20), (a.val, 14), (b.val, 8)]
  | .cmpGeu d a b => fields [(3, 26), (5, 4), (d.val, 20), (a.val, 14), (b.val, 8)]
  | .sel d q a b => fields [(4, 26), (d.val, 20), (q.val, 4), (a.val, 14), (b.val, 8)]
  | .addi d a imm => fields [(5, 26), (d.val, 20), (a.val, 14), (imm.toNat, 2)]
  | .andi d a imm => fields [(6, 26), (d.val, 20), (a.val, 14), (imm.toNat, 2)]
  | .ori d a imm => fields [(7, 26), (d.val, 20), (a.val, 14), (imm.toNat, 2)]
  | .xori d a imm => fields [(8, 26), (d.val, 20), (a.val, 14), (imm.toNat, 2)]
  | .slli d a sh => fields [(9, 26), (d.val, 20), (a.val, 14), (sh.val, 2)]
  | .srli d a sh => fields [(9, 26), (1, 12), (d.val, 20), (a.val, 14), (sh.val, 2)]
  | .srai d a sh => fields [(9, 26), (2, 12), (d.val, 20), (a.val, 14), (sh.val, 2)]
  | .li d imm => fields [(10, 26), (d.val, 20), (imm.toNat, 2)]
  | .lui d imm => fields [(11, 26), (d.val, 20), (imm.toNat, 2)]
  | .ldB d base off cls => fields [(16, 26), (d.val, 20), (base.val, 14), (off.toNat, 6), (cls.val, 2)]
  | .ldBu d base off cls => fields [(17, 26), (d.val, 20), (base.val, 14), (off.toNat, 6), (cls.val, 2)]
  | .ldH d base off cls => fields [(18, 26), (d.val, 20), (base.val, 14), (off.toNat, 6), (cls.val, 2)]
  | .ldHu d base off cls => fields [(19, 26), (d.val, 20), (base.val, 14), (off.toNat, 6), (cls.val, 2)]
  | .ldW d base off cls => fields [(20, 26), (d.val, 20), (base.val, 14), (off.toNat, 6), (cls.val, 2)]
  | .ldWu d base off cls => fields [(21, 26), (d.val, 20), (base.val, 14), (off.toNat, 6), (cls.val, 2)]
  | .ldD d base off cls => fields [(22, 26), (d.val, 20), (base.val, 14), (off.toNat, 6), (cls.val, 2)]
  | .stB d base off cls => fields [(24, 26), (d.val, 20), (base.val, 14), (off.toNat, 6), (cls.val, 2)]
  | .stH d base off cls => fields [(25, 26), (d.val, 20), (base.val, 14), (off.toNat, 6), (cls.val, 2)]
  | .stW d base off cls => fields [(26, 26), (d.val, 20), (base.val, 14), (off.toNat, 6), (cls.val, 2)]
  | .stD d base off cls => fields [(27, 26), (d.val, 20), (base.val, 14), (off.toNat, 6), (cls.val, 2)]
  | .ldAcqW d base run cls => fields [(28, 26), (d.val, 20), (base.val, 14), (run.lo.val, 10), (run.hi.val, 6), (cls.val, 2)]
  | .ldAcqD d base run cls => fields [(29, 26), (d.val, 20), (base.val, 14), (run.lo.val, 10), (run.hi.val, 6), (cls.val, 2)]
  | .stRelW d base run cls => fields [(30, 26), (d.val, 20), (base.val, 14), (run.lo.val, 10), (run.hi.val, 6), (cls.val, 2)]
  | .stRelD d base run cls => fields [(31, 26), (d.val, 20), (base.val, 14), (run.lo.val, 10), (run.hi.val, 6), (cls.val, 2)]
  | .ldw w base stall cls => fields [(32, 26), (w.val, 20), (base.val, 14), (stall.val, 6), (cls.val, 2)]
  | .stw d base off cls => fields [(33, 26), (d.val, 20), (base.val, 14), (off.toNat, 6), (cls.val, 2)]
  | .stwRel d base run cls => fields [(34, 26), (d.val, 20), (base.val, 14), (run.lo.val, 10), (run.hi.val, 6), (cls.val, 2)]
  | .amoAddW d a b cls => fields [(35, 26), (d.val, 20), (a.val, 14), (b.val, 8), (cls.val, 0)]
  | .amoAndW d a b cls => fields [(35, 26), (1, 4), (d.val, 20), (a.val, 14), (b.val, 8), (cls.val, 0)]
  | .amoOrW d a b cls => fields [(35, 26), (2, 4), (d.val, 20), (a.val, 14), (b.val, 8), (cls.val, 0)]
  | .amoXorW d a b cls => fields [(35, 26), (3, 4), (d.val, 20), (a.val, 14), (b.val, 8), (cls.val, 0)]
  | .amoSminW d a b cls => fields [(35, 26), (4, 4), (d.val, 20), (a.val, 14), (b.val, 8), (cls.val, 0)]
  | .amoSmaxW d a b cls => fields [(35, 26), (5, 4), (d.val, 20), (a.val, 14), (b.val, 8), (cls.val, 0)]
  | .amoUminW d a b cls => fields [(35, 26), (6, 4), (d.val, 20), (a.val, 14), (b.val, 8), (cls.val, 0)]
  | .amoUmaxW d a b cls => fields [(35, 26), (7, 4), (d.val, 20), (a.val, 14), (b.val, 8), (cls.val, 0)]
  | .amoSwapW d a b cls => fields [(35, 26), (8, 4), (d.val, 20), (a.val, 14), (b.val, 8), (cls.val, 0)]
  | .amoFaddW d a b cls => fields [(35, 26), (9, 4), (d.val, 20), (a.val, 14), (b.val, 8), (cls.val, 0)]
  | .amoBfaddW d a b cls => fields [(35, 26), (10, 4), (d.val, 20), (a.val, 14), (b.val, 8), (cls.val, 0)]
  | .amoAddD d a b cls => fields [(36, 26), (d.val, 20), (a.val, 14), (b.val, 8), (cls.val, 0)]
  | .amoAndD d a b cls => fields [(36, 26), (1, 4), (d.val, 20), (a.val, 14), (b.val, 8), (cls.val, 0)]
  | .amoOrD d a b cls => fields [(36, 26), (2, 4), (d.val, 20), (a.val, 14), (b.val, 8), (cls.val, 0)]
  | .amoXorD d a b cls => fields [(36, 26), (3, 4), (d.val, 20), (a.val, 14), (b.val, 8), (cls.val, 0)]
  | .amoSminD d a b cls => fields [(36, 26), (4, 4), (d.val, 20), (a.val, 14), (b.val, 8), (cls.val, 0)]
  | .amoSmaxD d a b cls => fields [(36, 26), (5, 4), (d.val, 20), (a.val, 14), (b.val, 8), (cls.val, 0)]
  | .amoUminD d a b cls => fields [(36, 26), (6, 4), (d.val, 20), (a.val, 14), (b.val, 8), (cls.val, 0)]
  | .amoUmaxD d a b cls => fields [(36, 26), (7, 4), (d.val, 20), (a.val, 14), (b.val, 8), (cls.val, 0)]
  | .amoSwapD d a b cls => fields [(36, 26), (8, 4), (d.val, 20), (a.val, 14), (b.val, 8), (cls.val, 0)]
  | .casW d a b cls => fields [(37, 26), (d.val, 20), (a.val, 14), (b.val, 8), (cls.val, 0)]
  | .casD d a b cls => fields [(37, 26), (1, 4), (d.val, 20), (a.val, 14), (b.val, 8), (cls.val, 0)]
  | .fenceC mask => fields [(38, 26), (mask.toNat, 2)]
  | .br q off => fields [(40, 26), (q.val, 23), (off.toNat, 2)]
  | .brn q off => fields [(40, 26), (1, 22), (q.val, 23), (off.toNat, 2)]
  | .jmp imm => fields [(41, 26), (imm.toNat, 2)]
  | .call imm => fields [(42, 26), (imm.toNat, 2)]
  | .calli a => fields [(43, 26), (a.val, 14)]
  | .ret => fields [(43, 26), (1, 4)]
  | .loop cnt lvl len => fields [(44, 26), (cnt.val, 20), (lvl.val, 18), (len.toNat, 2)]
  | .fork engines a => fields [(48, 26), (engines.toNat, 4), (a.val, 14)]
  | .rendez engines stall => fields [(49, 26), (engines.toNat, 2), (stall.val, 6)]
  | .wput w a stall => fields [(50, 26), (w.val, 20), (a.val, 14), (stall.val, 6)]
  | .wget d w stall => fields [(51, 26), (d.val, 20), (w.val, 14), (stall.val, 6)]
  | .ckwait d ck stall => fields [(52, 26), (d.val, 20), (ck.val, 14), (stall.val, 6)]
  | .ckrel ck => fields [(53, 26), (ck.val, 14)]
  | .steep set => fields [(54, 26), (encDSet set, 0)]
  | .kilnR set => fields [(55, 26), (encDSet set, 0)]
  | .kilnL set => fields [(56, 26), (encDSet set, 0)]
  | .steepReg a => fields [(57, 26), (a.val, 14)]
  | .kilnRReg a => fields [(57, 26), (1, 4), (a.val, 14)]
  | .kilnLReg a => fields [(57, 26), (2, 4), (a.val, 14)]
  | .domq d dom => fields [(58, 26), (d.val, 20), (dom.val, 2)]
  | .clkdiv eng dv => fields [(59, 26), (eng.num, 2), (dv.val, 5)]
  | .csrr d num => fields [(60, 26), (d.val, 20), (num.toNat, 2)]
  | .csrw num a => fields [(61, 26), (num.toNat, 2), (a.val, 14)]
  | .nop => fields [(62, 26)]
  | .clkwait => fields [(62, 26), (1, 4)]
  | .pwrack => fields [(62, 26), (2, 4)]
  | .eret => fields [(62, 26), (3, 4)]
  | .halt => fields [(62, 26), (4, 4)]
  | .gyle => fields [(62, 26), (5, 4)]
  | .tend => fields [(62, 26), (6, 4)]
  | .bsync => fields [(62, 26), (7, 4)]
  | .trap code => fields [(62, 26), (8, 4), (code.val, 14)]
  | .launch a => fields [(63, 26), (a.val, 14)]
  | .tspawn a => fields [(63, 26), (1, 4), (a.val, 14)]
  | .cancelL a => fields [(63, 26), (2, 4), (a.val, 14)]
  | .cancelG a => fields [(63, 26), (3, 4), (a.val, 14)]
  | .cancelP a => fields [(63, 26), (4, 4), (a.val, 14)]
  | .cancelJ a => fields [(63, 26), (5, 4), (a.val, 14)]
  | .seize a => fields [(63, 26), (6, 4), (a.val, 14)]
  | _ => 0

/-- The words of the A stream, hint 0 (03 R105–R117); 0 for any other instruction. -/
def encodeA : Instr → Nat
  | .tld x => fields [(1, 58), (encAT x, 0)]
  | .tst x => fields [(2, 58), (encAT x, 0)]
  | .tldRaw x => fields [(3, 58), (encAT x, 0)]
  | .tldx x => fields [(4, 58), (encAX x, 0)]
  | .tstx x => fields [(5, 58), (encAX x, 0)]
  | .apf ab stride rows rbytes off => fields [(6, 58), (ab.val, 38), (stride.val, 34), (rows.val, 29), (rbytes.val, 17), (off.toNat, 8)]
  | .qdef q base len => fields [(8, 58), (q.val, 45), (base.val, 40), (len.toNat, 34)]
  | .apush w a stall => fields [(9, 58), (w.val, 40), (a.val, 44), (stall.val, 0)]
  | .apop a w stall => fields [(10, 58), (a.val, 44), (w.val, 40), (stall.val, 0)]
  | .aadd d a b => fields [(11, 58), (d.val, 44), (a.val, 40), (b.val, 36)]
  | .aaddi d a imm => fields [(12, 58), (d.val, 44), (a.val, 40), (imm.toNat, 0)]
  | .aloop lvl count len => fields [(13, 58), (lvl.val, 46), (encCount count 45 22 22 0, 0), (len.toNat, 10)]
  | .aCkwait d ck stall => fields [(14, 58), (d.val, 44), (ck.val, 38), (stall.val, 0)]
  | .aCkrel ck => fields [(15, 58), (ck.val, 38)]
  | .afence mask => fields [(16, 58), (mask.toNat, 0)]
  | .ajoin => fields [(17, 58)]
  | .anop => fields [(18, 58)]
  | _ => 0

/-- The words of the V stream, hint 0 (03 R105–R117); 0 for any other instruction. -/
def encodeV : Instr → Nat
  | .vadd ty mask rm vd va vb => fields [(1, 58), (ty.code, 54), (rm.code, 48), (mask.val, 51), (vd.val, 43), (va.val, 38), (vb.val, 27)]
  | .vsub ty mask rm vd va vb => fields [(2, 58), (ty.code, 54), (rm.code, 48), (mask.val, 51), (vd.val, 43), (va.val, 38), (vb.val, 27)]
  | .vmul ty mask rm vd va vb => fields [(3, 58), (ty.code, 54), (rm.code, 48), (mask.val, 51), (vd.val, 43), (va.val, 38), (vb.val, 27)]
  | .vfma ty mask rm vd va vb vc => fields [(4, 58), (ty.code, 54), (rm.code, 48), (mask.val, 51), (vd.val, 43), (va.val, 38), (vb.val, 27), (vc.val, 22)]
  | .vfms ty mask rm vd va vb vc => fields [(5, 58), (ty.code, 54), (rm.code, 48), (mask.val, 51), (vd.val, 43), (va.val, 38), (vb.val, 27), (vc.val, 22)]
  | .vnfma ty mask rm vd va vb vc => fields [(6, 58), (ty.code, 54), (rm.code, 48), (mask.val, 51), (vd.val, 43), (va.val, 38), (vb.val, 27), (vc.val, 22)]
  | .vmin ty mask rm vd va vb => fields [(7, 58), (ty.code, 54), (rm.code, 48), (mask.val, 51), (vd.val, 43), (va.val, 38), (vb.val, 27)]
  | .vmax ty mask rm vd va vb => fields [(8, 58), (ty.code, 54), (rm.code, 48), (mask.val, 51), (vd.val, 43), (va.val, 38), (vb.val, 27)]
  | .vabs ty mask rm vd va => fields [(9, 58), (ty.code, 54), (rm.code, 48), (mask.val, 51), (vd.val, 43), (va.val, 38)]
  | .vneg ty mask rm vd va => fields [(10, 58), (ty.code, 54), (rm.code, 48), (mask.val, 51), (vd.val, 43), (va.val, 38)]
  | .vaddi ty mask rm vd va imm => fields [(11, 58), (ty.code, 54), (rm.code, 48), (mask.val, 51), (vd.val, 43), (va.val, 38), (imm.toNat, 0)]
  | .vmovi mask vd imm => fields [(12, 58), (mask.val, 51), (vd.val, 43), (imm.toNat, 0)]
  | .vcmpEq ty mask md va vb => fields [(13, 58), (ty.code, 54), (mask.val, 51), (md.val, 43), (va.val, 38), (vb.val, 27)]
  | .vcmpNe ty mask md va vb => fields [(13, 58), (1, 18), (ty.code, 54), (mask.val, 51), (md.val, 43), (va.val, 38), (vb.val, 27)]
  | .vcmpLt ty mask md va vb => fields [(13, 58), (2, 18), (ty.code, 54), (mask.val, 51), (md.val, 43), (va.val, 38), (vb.val, 27)]
  | .vcmpLe ty mask md va vb => fields [(13, 58), (3, 18), (ty.code, 54), (mask.val, 51), (md.val, 43), (va.val, 38), (vb.val, 27)]
  | .vcmpGt ty mask md va vb => fields [(13, 58), (4, 18), (ty.code, 54), (mask.val, 51), (md.val, 43), (va.val, 38), (vb.val, 27)]
  | .vcmpGe ty mask md va vb => fields [(13, 58), (5, 18), (ty.code, 54), (mask.val, 51), (md.val, 43), (va.val, 38), (vb.val, 27)]
  | .vcmpUn ty mask md va vb => fields [(13, 58), (6, 18), (ty.code, 54), (mask.val, 51), (md.val, 43), (va.val, 38), (vb.val, 27)]
  | .vsel mask vd va vb mc => fields [(14, 58), (mask.val, 51), (vd.val, 43), (va.val, 38), (vb.val, 27), (mc.val, 22)]
  | .vand mask vd va vb => fields [(15, 58), (mask.val, 51), (vd.val, 43), (va.val, 38), (vb.val, 27)]
  | .vor mask vd va vb => fields [(15, 58), (1, 18), (mask.val, 51), (vd.val, 43), (va.val, 38), (vb.val, 27)]
  | .vxor mask vd va vb => fields [(15, 58), (2, 18), (mask.val, 51), (vd.val, 43), (va.val, 38), (vb.val, 27)]
  | .vandn mask vd va vb => fields [(15, 58), (3, 18), (mask.val, 51), (vd.val, 43), (va.val, 38), (vb.val, 27)]
  | .vnot mask vd va => fields [(15, 58), (4, 18), (mask.val, 51), (vd.val, 43), (va.val, 38)]
  | .vsll ty mask vd va vb => fields [(16, 58), (ty.code, 54), (mask.val, 51), (vd.val, 43), (va.val, 38), (vb.val, 27)]
  | .vsrl ty mask vd va vb => fields [(16, 58), (1, 18), (ty.code, 54), (mask.val, 51), (vd.val, 43), (va.val, 38), (vb.val, 27)]
  | .vsra ty mask vd va vb => fields [(16, 58), (2, 18), (ty.code, 54), (mask.val, 51), (vd.val, 43), (va.val, 38), (vb.val, 27)]
  | .vslli ty mask vd va sh => fields [(17, 58), (ty.code, 54), (mask.val, 51), (vd.val, 43), (va.val, 38), (sh.val, 0)]
  | .vsrli ty mask vd va sh => fields [(17, 58), (1, 30), (ty.code, 54), (mask.val, 51), (vd.val, 43), (va.val, 38), (sh.val, 0)]
  | .vsrai ty mask vd va sh => fields [(17, 58), (2, 30), (ty.code, 54), (mask.val, 51), (vd.val, 43), (va.val, 38), (sh.val, 0)]
  | .vcvt dst src mx ns mask rm vd va => fields [(18, 58), (dst.code, 54), (mask.val, 51), (rm.code, 48), (vd.val, 43), (va.val, 38), (bit ns, 22), (src.code, 18), (bit mx, 17)]
  | .vroundi ty mask rm vd va => fields [(19, 58), (ty.code, 54), (rm.code, 48), (mask.val, 51), (vd.val, 43), (va.val, 38)]
  | .vfexp2 mask rm vd va => fields [(20, 58), (rm.code, 48), (mask.val, 51), (vd.val, 43), (va.val, 38)]
  | .vscaleb mask rm vd va vb => fields [(21, 58), (rm.code, 48), (mask.val, 51), (vd.val, 43), (va.val, 38), (vb.val, 27)]
  | .vgetexp mask rm vd va => fields [(22, 58), (rm.code, 48), (mask.val, 51), (vd.val, 43), (va.val, 38)]
  | .vgetmant mask rm vd va => fields [(23, 58), (rm.code, 48), (mask.val, 51), (vd.val, 43), (va.val, 38)]
  | .vrcp mask rm vd va => fields [(24, 58), (rm.code, 48), (mask.val, 51), (vd.val, 43), (va.val, 38)]
  | .vrsq mask rm vd va => fields [(25, 58), (rm.code, 48), (mask.val, 51), (vd.val, 43), (va.val, 38)]
  | .vlog2 mask rm vd va => fields [(26, 58), (rm.code, 48), (mask.val, 51), (vd.val, 43), (va.val, 38)]
  | .vclass mask vd va => fields [(27, 58), (mask.val, 51), (vd.val, 43), (va.val, 38)]
  | .vredSum ty mask rm vd va => fields [(32, 58), (ty.code, 54), (rm.code, 48), (mask.val, 51), (vd.val, 43), (va.val, 38)]
  | .vredMax ty mask rm vd va => fields [(32, 58), (1, 18), (ty.code, 54), (rm.code, 48), (mask.val, 51), (vd.val, 43), (va.val, 38)]
  | .vredMin ty mask rm vd va => fields [(32, 58), (2, 18), (ty.code, 54), (rm.code, 48), (mask.val, 51), (vd.val, 43), (va.val, 38)]
  | .vperm mask vd va vb => fields [(33, 58), (mask.val, 51), (vd.val, 43), (va.val, 38), (vb.val, 27)]
  | .vbcast mask vd w keep stall => fields [(34, 58), (mask.val, 51), (vd.val, 43), (w.val, 26), (bit keep, 22), (stall.val, 0)]
  | .viota mask vd => fields [(35, 58), (mask.val, 51), (vd.val, 43)]
  | .vmov mask vd src => fields [(36, 58), (mask.val, 51), (vd.val, 43), (encVSrc src, 0)]
  | .vpop mask vd tile part keep stall => fields [(40, 58), (mask.val, 51), (vd.val, 43), (encTop tile, 26), (part.val, 23), (bit keep, 22), (stall.val, 0)]
  | .vpush mask va tile part keep stall => fields [(41, 58), (mask.val, 51), (va.val, 38), (encTop tile, 26), (part.val, 23), (bit keep, 22), (stall.val, 0)]
  | .vpute mask va => fields [(42, 58), (mask.val, 51), (va.val, 38)]
  | .vdrain ty mask rm vd acc row lg stall => fields [(43, 58), (ty.code, 54), (rm.code, 48), (mask.val, 51), (vd.val, 43), (acc.val, 27), (row.val, 22), (lg.val, 20), (stall.val, 0)]
  | .vmand mask md ma mb => fields [(44, 58), (mask.val, 51), (md.val, 43), (ma.val, 38), (mb.val, 27)]
  | .vmor mask md ma mb => fields [(44, 58), (1, 18), (mask.val, 51), (md.val, 43), (ma.val, 38), (mb.val, 27)]
  | .vmxor mask md ma mb => fields [(44, 58), (2, 18), (mask.val, 51), (md.val, 43), (ma.val, 38), (mb.val, 27)]
  | .vmandn mask md ma mb => fields [(44, 58), (3, 18), (mask.val, 51), (md.val, 43), (ma.val, 38), (mb.val, 27)]
  | .vmnot mask md ma => fields [(44, 58), (4, 18), (mask.val, 51), (md.val, 43), (ma.val, 38)]
  | .vmmov mask md ma => fields [(44, 58), (5, 18), (mask.val, 51), (md.val, 43), (ma.val, 38)]
  | .vloop lvl count len => fields [(48, 58), (lvl.val, 30), (encVCount count, 0), (len.toNat, 0)]
  | .vjoin => fields [(49, 58)]
  | .vnop => fields [(50, 58)]
  | _ => 0

/-- The words of the M stream, hint 0 (03 R105–R117); 0 for any other instruction. -/
def encodeM : Instr → Nat
  | .mset lvl trip sa sb sc => fields [(1, 122), (lvl.val, 105), (encTrip trip, 0), (sa.toNat, 61), (sb.toNat, 37), (sc.toNat, 13)]
  | .mwin win => fields [(2, 122), (win.val, 0)]
  | .mfmt fa fb => fields [(3, 122), (fa.code, 0), (fb.code, 3)]
  | .msrc x => fields [(4, 122), (encMSrc x, 0)]
  | .mgo => fields [(5, 122)]
  | .mgoS md => fields [(6, 122), (md.toNat, 0)]
  | .mzero tiles => fields [(7, 122), (tiles.toNat, 0)]
  | .malloc banks => fields [(8, 122), (banks.toNat, 0)]
  | .mfree banks => fields [(9, 122), (banks.toNat, 0)]
  | .mclaim tile frow lrow lg => fields [(10, 122), (tile.val, 0), (frow.val, 5), (lrow.val, 10), (lg.val, 15)]
  | .mrelease tile frow lrow lg => fields [(11, 122), (tile.val, 0), (frow.val, 5), (lrow.val, 10), (lg.val, 15)]
  | .mdrain tile frow lrow dst fmt rm => fields [(12, 122), (tile.val, 0), (frow.val, 5), (lrow.val, 10), (encDrainDst dst, 0), (fmt.code, 37), (rm.code, 41)]
  | .mflags tile dst stall => fields [(13, 122), (tile.val, 1), (encTop dst, 6), (stall.val, 108)]
  | .mflagsC tile dst stall => fields [(13, 122), (1, 0), (tile.val, 1), (encTop dst, 6), (stall.val, 108)]
  | .mchk w stall => fields [(14, 122), (w.val, 0), (stall.val, 108)]
  | .mwait => fields [(15, 122)]
  | .mloop lvl count len => fields [(16, 122), (lvl.val, 0), (encCount count 2 3 3 108, 0), (len.toNat, 23)]
  | .mjoin => fields [(17, 122)]
  | .mnop => fields [(18, 122)]
  | _ => 0

/-- The words of the X stream, hint 0 (03 R105–R117); 0 for any other instruction. -/
def encodeX : Instr → Nat
  | .xcopy x => fields [(1, 58), (encXD x, 0)]
  | .xconv x => fields [(2, 58), (encXD x, 0)]
  | .xmcast x => fields [(3, 58), (encXD x, 0)]
  | .xcsr x => fields [(4, 58), (encXD x, 0)]
  | .xgather x => fields [(5, 58), (encXD x, 0)]
  | .xscatter x => fields [(6, 58), (encXD x, 0)]
  | .xsmd x => fields [(7, 58), (encXD x, 0)]
  | .xred x => fields [(8, 58), (encXD x, 0)]
  | .xamo x => fields [(9, 58), (encXD x, 0)]
  | .xmig x => fields [(10, 58), (encXD x, 0)]
  | .xlink x => fields [(11, 58), (encXD x, 0)]
  | .xchain x => fields [(12, 58), (encXD x, 0)]
  | .xcask ck slots bytes => fields [(16, 58), (ck.val, 42), (slots.val, 36), (bytes.toNat, 0)]
  | .xsig ck bytes => fields [(17, 58), (ck.val, 42), (bytes.toNat, 0)]
  | .xjoin queues => fields [(18, 58), (queues.toNat, 40)]
  | .xfence mask => fields [(19, 58), (mask.toNat, 0)]
  | .xloop lvl count len => fields [(20, 58), (lvl.val, 46), (encCount count 45 22 22 0, 0), (len.toNat, 10)]
  | .xhalt => fields [(21, 58)]
  | .xnop => fields [(22, 58)]
  | _ => 0

/-- The word of an instruction, hint 0. A step that is no word has none; it gives 0. -/
def encode (i : Instr) : Nat :=
  match i.stream with
  | some .c => encodeC i
  | some .a => encodeA i
  | some .v => encodeV i
  | some .m => encodeM i
  | some .x => encodeX i
  | none => 0

/-- The instruction of a reading, whatever its reserved bits hold. -/
def Reject.instr : Except Reject Instr → Option Instr
  | .ok i => some i
  | .error (.reserved i) => some i
  | .error .illegal => none

/-- The instruction that the decoder reads from `nbits` bits numbered as spec/opcode_table.json numbers them: 32 bits
are a C word, 128 an M word, and 64 a word of the A stream or, where that map gives none, of the V or X stream. -/
def decodeTableWord (nbits w : Nat) : Option Instr :=
  if nbits ≤ 32 then (decode .c (w % 2 ^ 32)).toOption
  else if nbits ≤ 64 then
    match (decode .a (w % 2 ^ 64)).toOption with
    | some i => some i
    | none =>
      match (decode .v (w % 2 ^ 64)).toOption with
      | some i => some i
      | none => (decode .x (w % 2 ^ 64)).toOption
  else (decode .m (w % 2 ^ 128)).toOption

end Sys2Proof
end

