-- ==== Sys2Proof/Config.lean ====
section
/-! DEFINITION. What one implementation fixes, and the free values: opaque constants of which nothing can be
proved but their type. Each is named in a log entry. -/

namespace Sys2Proof.Config

/-- Whether the `n`-th ref cycle under forced skipping would be withheld: "Which cycles are withheld is not
architectural" (15 R373). The bound of one passed cycle in 8 is kept by the machine. DEDUCED, log entry 9. -/
opaque withheld : Nat → Bool

/-- The stored length code (bits 1:0 of a metadata byte) that the HBM controller chooses for the `n`-th block
it stores compressed (19 R438). DESIGN CHOICE, log entry 1. -/
opaque blockLength : Nat → BitVec 2

/-- Verification of an ML-DSA-44 signature: public key, 32-byte digest, signature (23 R480, R483; FIPS 204 lies
outside the spec). DESIGN CHOICE, log entry 10. -/
opaque mldsaVerify : List Byte → List Byte → List Byte → Bool

/-- Signing with the module's identity key: the 2,420 bytes of an ML-DSA-44 signature over a 32-byte digest
(23 R484). DESIGN CHOICE, log entry 10. -/
opaque mldsaSign : List Byte → List Byte

/-- The SHA3-256 digest of a byte string (23 R480, R483, R484; FIPS 202 lies outside the spec). DESIGN CHOICE, log entry 10. -/
opaque sha3 : List Byte → List Byte

/-- The Casgon root public key, 1,312 bytes in boot ROM (23 R480). DESIGN CHOICE, log entry 10. -/
opaque rootKey : List Byte

/-- The module's serial number (23 R480). DESIGN CHOICE, log entry 10. -/
opaque serial : Dword

/-- DETAIL of *stall bound exceeded* at an XCHAIN that holds while a walk is active: 17 R398 gives that hold no object. DESIGN
CHOICE, log entry 15. -/
opaque chainObject : Nat

/-- The channel of the first unit of the HBM page at a frame: 64 × die + channel of the die, modulo 256. The spec
does not say which die and channel a frame has (10 R294). DESIGN CHOICE, log entry 17. -/
opaque pageChannel : Nat → Nat

end Sys2Proof.Config
end

