-- ==== Sys2Proof/Machine/State.lean ====
section
/-! DEFINITION. The state of the Velah V4 as plain data, the reasons a step can stop, and the state after reset.

A device is a row of core records (a zipper: the cores left of the one whose turn it is, that core, the cores right
of it) and the device around them. Everything that holds many bytes or entries is a list of the nonzero ones in one
canonical form. -/

namespace Sys2Proof.Machine

/-! ## Sparse stores -/

/-- A store of `n`-bit entries by number: the nonzero entries, numbers strictly rising. An entry that is not listed
is zero (DESIGN CHOICE, log entry 1 for memory that the spec gives no reset contents; 01 R53 for the domains of a core). -/
abbrev Sparse (n : Nat) := List (Nat × BitVec n)

/-- Bytes of memory by address: cells in the host's form. -/
abbrev Memory := List Host.Cell

/-! ## Coupled registers: word registers and tiles -/

/-- The flag of a word or tile register (01 R26). -/
inductive Flag where
  | empty
  | filling (owner : Engine)
  | full
  deriving DecidableEq, Repr

/-- A register with a full/empty flag. `was` is the flag at the start of the ref cycle when the flag changed in it
(01 R30); `outstanding` marks a completing write whose data have not landed (01 R27); `writer` and `reader` are the
engines of its last write and last consuming read in the launch (17 R398). -/
structure Coupled (α : Type) where
  data : α
  flag : Flag
  was : Option Flag
  outstanding : Bool
  writer : Option Engine
  reader : Option Engine
  deriving DecidableEq, Repr

/-- A tile queue descriptor (01 R31). -/
structure TQ where
  valid : Bool
  tail : Nat
  head : Nat
  len : Nat
  base : Nat
  deriving DecidableEq, Repr

/-- One zero-overhead loop level: LEN, START, REM (05 R165, 06 R191). REM = 0 means inactive. -/
structure Loop where
  len : Nat
  start : Nat
  rem : Nat
  deriving DecidableEq, Repr

/-! ## Results in flight and engines -/

/-- Where a result in flight lands (01 R56). `tileRow` is the data of a VPUSH (07 R220). -/
inductive Dest where
  | sreg (r : Fin 64)
  | handlerReg (r : Fin 8)
  | pred (q : Fin 8)
  | areg (a : Fin 16)
  | vreg (v : Fin 32) (enable : Mask)
  | mreg (m : Fin 8) (enable : Mask)
  | word (w : Fin 16)
  | tileRow (t : Fin 32) (part : Fin 8) (enable : Mask) (completing : Bool)
  deriving DecidableEq, Repr

/-- The final value of a result in flight; `access` is the value of a scratchpad load or atomic that has not
performed yet (11 R307). -/
inductive LValue where
  | word (v : Dword)
  | lanes (v : Vector Word32 128)
  | mask (v : Mask)
  | access (id : Nat)
  deriving DecidableEq, Repr

/-- A landing-buffer entry: destination, value, remaining latency in the engine's cycles, and the FPSTATUS flags
(NX UF OF DZ NV) that are set when it lands (01 R12, R56). -/
structure Landing where
  dest : Dest
  val : LValue
  rem : Nat
  flags : BitVec 5
  deriving DecidableEq, Repr

/-- The stream states of 01 R33. -/
inductive EngState where
  | idle | running | joining | joined
  deriving DecidableEq, Repr

/-- A fault as it is raised at a word (01 R17, 17 R391): code, DETAIL, ARG, FAULTADDR, and the word's address. -/
structure FaultRec where
  code : Nat
  detail : Nat
  arg : Nat
  addr : Dword
  pc : Dword
  deriving DecidableEq, Repr

/-- A word that holds: the object waited on (DETAIL of 17 R391), its producer (none: only the watchdog bounds the
hold), the bound of its STALL field, the words its producer has issued since (17 R398), whether the hold began in
this ref cycle, and the fault that the word would raise instead where its order comes before *stall bound exceeded* (05
R150). -/
structure Hold where
  fresh : Bool
  obj : Nat
  producer : Option Engine
  bound : Option Nat
  count : Nat
  first : Option FaultRec
  deriving DecidableEq, Repr

/-- One engine: stream state, program counter, stream index (01 R39), skip count (17 R389), divisor and pending
request (15 R362, R364), ref cycles until its next cycle begins, whether it has used its slot in this ref cycle, in a gang
row the number of its cycle, not counting those in which its stream held, whether its stream holds in this cycle (01 R39,
R40), the index of the C stream at which a pending request takes effect and whether that index counts a handler's words (15 R365), its hold, the virtual address at which its word is parked
with the log2 of the page (19 R436), four loop levels, its results in flight and, after a return or a resumption, those that are held until its next word
comes to issue (01 R58). -/
structure Eng where
  state : EngState
  pc : Dword
  index : Nat
  skip : Nat
  divisor : Nat
  request : Option Nat
  phase : Nat
  used : Bool
  slot : Nat
  stuck : Bool
  grantAt : Option (Bool × Nat)
  hold : Option Hold
  parked : Option (Nat × Nat)
  loops : Vector Loop 4
  landing : List Landing
  held : List Landing
  deriving DecidableEq, Repr

/-! ## Power domains -/

/-- The state of a power domain (01 R48); a waking one remembers where it woke from and its remaining C cycles. -/
inductive Dom where
  | off
  | retained
  | waking (fromRetained : Bool) (remain : Nat)
  | awake
  deriving DecidableEq, Repr

/-- What a STEEP, KILN.R or KILN.L asks of a domain. -/
inductive DomAct where
  | steep | kilnR | kilnL
  deriving DecidableEq, Repr

/-! ## Memory accesses -/

/-- The home of a byte (11 R302) and its address there; `metadata` is the alias of 19 R439, `compressed` a page with
CMP = 1 (19 R438). -/
inductive Home where
  | spad (core : CoreId) (off : Nat)
  | hbm (a : Nat) (compressed : Bool)
  | metadata (block : Nat)
  | sbm (a : Nat)
  | host (a : Nat)
  | peer (a : Nat)
  deriving DecidableEq, Repr

/-- One single-copy-atomic unit of an access (10 R299): its home, virtual address, size in bytes, the tile byte it
fills, the value it stores (of a tile load: the bytes, by bit, that a later write covers, 06 R185), the format tag it is
decoded with (0: as stored), the home and virtual address of its scale byte, which is a unit of its own, and that byte once it
has been read, and for MXFP4 whether it is the high half of its byte. -/
structure AUnit where
  home : Home
  va : Nat
  size : Nat
  off : Nat
  data : Nat
  tag : Nat
  scale : Option (Home × Nat)
  got : Option Nat
  high : Bool
  deriving DecidableEq, Repr

/-- What performing a unit does. -/
inductive AccOp where
  | load (size : Nat) (signed : Bool)
  | store
  | ldw (w : Fin 16)
  | amo (fn : Nat) (size : Nat) (operand compare : Dword)
  | tileLoad (t : Fin 32) (completing : Bool)
  | tileStore
  | drain
  deriving DecidableEq, Repr

/-- An access issued and not yet performed whole: its engine, class and release run (11 R308, R310), the units still
to perform in order, the C cycles since its issue, whether its time is fixed (10 R291), and the virtual addresses translated for it, each
with the log2 of the page that the entry gave (19 R432). -/
structure Access where
  id : Nat
  eng : Engine
  cls : Fin 16
  run : BitVec 16
  op : AccOp
  units : List AUnit
  age : Nat
  fixed : Bool
  pages : List (Nat × Nat)
  deriving DecidableEq, Repr

/-- A translation a TLB holds (19 R430): context, virtual address of the page, log2 of its size, the entry and its
address in HBM. -/
structure TlbEntry where
  ctx : Nat
  page : Nat
  bits : Nat
  entry : Dword
  home : Nat
  deriving DecidableEq, Repr

/-! ## Matrix engine -/

/-- One level of a loop-nest table (08 R227). -/
structure Level where
  trip : BitVec 20
  sa : BitVec 24
  sb : BitVec 24
  sc : BitVec 24
  deriving DecidableEq, Repr

/-- A claim (08 R227, R246). -/
structure Claim where
  tile : Fin 32
  frow : Fin 32
  lrow : Fin 32
  lg : Fin 4
  deriving DecidableEq, Repr

/-- An entry of the claim table; the fields of an invalid entry keep their values (08 R227, R246). -/
structure ClaimEntry where
  valid : Bool
  claim : Claim
  deriving DecidableEq, Repr

/-- An operand byte that a nest has read before its step (08 R242, 10 R299): how many steps that step lies behind the next
one, whether it is a B operand, its scratchpad address and the byte. -/
structure NestRead where
  steps : Nat
  second : Bool
  addr : Nat
  byte : Byte
  deriving DecidableEq, Repr

/-- The active table with what MGO captured, and the level indices of its next step (08 R227, R238); `id` orders the
nest among the M accesses (R250), `sparse` is MCTL.SPARSE and `md` the captured META (0 of an MGO), `done` is set with the last step,
`ahead` are the operand bytes it has read early, and `acore` and `bcore` the cores in whose scratchpads its operands lie: those that
MSRC names at the MGO, and after a resumption those that hold what they held (17 R414; DEDUCED, log entry 25). -/
structure Nest where
  id : Nat
  levels : Vector Level 6
  win : Fin 8
  fa : Fmt
  fb : Fmt
  src : MSrc
  sparse : Bool
  md : BitVec 10
  index : Vector Nat 6
  done : Bool
  ahead : List NestRead
  acore : CoreId
  bcore : CoreId
  deriving DecidableEq, Repr

/-- Where the data of an MDRAIN, MFLAGS or MCHK go. `tile` carries the bytes from byte 0 on; the rest of the tile
keeps its contents. -/
inductive MDest where
  | tile (t : Fin 32) (bytes : List Byte)
  | word (w : Fin 16) (v : Dword)
  | spad (access : Nat)
  deriving DecidableEq, Repr

/-- An outstanding M write (08 R231, R250) and the FPSTATUS flags it sets on landing. -/
structure MWrite where
  dest : MDest
  flags : BitVec 5
  deriving DecidableEq, Repr

/-- The matrix control state (08 R227) and the outstanding M writes; `table` is the active table, `active` MCTL.ACTIVE. -/
structure Matrix where
  shadow : Vector Level 6
  reruns : Nat
  rtile : Fin 32
  alloc : BitVec 8
  win : Fin 8
  fa : Fmt
  fb : Fmt
  src : MSrc
  claims : Vector ClaimEntry 16
  table : Nest
  active : Bool
  writes : List MWrite
  deriving DecidableEq, Repr

/-! ## Copy engine -/

/-- A cask header (09 R276). -/
structure Cask where
  valid : Bool
  slots : Nat
  rp : Nat
  wp : Nat
  exp : Nat
  deriving DecidableEq, Repr

/-- A credit (09 R279): the core and cask it goes to, nominal and actual bytes, and the core and the number of the copy
or XSIG it comes from. -/
structure Credit where
  core : CoreId
  cask : Nat
  nom : Nat
  act : Nat
  src : CoreId
  id : Nat
  deriving DecidableEq, Repr

/-- A stop of an access, a copy or a walk that waits for a reply, or parks at a page being moved (09 R258, 17 R395,
19 R436): the fault sequence number once one is taken, the code, the kind of access, the virtual address, and of a parked one the log2
of the page. -/
structure Stop where
  fseq : Option Nat
  parked : Bool
  code : Nat
  acc : Nat
  va : Nat
  bits : Nat
  deriving DecidableEq, Repr

/-- A copy in flight (09 R254): opcode 0x01–0x0B, queue, class, descriptor, out-of-bounds policy, credited cask, the
core at COORD, its destinations, whether it has entered the queue logic, the copies that must complete before it starts (R255, R281),
its next position, a value read and not yet written, two values it has read (XCSR), the actual bytes so far,
whether its accesses have all performed and how many of its credits have not applied, the WHERE of a report (17 R395),
whether a walk started it, and its stop. -/
structure Copy where
  id : Nat
  op : Nat
  queue : Nat
  cls : Fin 16
  desc : List Byte
  fill : Bool
  cask : Option CkNo
  dst : Option CoreId
  dests : List CoreId
  entered : Bool
  after : List Nat
  pos : Nat
  buf : Option Nat
  aux : Nat × Nat
  actual : Nat
  sent : Bool
  left : Nat
  whence : Nat
  walked : Bool
  stop : Option Stop
  deriving DecidableEq, Repr

/-- What waits to enter the queue logic (09 R253): of an XCHAIN the walk that it starts there. -/
inductive XKind where
  | copy (id : Nat)
  | sig (id : Nat)
  | join (queues : BitVec 8)
  | walk (head queue : Nat) (cls : Fin 16)
  deriving DecidableEq, Repr

/-- A word issued and not yet in the queue logic, with its remaining X cycles (09 R253). -/
structure XEntry where
  kind : XKind
  rem : Nat
  deriving DecidableEq, Repr

/-- An XSIG credit that waits for earlier copies (09 R278): `entered` the queue logic, `sent` to its cask. -/
structure XSig where
  id : Nat
  ck : CkNo
  bytes : Nat
  after : List Nat
  entered : Bool
  sent : Bool
  deriving DecidableEq, Repr

/-- The edge of an XJOIN: copies entering a named queue wait for these copies (09 R281). -/
structure XJoin where
  queues : BitVec 8
  before : List Nat
  deriving DecidableEq, Repr

/-- The walk of a core and CHAINCUR (09 R274, R275): the records whose copies run, in walk order. -/
structure Walk where
  active : Bool
  err : Bool
  code : Nat
  addr : Nat
  queue : Nat
  cls : Fin 16
  open_ : List (Nat × Nat)
  stop : Option Stop
  deriving DecidableEq, Repr

/-- The copy engine's state in d.x and its queue logic. `slots` holds the 66-bit slot states, entry 64 × cask + slot;
`held` the held credits in order, `arrived` those that reach it in this ref cycle, `waiting` the words issued before a stop
that go on to the queue logic when the next X word comes to issue (the landing buffer of X, 09 R253, 01 R58), `fresh` the slots that became filled in this ref cycle, `freed` the casks of which a CKREL
released a slot in it, each with that slot (09 R280). -/
structure CopyEng where
  fresh : List (Nat × Nat)
  freed : List (Nat × BitVec 66)
  casks : Vector Cask 64
  slots : Sparse 66
  held : List Credit
  arrived : List Credit
  entries : List XEntry
  waiting : List XEntry
  copies : List Copy
  sigs : List XSig
  joins : List XJoin
  walk : Walk
  chainhead : Dword
  deriving DecidableEq, Repr

/-! ## One core -/

/-- The mode of a launch (14 R332). -/
inductive Mode where
  | detached | wave | task
  deriving DecidableEq, Repr

/-- What a launch gives a member core: context, launch, USEMASK, mode, gang row and logical column, the gang's last
column, the position of 01 R60, STEP, and the gang row record of a wave launch. -/
structure Resident where
  ctx : Nat
  launch : Nat
  use : BitVec 24
  mode : Mode
  row : Nat
  col : Nat
  lastCol : Nat
  step : Nat
  rowId : Nat
  deriving DecidableEq, Repr

/-- The scalar side of a core (01 R8). `qs` holds q1–q6 in bits 1–6; bits 0 and 7 are not read. -/
structure Regs where
  s : Vector Dword 64
  h : Vector Dword 8
  qs : BitVec 8
  w : Vector (Coupled Dword) 16
  a : Vector Dword 16
  deriving DecidableEq, Repr

/-- A VPUTE on its way to the east column: stream index, enabled lanes, lanes (01 R41). -/
structure WestVec where
  index : Nat
  enable : Mask
  lanes : Vector Word32 128
  deriving DecidableEq, Repr

/-- The vector registers of d.v. m0 is held as all ones. -/
structure VecRegs where
  v : Vector (Vector Word32 128) 32
  m : Vector Mask 8
  vw : Vector Word32 128
  west : List WestVec
  deriving DecidableEq, Repr

/-- Tile file and tile queues (01 R8, R31). -/
structure Tiles where
  t : Vector (Coupled Memory) 32
  tq : Vector TQ 8
  deriving DecidableEq, Repr

/-- The core's own memories: scratchpad, accumulator entries (bit 56 HUSK, bits 55:0 VAL; entry 1024 × tile +
32 × row + column, 04 R128, 08 R229), side memory. -/
structure LocalMem where
  spad : Memory
  acc : Sparse 57
  side : Memory
  deriving DecidableEq, Repr

/-- The control registers that each core holds for itself; `landed` are the FPSTATUS flags of results that have landed
in this ref cycle (05 R175). -/
structure CoreCsr where
  fpstatus : BitVec 7
  landed : BitVec 5
  srseed : Word32
  genV : Word32
  genM : Word32
  genA : Word32
  scale : Vector Dword 16
  launchrec : Dword
  faultinfo : Dword
  faultpc : Dword
  faultaddr : Dword
  epc : Vector Dword 5
  rowfault : Dword
  deriving DecidableEq, Repr

/-- Where a core stands in a stop (17 R387, R388, R392); `returned`: a column of a gang row behind its ERET (R393). -/
inductive StopState where
  | run | draining | stopped | handler | returned
  deriving DecidableEq, Repr

/-- What waits at a retirement or a barrier of the C stream (01 R36, R487). -/
inductive CWait where
  | none | halt | tend | gyle | bsync
  deriving DecidableEq, Repr

/-- Control changes that take effect at the end of the ref cycle (05 R171, R173, R175, 06 R189). -/
inductive EndAct where
  | csr (num : BitVec 12) (v : Dword)
  | qdef (q : Fin 8) (d : TQ)
  | dom (set : BitVec 31) (act : DomAct)
  | clkdiv (e : Engine) (d : Nat)
  deriving DecidableEq, Repr

/-- Faults, the stop, handler mode and what ERET restores. `target` is the branch target of a fault or stop in a
delay slot (17 R393); `savedC` the C engine's landing buffer held through handler mode (R392); `before` the stream
states from before the stop; `drained` the engines of a column that have stopped in a drain (R388); `wakesHeld`: after a
resumption the Waking domains count on from the first C word issued (R414). -/
structure FaultState where
  raised : List (Engine × FaultRec)
  stop : StopState
  before : Vector EngState 5
  savedC : List Landing
  savedSlot : Option (Option Dword)
  savedLoops : Vector Loop 4
  savedIndex : Nat
  savedSkip : Nat
  drained : Vector Bool 5
  savedAmo : Option (Nat × Option Dword)
  epcWritten : Bool
  wakesHeld : Bool
  wd : Nat
  deriving DecidableEq, Repr

/-- How a CLKDIV was decided in column 0 of a gang row (15 R364, R365, R368): ignored, no request left, in effect at the end of its
ref cycle, pending, or granted at an index of the C stream, in the handler's words or not. -/
inductive ClkHow where
  | ignored | cancelled | now | pending
  | granted (handler : Bool) (index : Nat)
  deriving DecidableEq, Repr

/-- A CLKDIV of column 0 that the columns east of it follow (01 R44): its index in the C stream, whether it is a word of a
handler, engine, divisor, and how it was decided. -/
structure ClkNote where
  index : Nat
  handler : Bool
  eng : Engine
  d : Nat
  how : ClkHow
  deriving DecidableEq, Repr

/-- The C engine's control: the delay slot it stands in (`some none`: of a transfer not taken; `some (some t)`: of
one taken to `t`), a virtual atomic that has performed with its old value (05 R162), the wait of its HALT, TEND,
GYLE or BSYNC, a TSPAWN that waits for its binding, the changes due at the end of the ref cycle, and the CLKDIVs of column 0 of a
gang row that a column east of it has yet to pass. -/
structure CCtl where
  slot : Option (Option Dword)
  amo : Option (Nat × Option Dword)
  wait : CWait
  binding : Option Nat
  atEnd : List EndAct
  clk : List ClkNote
  deriving DecidableEq, Repr

/-- One physical core. -/
structure Core where
  id : CoreId
  enabled : Bool
  capmask : BitVec 24
  resident : Option Resident
  relay : Bool
  bound : Bool
  regs : Regs
  vec : VecRegs
  tiles : Tiles
  ec : Eng
  ea : Eng
  ev : Eng
  em : Eng
  ex : Eng
  ctl : CCtl
  doms : Vector Dom 31
  mem : LocalMem
  mx : Matrix
  xc : CopyEng
  csr : CoreCsr
  flt : FaultState
  accesses : List Access
  arrivals : List (Fin 16 × Dword)
  aHalt : Option Stop
  xHalt : Option Stop
  tlbC : List TlbEntry
  tlbA : List TlbEntry
  tlbX : List TlbEntry
  deriving DecidableEq, Repr

/-! ## Contexts -/

/-- The fields of a launch record (14 R331, R332). -/
structure Record where
  cmpl : Bool
  nvar : Nat
  prio : Nat
  mode : Nat
  use : BitVec 24
  doms : Word32
  plast : Bool
  glast : Bool
  ports : BitVec 18
  sbm : Nat
  weight : Nat
  graph : Nat
  phase : Nat
  waita : Nat
  waitb : Nat
  sig : Nat
  ncask : Nat
  step : Nat
  tgta : Nat
  tgtb : Nat
  seq : Nat
  pv : Vector Dword 4
  reserved : Bool
  deriving DecidableEq, Repr

/-- Where a launch or a task unit stands (14 R338, R345, R350, R352). -/
inductive LState where
  | waiting | ready | bound | running | ended
  deriving DecidableEq, Repr

/-- An accepted launch or task unit (14 R335–R358): key, queue, SEQ, record address and record, context, state, the
root of its task launch, the core that submitted it, the variant placed, member cores in partition order with the
halted ones, relays, banks referenced, whether it holds references, from its placement to its completion (R347), whether its next
placement restores the saved cores (17 R407, R414) and whether it had started before they were saved, rollbacks
without an intervening close, the cores that have reached a barrier and those that a completed barrier lets go, and the
communication step. -/
structure Launch where
  key : Nat
  queue : Nat
  seq : Nat
  addr : Nat
  record : Record
  ctx : Nat
  state : LState
  root : Option Nat
  spawner : Option CoreId
  variant : Nat
  members : List CoreId
  halted : List CoreId
  relays : List CoreId
  banks : List Nat
  placed : Bool
  resume : Bool
  begun : Bool
  rollbacks : Nat
  arrived : List CoreId
  barrierAt : Option Nat
  commStart : Option Nat
  commEnd : Option Nat
  overrun : Bool
  passing : List CoreId
  deriving DecidableEq, Repr

/-- A hop of a link program (21 R455), with the slot in which its sender ends the block that it takes (R453, R456), and the virtual
address and the log2 of the page at which its write has parked (19 R436). -/
structure Hop where
  dev : Nat
  inp : Nat
  out : Nat
  act : Nat
  fin : Nat
  fout : Nat
  rm : Nat
  seed : Nat
  soff : Nat
  group : Nat
  sender : Option Nat
  parked : Option (Nat × Nat)
  deriving DecidableEq, Repr

/-- A registered transfer (21 R457): launch, core, hops of this device not yet performed, SRC and DST with their context,
LEN, SLOT, whether a communication step carries it, and whether one of its hops cannot finish. -/
structure Transfer where
  launch : Nat
  core : CoreId
  ctx : Nat
  hops : List Hop
  src : Dword
  dst : Dword
  len : Nat
  slot : Nat
  carried : Bool
  failed : Bool
  deriving DecidableEq, Repr

/-- The image a boundary or deep pre-emption, a mid-launch GYLE or a seizure keeps of a context (17 R404, R409,
R410, R413): its kind (0 boundary, 1 deep, 2 seized), whether it is complete, lost, the launches that it takes as they stood,
its core records in partition order with the launch of each (DESIGN CHOICE, log entry 19), and the credits on their way from those
cores and the transfers of those launches, which a rollback to a GYLE brings back (17 R404; DEDUCED, log entry 19). -/
structure Image where
  kind : Nat
  complete : Bool
  lost : Bool
  launches : List Launch
  cores : List (Nat × Core)
  credits : List Credit
  transfers : List Transfer
  deriving DecidableEq, Repr

/-- One line of the gyle log: its home and its 64 old bytes (17 R401). -/
structure LogLine where
  home : Home
  bytes : List Byte
  deriving DecidableEq, Repr

/-- A host write held by an open gyle (17 R402): host address, size, value. -/
structure HeldWrite where
  addr : Nat
  size : Nat
  value : Nat
  deriving DecidableEq, Repr

/-- A stop that waits for a reply (17 R395, R396): its number, core, and what stopped (0 A word, 1 copy with its
identifier, 2 walk record). -/
structure OpenStop where
  fseq : Nat
  core : CoreId
  kind : Nat
  copy : Nat
  deriving DecidableEq, Repr

/-- A fault report not yet written (17 R395). -/
structure Report where
  ctx : Nat
  kind : Nat
  eng : Nat
  code : Nat
  fseq : Nat
  core : Nat
  acc : Nat
  va : Nat
  whence : Nat
  deriving DecidableEq, Repr

/-- The completion counter of an open graph or phase (14 R356): identifier, count, whether it is closed and by which
queue and SEQ, and the phase of a graph. -/
structure Group where
  id : Nat
  count : Nat
  closed : Bool
  queue : Nat
  seq : Nat
  phase : Nat
  deriving DecidableEq, Repr

/-- The scheduler state of a job at a gyle's open (17 R400): event counters, open graphs and phases, and the
launches accepted and not started; launches with lower keys had been submitted. -/
structure Snapshot where
  fresh : Nat
  counters : Sparse 32
  graphs : List Group
  phases : List Group
  waiting : List Nat
  deriving DecidableEq, Repr

/-- A gyle that has closed, as a rollback of the whole job may need it (17 R408): SEQ at its close, what it logged here and at
its peers' homes, the scheduler state at its opening, the launches that ended in it, and the image it opened with (DESIGN
CHOICE, log entry 34). -/
structure GylePast where
  seq : Nat
  log : List LogLine
  peerLog : List LogLine
  snap : Snapshot
  ended : List Launch
  image : Option Image
  deriving DecidableEq, Repr

/-- A contained event whose rollback waits for the rows of its context to drain (17 R406): its code, the launches that end with
status 4, whether the context was lost by a save (R415), and whether another device of the job began it (R408). An event that comes
meanwhile joins it under the first one's code (DESIGN CHOICE, log entry 43). -/
structure Containment where
  code : Nat
  ends : List Nat
  lost : Bool
  all : Bool
  deriving DecidableEq, Repr

/-- A context and its control registers (01 R10, 17 R394, 19 R441), its gyle (17 R400–R404), the launches that ended in it, the gyles it has
closed, the lines that its peer writes changed at their homes, and the SEQ that each other device of its job has closed (17
R401, R408), its table of s1–s15
(01 R60; entry 16 × position + register), the values it last wrote (01 R18), FAULTINFO, FAULTPC and FAULTADDR of its most
recent fault (01 R17), its boost balance (15 R369), its
reports, its pre-emption, and a containment that waits. Deadlines are ref cycle numbers. -/
structure Ctx where
  id : Nat
  job : Nat
  system : Bool
  codebase : Dword
  codebound : Dword
  trapvec : Dword
  ptroot : Dword
  wdlimit : Word32
  savebase : Dword
  logbase : Dword
  logsize : BitVec 18
  preemptdl : Dword
  lastFault : Dword × Dword × Dword
  frqbase : Dword
  frqHead : Nat
  frqTail : Nat
  seq : Nat
  unprot : Bool
  used : Nat
  log : List LogLine
  held : List HeldWrite
  snap : Snapshot
  ended : List Launch
  past : List GylePast
  peerLog : List LogLine
  peerSeqs : List (Nat × Nat)
  image : Option Image
  placed : Bool
  breg : Sparse 64
  fpstatus : BitVec 7
  srseed : Word32
  scale : Vector Dword 16
  tokens : Nat
  boosted : List Nat
  weight : Nat
  nextFseq : Nat
  stops : List OpenStop
  replies : List (Nat × Nat)
  boundaryBy : Option Nat
  saveBy : Option Nat
  saved : Option Image
  contained : Option Containment
  deriving DecidableEq, Repr

/-! ## Scheduler -/

/-- A completion record (21 R461) waiting for its gyle or its ring; TIME and GSEQ stand once it is released. -/
structure Completion where
  ctx : Nat
  seq : Nat
  status : Nat
  kind : Nat
  code : Nat
  ident : Nat
  gated : Bool
  time : Nat
  gseq : Nat
  deriving DecidableEq, Repr

/-- A record that LAUNCH or TSPAWN enqueued (05 R177): its address, the submitting context and core, whether by TSPAWN,
the key its launch will have, and of a TSPAWN the task launch that it adds a unit to (14 R348). -/
structure DevEntry where
  addr : Nat
  ctx : Nat
  core : CoreId
  tspawn : Bool
  key : Nat
  root : Option Nat
  deriving DecidableEq, Repr

/-- A submission queue and its completion ring (14 R335, R342, 21 R460–R462); `device` holds what LAUNCH and TSPAWN
enqueued. -/
structure Queue where
  sqbase : Dword
  cqbase : Dword
  sqtail : Nat
  sqhead : Nat
  cqhead : Nat
  cqtail : Nat
  phase : Bool
  acceptedSeq : Nat
  completedSeq : Nat
  nextSeq : Nat
  enable : Bool
  devq : Bool
  sys : Bool
  job : Nat
  cqs : Nat
  sqs : Nat
  deficit : Nat
  device : List DevEntry
  completions : List Completion
  doneSeqs : List Nat
  deriving DecidableEq, Repr

/-- A job (14 R338, R356, R357): event counters now and at the start of the ref cycle, open graphs and phases, graphs
and phases under a cancel, and whether a seizure makes it a system job. -/
structure Job where
  id : Nat
  ctx : Nat
  counters : Sparse 32
  before : Sparse 32
  graphs : List Group
  phases : List Group
  cancelG : List Nat
  cancelP : List Nat
  seizing : Bool
  deriving DecidableEq, Repr

/-- A loaded copy of a kernel, and the first package row and the column map that its coordinates were last written for (22 R468, R470,
R471). -/
structure Loaded where
  copy : CodeCopy
  row0 : Nat
  map : List (List Nat)
  deriving DecidableEq, Repr

/-- A gang row of a wave launch (01 R38–R40, R487, 17 R388, R389): its launch and members in column order, for each stream
the words that column 0 issued, last first, each with its index, slot, address and the word (none for one it skipped), and the columns
in which a word holds, whether that is decided in this ref cycle, the drain target of each stream, whether the row drains, the stream of its fault, whether it has reached a barrier, and whether it has resumed in
this ref cycle, so that column 0 may still issue in it (17 R393). -/
structure Row where
  id : Nat
  launch : Nat
  members : List CoreId
  times : Vector (List (Nat × Nat × Option (Dword × Nat))) 5
  holders : Vector (List Nat) 5
  decided : Bool
  target : Vector (Option Nat) 5
  draining : Bool
  faulted : Option Engine
  barrier : Bool
  again : Bool
  deriving DecidableEq, Repr

/-! ## Clusters, links, host and management -/

/-- Gating states of a cluster (15 R379, R380). -/
inductive Gate where
  | run | quiesced | retained | clockoff | railoff | waking | draining
  deriving DecidableEq, Repr

/-- A cluster: power limit and its change at the end of the ref cycle, skipping, timers (ref cycles left), rail and target in 5 mV units with the ref cycles to
the next step, and its gating; `vacant` marks a ref cycle of DRAINING that began with HELD at 0 (15 R363–R374, R379–R384,
01 R14). -/
structure Cluster where
  limited : Bool
  limitNext : Option Bool
  skip : Bool
  acked : Bool
  ackTimer : Option Nat
  grant : Option Nat
  withheldRun : Nat
  rail : Nat
  target : Nat
  railTimer : Option Nat
  gate : Gate
  vacant : Bool
  busy : Option Nat
  err : Nat
  req : Nat
  wake : Bool
  deriving DecidableEq, Repr

/-- A Skoheod port (21 R453, R454), and whether it is awake (15 R361). -/
structure Port where
  up : Bool
  awake : Bool
  peer : BitVec 9
  pport : BitVec 5
  deriving DecidableEq, Repr

/-- A block of bytes that has arrived on a port, usable from a slot on (21 R453); none: the port sleeps and holds it (15 R361). `sent`
is the slot in which its sender ended it, none where no communication step used the port then. -/
structure Block where
  port : Nat
  usable : Option Nat
  sent : Option Nat
  bytes : List Byte
  deriving DecidableEq, Repr

/-- A packet of a multicast group at a router (21 R451): whether it reaches it only in the next ref cycle (R452), die, router,
group, routers passed, sending context and launch, scratchpad offset and bytes. -/
structure Packet where
  fresh : Bool
  die : Nat
  router : Nat
  group : Nat
  passed : Nat
  ctx : Nat
  launch : Nat
  off : Nat
  bytes : List Byte
  deriving DecidableEq, Repr

/-- A host write that waits at the device for a page being moved, or at a sleeping SBM bank (19 R436, 15 R361): context,
virtual address, BAR2 offset, size, value, and the queue of its window fault record. -/
structure ParkedWrite where
  ctx : Nat
  va : Nat
  off : Nat
  size : Nat
  v : Nat
  queue : Nat
  parked : Bool
  bits : Nat
  deriving DecidableEq, Repr

/-- A host read that waits at a sleeping SBM bank (15 R361): context, virtual address, BAR2 offset, size, and the queue of its
window fault record. -/
structure ParkedRead where
  ctx : Nat
  va : Nat
  off : Nat
  size : Nat
  queue : Nat
  deriving DecidableEq, Repr

/-- Host-side registers of BAR0 outside the queue blocks, and the result of the last BAR2 read (21 R460, 23 R485). -/
structure HostIf where
  hwctx : Nat
  hwqueue : Nat
  hwbase : Dword
  portUp : Vector Bool 2
  portAtomic : Vector Bool 2
  lastRead : Dword
  lastUnsupported : Bool
  parked : List ParkedWrite
  reads : List ParkedRead
  mbarg : Dword
  errbase : Dword
  errhead : Nat
  errtail : Nat
  deriving DecidableEq, Repr

/-- A pending error record (23 R486). -/
structure ErrRec where
  time : Nat
  kind : Nat
  unit : Nat
  count : Nat
  addr : Nat
  deriving DecidableEq, Repr

/-- The management core (23 R478–R486): its C engine with registers and translations, its firmware region, which holds the running
firmware and which nothing else writes (R479), and its records. `fence` lists core number, cleared CAP bits and time, `eccEvents` the
scratchpad and accumulator banks that had uncorrectable data, each with its time. -/
structure Mgmt where
  core : Core
  booted : Bool
  image : List Byte
  version : Nat
  stagedImage : Option (List Byte)
  fence : List (Nat × BitVec 24 × Nat)
  firmware : List Byte
  firmwareVersion : Nat
  stagedFirmware : Option (List Byte)
  command : Option Nat
  result : Nat
  errors : List ErrRec
  eccEvents : List (Nat × Int)
  stopped : Vector Bool 4
  deriving DecidableEq, Repr

/-- A pending translation invalidation (19 R432); `since`: accesses with lower numbers were translated before it began. -/
structure Inval where
  since : Nat
  pend : Bool
  drop : Bool
  scope : Nat
  page : Nat
  ctx : Nat
  deriving DecidableEq, Repr

/-- A seizure of the pod (17 R416, R417): the seizing job, the time of its command, the frozen contexts, whether the freeze
image is complete, and a release that waits for it. -/
structure Seizure where
  active : Bool
  job : Nat
  time : Nat
  frozen : List Nat
  complete : Bool
  release : Bool
  deriving DecidableEq, Repr

/-- A device event that comes at the end of this ref cycle: a control register write that acts on the device, a timer that has run
out, or a fence of capabilities. -/
inductive DueEvent where
  | gate (cluster req : Nat)
  | clwake (cluster : Nat)
  | tlbinvPage (ctx page : Nat)
  | tlbinvContext (ctx : Nat)
  | tlbinvDevice
  | freply (abort : Bool) (ctx fseq : Nat)
  | mcgsel (v : Dword)
  | mcgent (v : Dword)
  | ackTimer (cluster : Nat)
  | ackGrant (cluster : Nat)
  | railStep (cluster : Nat)
  | quiesced (cluster : Nat)
  | retainDone (cluster : Nat)
  | wakeDone (cluster : Nat)
  | seize (job : Nat)
  | fence (core : CoreId) (bits : BitVec 24)
  deriving DecidableEq, Repr

/-- One entry of the agenda (DESIGN CHOICE, log entry 3): let the machine take its own next turn, this event comes now, the host
writes or reads a register of BAR0 (21 R460, 23 R485), the host writes its own memory (11 R320, R322), another device of the
pod sends a block, writes a page of this device or memory of its own, closes a gyle or rolls one back (17 R401, R408; 21 R453), a link port wakes
or goes to sleep (15 R361), system software or the time base steps GLOBAL_TIME or disciplines its rate (15 R376), the nest
of the focus core reads operand bytes of a later step (08 R242), or the management core learns of an ECC error that the hardware has
corrected, in a unit of the focus core or of the device (23 R486). -/
inductive Choice where
  | go
  | event (i : Instr)
  | hostWrite (off : Nat) (v : Dword)
  | hostRead (off : Nat)
  | hostStore (a size v : Nat)
  | blockArrive (port : Nat) (bytes : List Byte)
  | peerStore (ctx a size v : Nat)
  | peerWrite (a size v : Nat)
  | peerClose (dev ctx seq : Nat)
  | peerRollback (ctx : Nat)
  | portPower (port : Nat) (awake : Bool)
  | timeStep (v : Dword)
  | timeRate (ppm : Int)
  | nestRead (steps : Nat) (second : Bool) (off n : Nat)
  | eccCorrected (unit num : Nat) (addr : Dword)
  deriving DecidableEq, Repr

/-- The device around the cores. `closing`: every core has had its turn in this ref cycle (DESIGN CHOICE, log entry 3).
`timeFrac` counts the millionths of a ref cycle that GLOBAL_TIME has not shown yet, and `rate` is the discipline of its rate in
millionths (15 R376). `fresh` is the next identifier, `freshAt` the one with which this ref cycle began. `paid` and `refilled`: the
tokens of the µs and of the ms that end when GLOBAL_TIME next rises are settled (15 R369, R370). -/
structure Device where
  now : Nat
  closing : Bool
  globalTime : Dword
  timeFrac : Nat
  rate : Int
  locked : Bool
  offset : Word32
  due : List DueEvent
  agenda : List Choice
  fresh : Nat
  freshAt : Nat
  paid : Bool
  refilled : Bool
  draws : Nat
  hbm : Memory
  sbm : Memory
  host : Memory
  peer : Memory
  meta_ : Sparse 2
  sbmState : Sparse 2
  ctxs : List Ctx
  jobs : List Job
  queues : Vector Queue 16
  launches : List Launch
  pointer : Nat
  idleVisits : Nat
  loaded : List Loaded
  sections : List (Nat × Nat × List Reloc)
  rows : List Row
  clusters : Vector Cluster 192
  clsel : BitVec 8
  boostCap : Word32
  boostQuant : BitVec 16
  inval : Inval
  tlbHost : List TlbEntry
  mcg : Sparse 22
  mcgLoop : BitVec 4
  mcgDie : Nat
  mcgRouter : Nat
  mcgGroup : Nat
  packets : List Packet
  ports : Vector Port 18
  devnum : BitVec 9
  bridges : Vector Bool 6
  transfers : List Transfer
  blocks : List Block
  credits : List Credit
  reports : List Report
  freezebase : Dword
  seizure : Seizure
  hostIf : HostIf
  mgmt : Mgmt
  deriving DecidableEq, Repr

/-- The state of the machine: the core whose turn it is between the cores left and right of it in core order, and
the device around them. -/
structure State where
  left : List Core
  core : Core
  right : List Core
  dev : Device
  deriving DecidableEq, Repr

/-! ## Why a step stops -/

/-- Reasons for which the machine stops. -/
inductive Fault where
  /-- Raised by no meaning and no step: the spec gives every word and every step an effect, a fetch from an address that no
  memory backs among them (03 R89, 19 R425). Safe. -/
  | noMemory (addr : Nat)
  deriving DecidableEq, Repr

/-- Reasons for which an instruction has no meaning here. -/
inductive Refusal where
  /-- Raised by an arm of `exec` whose instruction is not modelled yet. Safe: the model stops. -/
  | notModelled (mnemonic : String)
  deriving DecidableEq, Repr

/-! ## Reset -/

/-- A register with an empty flag (01 R18). -/
def Coupled.reset {α : Type} (x : α) : Coupled α := ⟨x, .empty, none, false, none, none⟩

/-- An inactive loop level (05 R165). -/
def Loop.reset : Loop := ⟨0, 0, 0⟩

/-- An engine at the start of a launch: Idle, divisor 3, nothing in flight (01 R18, 15 R366). -/
def Eng.reset : Eng where
  state := .idle
  pc := 0
  index := 0
  skip := 0
  divisor := 3
  request := none
  phase := 0
  used := false
  slot := 0
  stuck := false
  grantAt := none
  hold := none
  parked := none
  loops := Vector.replicate 4 Loop.reset
  landing := []
  held := []

/-- 128 zero lanes. -/
def zeroLanes : Vector Word32 128 := Vector.replicate 128 0

/-- A level of a loop-nest table at reset: TRIP 1, strides 0 (08 R227). -/
def Level.reset : Level := ⟨1, 0, 0, 0⟩

/-- MSRCST at reset (08 R227). -/
def MSrc.reset : MSrc := ⟨0, false, 0, 0, false, 0⟩

/-- The active table at reset: no nest runs (08 R227). -/
def Nest.reset : Nest where
  id := 0
  levels := Vector.replicate 6 Level.reset
  win := 0
  fa := .bf16
  fb := .bf16
  src := MSrc.reset
  sparse := false
  md := 0
  index := Vector.replicate 6 0
  done := true
  ahead := []
  acore := ⟨0, 0, 0⟩
  bcore := ⟨0, 0, 0⟩

/-- The matrix control state at the start of a launch (08 R227, R228). -/
def Matrix.reset : Matrix where
  shadow := Vector.replicate 6 Level.reset
  reruns := 0
  rtile := 0
  alloc := 0
  win := 0
  fa := .bf16
  fb := .bf16
  src := MSrc.reset
  claims := Vector.replicate 16 ⟨false, 0, 0, 0, 0⟩
  table := Nest.reset
  active := false
  writes := []

/-- The copy engine with every cask undefined (09 R276, R277). -/
def CopyEng.reset : CopyEng where
  fresh := []
  freed := []
  casks := Vector.replicate 64 ⟨false, 0, 0, 0, 0⟩
  slots := []
  held := []
  arrived := []
  entries := []
  waiting := []
  copies := []
  sigs := []
  joins := []
  walk := ⟨false, false, 0, 0, 0, 0, [], none⟩
  chainhead := 0

/-- The registers at reset: zero, flags empty (01 R18; DESIGN CHOICE, log entry 5). -/
def Regs.reset : Regs where
  s := Vector.replicate 64 0
  h := Vector.replicate 8 0
  qs := 0
  w := Vector.replicate 16 (Coupled.reset 0)
  a := Vector.replicate 16 0

/-- The vector registers of a d.v woken from Off (01 R53). -/
def VecRegs.reset : VecRegs where
  v := Vector.replicate 32 zeroLanes
  m := (Vector.replicate 8 0).set 0 (BitVec.allOnes 128)
  vw := zeroLanes
  west := []

/-- The tile file of a d.t woken from Off, no queue defined (01 R53, 06 R189). -/
def Tiles.reset : Tiles where
  t := Vector.replicate 32 (Coupled.reset [])
  tq := Vector.replicate 8 ⟨false, 0, 0, 0, 0⟩

/-- The control registers of a core at reset (01 R12, R13, R17, 17 R394, 04 R144; DESIGN CHOICE, log entry 5). -/
def CoreCsr.reset : CoreCsr where
  fpstatus := 0
  landed := 0
  srseed := 1
  genV := 1
  genM := 1
  genA := 1
  scale := Vector.replicate 16 0
  launchrec := 0
  faultinfo := 0
  faultpc := 0
  faultaddr := 0
  epc := Vector.replicate 5 0
  rowfault := 0

/-- No fault raised, nothing stopped. -/
def FaultState.reset : FaultState where
  raised := []
  stop := .run
  before := Vector.replicate 5 .idle
  savedC := []
  savedSlot := none
  savedLoops := Vector.replicate 4 Loop.reset
  savedIndex := 0
  savedSkip := 0
  drained := Vector.replicate 5 false
  savedAmo := none
  epcWritten := false
  wakesHeld := false
  wd := 0

/-- A core at reset: disabled until MODULE_BOOT, no context, every domain Off (23 R481, 01 R18; log entries 4, 5). -/
def Core.reset (id : CoreId) : Core where
  id := id
  enabled := false
  capmask := 0
  resident := none
  relay := false
  bound := false
  regs := Regs.reset
  vec := VecRegs.reset
  tiles := Tiles.reset
  ec := Eng.reset
  ea := Eng.reset
  ev := Eng.reset
  em := Eng.reset
  ex := Eng.reset
  ctl := ⟨none, none, .none, none, [], []⟩
  doms := Vector.replicate 31 .off
  mem := ⟨[], [], []⟩
  mx := Matrix.reset
  xc := CopyEng.reset
  csr := CoreCsr.reset
  flt := FaultState.reset
  accesses := []
  arrivals := []
  aHalt := none
  xHalt := none
  tlbC := []
  tlbA := []
  tlbX := []

/-- A queue after a device reset: disabled (21 R460, R462; DESIGN CHOICE, log entry 5). -/
def Queue.reset : Queue where
  sqbase := 0
  cqbase := 0
  sqtail := 0
  sqhead := 0
  cqhead := 0
  cqtail := 0
  phase := true
  acceptedSeq := 0
  completedSeq := 0
  nextSeq := 0
  enable := false
  devq := false
  sys := false
  job := 0
  cqs := 0
  sqs := 0
  deficit := 0
  device := []
  completions := []
  doneSeqs := []

/-- A cluster at reset: in RUN, rail at 675 mV, no limit (15 R367, R379, 01 R14). -/
def Cluster.reset : Cluster where
  limited := false
  limitNext := none
  skip := false
  acked := false
  ackTimer := none
  grant := none
  withheldRun := 0
  rail := 135
  target := 135
  railTimer := none
  gate := .run
  vacant := false
  busy := none
  err := 0
  req := 0
  wake := false

/-- The host registers at reset (DESIGN CHOICE, log entry 5). -/
def HostIf.reset : HostIf where
  hwctx := 0
  hwqueue := 0
  hwbase := 0
  portUp := Vector.replicate 2 false
  portAtomic := Vector.replicate 2 false
  lastRead := 0
  lastUnsupported := false
  parked := []
  reads := []
  mbarg := 0
  errbase := 0
  errhead := 0
  errtail := 0

/-- The management core before it has booted the module (DESIGN CHOICE, log entry 4). -/
def Mgmt.reset : Mgmt where
  core := Core.reset ⟨4, 0, 0⟩
  booted := false
  image := []
  version := 0
  stagedImage := none
  fence := []
  firmware := []
  firmwareVersion := 0
  stagedFirmware := none
  command := none
  result := 0
  errors := []
  eccEvents := []
  stopped := Vector.replicate 4 false

/-- The device after reset: no context, no job, every queue disabled (21 R462). -/
def Device.reset : Device where
  now := 0
  closing := false
  globalTime := 0
  timeFrac := 0
  rate := 0
  locked := false
  offset := 0
  due := []
  agenda := []
  fresh := 0
  freshAt := 0
  paid := false
  refilled := false
  draws := 0
  hbm := []
  sbm := []
  host := []
  peer := []
  meta_ := []
  sbmState := []
  ctxs := []
  jobs := []
  queues := Vector.replicate 16 Queue.reset
  launches := []
  pointer := 0
  idleVisits := 0
  loaded := []
  sections := []
  rows := []
  clusters := Vector.replicate 192 Cluster.reset
  clsel := 0
  boostCap := 0
  boostQuant := 0
  inval := ⟨0, false, false, 0, 0, 0⟩
  tlbHost := []
  mcg := []
  mcgLoop := 0
  mcgDie := 0
  mcgRouter := 0
  mcgGroup := 0
  packets := []
  ports := Vector.replicate 18 ⟨false, true, 0, 0⟩
  devnum := 0
  bridges := Vector.replicate 6 false
  transfers := []
  blocks := []
  credits := []
  reports := []
  freezebase := 0
  seizure := ⟨false, 0, 0, [], false, false⟩
  hostIf := HostIf.reset
  mgmt := Mgmt.reset

/-- The 576 physical cores of the module in core order (00; 23 R480). -/
def allCores : List Core := (List.range 576).map fun k => Core.reset (CoreId.ofNumber k)

/-- The machine right after reset. No program is loaded (DESIGN CHOICE, log entry 2). -/
def State.reset : State where
  left := []
  core := Core.reset ⟨0, 0, 0⟩
  right := allCores.drop 1
  dev := Device.reset

end Sys2Proof.Machine
end

