-- ==== Sys2Proof/Machine/Mem.lean ====
section
/-! DEFINITION. The named operations over memory: sparse stores, byte order, the cores of the device, the homes of
bytes, the gyle log, effective addresses, and translation (10, 11, 17 R401–R403, 19). -/

namespace Sys2Proof.Machine

/-! ## Sparse stores -/

/-- The entry of a number; an unlisted one is zero. -/
def spGet {n : Nat} : Sparse n → Nat → BitVec n
  | [], _ => 0
  | (k, v) :: r, a => if k = a then v else spGet r a

/-- The store with one entry changed, in canonical form. -/
def spSet {n : Nat} : Sparse n → Nat → BitVec n → Sparse n
  | [], a, v => if v = 0 then [] else [(a, v)]
  | (k, w) :: r, a, v =>
    if a < k then (if v = 0 then (k, w) :: r else (a, v) :: (k, w) :: r)
    else if a = k then (if v = 0 then r else (a, v) :: r)
    else (k, w) :: spSet r a v

/-- The store without the entries from `lo` to `hi` − 1. -/
def spClear {n : Nat} (m : Sparse n) (lo hi : Nat) : Sparse n := m.filter fun c => decide (c.1 < lo ∨ hi ≤ c.1)

/-- Every number is above `b`, rising, and no entry is zero. -/
def spWfFrom {n : Nat} : Nat → Sparse n → Bool
  | _, [] => true
  | b, (k, v) :: r => decide (b ≤ k) && decide (v ≠ 0) && spWfFrom (k + 1) r

/-- The canonical form of a sparse store: numbers strictly rising, no zero entry. -/
def spWf {n : Nat} (m : Sparse n) : Bool := spWfFrom 0 m

/-- The canonical form of a memory (addresses strictly rising, no entry equal to what an unlisted address reads as). -/
def Memory.wf (m : Memory) : Bool := spWf (n := 8) m

/-- One byte of memory; an unlisted byte reads zero (DESIGN CHOICE, log entry 1). -/
def readByte (m : Memory) (a : Nat) : Byte := spGet (n := 8) m a

/-- Memory with one byte written. -/
def writeByte (m : Memory) (a : Nat) (b : Byte) : Memory := spSet (n := 8) m a b

/-- `n` bytes from `a` on as a little-endian number (04 R122). -/
def readLE (m : Memory) (a : Nat) : Nat → Nat
  | 0 => 0
  | n + 1 => (readByte m a).toNat + 256 * readLE m (a + 1) n

/-- Memory with the low `n` bytes of a number written little-endian from `a` on (04 R122). -/
def writeLE (m : Memory) (a : Nat) : Nat → Nat → Memory
  | 0, _ => m
  | n + 1, v => writeLE (writeByte m a (BitVec.ofNat 8 v)) (a + 1) n (v / 256)

/-- `n` bytes from `a` on. -/
def readBytes (m : Memory) (a n : Nat) : List Byte := (List.range n).map fun i => readByte m (a + i)

/-- Memory with a list of bytes written from `a` on. -/
def writeBytes (m : Memory) (a : Nat) : List Byte → Memory
  | [] => m
  | b :: r => writeBytes (writeByte m a b) (a + 1) r

/-- The `n` bytes from `a` on as a memory of their own, from 0 on. -/
def cutMem (m : Memory) (a n : Nat) : Memory :=
  (m.filter fun c => decide (a ≤ c.1 ∧ c.1 < a + n)).map fun c => (c.1 - a, c.2)

/-- Memory whose `n` bytes from `a` on are those of another memory from 0 on. -/
def putMem (m : Memory) (a n : Nat) (src : Memory) : Memory :=
  (m.filter fun c => decide (c.1 < a)) ++ ((src.filter fun c => decide (c.1 < n)).map fun c => (a + c.1, c.2))
    ++ m.filter fun c => decide (a + n ≤ c.1)

/-- The memory that holds a list of bytes from 0 on. -/
def ofBytes (b : List Byte) : Memory :=
  ((List.range b.length).zip b).filter fun c => decide (c.2 ≠ 0)

/-- The little-endian number that a list of bytes holds. -/
def leOf : List Byte → Nat
  | [] => 0
  | b :: r => b.toNat + 256 * leOf r

/-- The `n` little-endian bytes of a number. -/
def bytesOf (n v : Nat) : List Byte := (List.range n).map fun i => BitVec.ofNat 8 (v / 256 ^ i)

/-! ## Vectors -/

/-- A vector with one entry changed. -/
def vset {α : Type} {n : Nat} (v : Vector α n) (i : Fin n) (x : α) : Vector α n := v.set i.val x i.isLt

/-- The entry of a number, or a default past the end. -/
def vget {α : Type} {n : Nat} (v : Vector α n) (i : Nat) (d : α) : α := v.toArray.toList.getD i d

/-- A vector with the entry of a number changed; nothing past the end. -/
def vput {α : Type} {n : Nat} (v : Vector α n) (i : Nat) (x : α) : Vector α n :=
  if h : i < n then v.set i x h else v

/-- The vector whose entry `i` is `f i`. -/
def vof {α : Type} (n : Nat) (f : Nat → α) : Vector α n := ⟨⟨(List.range n).map f⟩, by simp⟩

/-! ## Cores and contexts -/

/-- Every core of the device in core order. -/
def State.cores (s : State) : List Core := s.left ++ s.core :: s.right

/-- The core of a coordinate; the focus core for a coordinate that no core has. -/
def State.coreAt (s : State) (id : CoreId) : Core :=
  if s.core.id = id then s.core
  else ((s.left ++ s.right).find? fun c => decide (c.id = id)).getD s.core

end Sys2Proof.Machine

namespace Sys2Proof

open Machine

/-- Whether a coordinate names a core of the module. -/
def CoreId.valid (id : CoreId) : Bool := decide (id.die < 4 ∧ id.row < 8 ∧ id.col < 18)

end Sys2Proof

namespace Sys2Proof.Machine

/-- One core changed. -/
def State.modCore (s : State) (id : CoreId) (f : Core → Core) : State :=
  if s.core.id = id then { s with core := f s.core }
  else
    let g := fun c : Core => if c.id = id then f c else c
    { s with left := s.left.map g, right := s.right.map g }

/-- Every core changed. -/
def State.mapCores (s : State) (f : Core → Core) : State :=
  { s with left := s.left.map f, core := f s.core, right := s.right.map f }

/-- The focus core changed. -/
def State.modFocus (s : State) (f : Core → Core) : State := { s with core := f s.core }

/-- The device changed. -/
def State.modDev (s : State) (f : Device → Device) : State := { s with dev := f s.dev }

/-- The context of a number. -/
def Device.ctx (d : Device) (id : Nat) : Option Ctx := d.ctxs.find? fun c => decide (c.id = id)

/-- One context changed. -/
def Device.modCtx (d : Device) (id : Nat) (f : Ctx → Ctx) : Device :=
  { d with ctxs := d.ctxs.map fun c => if c.id = id then f c else c }

/-- One context changed. -/
def State.modCtx (s : State) (id : Nat) (f : Ctx → Ctx) : State := s.modDev fun d => d.modCtx id f

/-- The number of the context resident on a core; 4096, which no context has, when there is none. -/
def Core.ctxId (c : Core) : Nat := match c.resident with | some r => r.ctx | none => 4096

/-- The context resident on the focus core. -/
def State.ctx (s : State) : Option Ctx := s.dev.ctx s.core.ctxId

/-! ## Homes -/

/-- The home `k` bytes further on. -/
def Home.shift (h : Home) (k : Nat) : Home :=
  match h with
  | .spad c off => .spad c (off + k)
  | .hbm a z => .hbm (a + k) z
  | .metadata b => .metadata (b + k)
  | .sbm a => .sbm (a + k)
  | .host a => .host (a + k)
  | .peer a => .peer (a + k)

/-- Whether an address of HBM has memory behind it: eight stacks of 64,000,000,000 bytes (19 R425). -/
def hbmBacked (a : Nat) : Bool := decide (a / 2 ^ 36 < 8 ∧ a % 2 ^ 36 < 64000000000)

/-- Whether a physical address has memory behind it (19 R425). -/
def physBacked (loc a : Nat) : Bool :=
  match loc with
  | 0 => hbmBacked a
  | 1 => decide (a / 2 ^ 27 < 4 ∧ a / 2 ^ 18 % 2 ^ 9 < 288)
  | 2 => true
  | _ => hbmBacked (a % 2 ^ 40)

/-- The home of a physical address (11 R302, 19 R425). -/
def homeOf (loc a : Nat) (compressed : Bool) : Home :=
  match loc with
  | 0 => .hbm a compressed
  | 1 => .sbm a
  | 2 => .host a
  | _ => .peer a

/-- The metadata byte of a block: the stored length code (19 R438). The store lists 3 − code. -/
def metaByte (d : Device) (block : Nat) : Byte := BitVec.ofNat 8 (3 - (spGet d.meta_ block).toNat)

/-- Metadata bytes as a little-endian number. -/
def readMeta (d : Device) (block : Nat) : Nat → Nat
  | 0 => 0
  | n + 1 => (metaByte d block).toNat + 256 * readMeta d (block + 1) n

/-- Host memory as a context sees it: the writes its open gyle holds lie over it (11 R317, 17 R402). -/
def hostView (d : Device) (ctx : Nat) : Memory :=
  match d.ctx ctx with
  | some c => c.held.foldl (fun m w => writeLE m w.addr w.size w.value) d.host
  | none => d.host

/-- `n` bytes at a home as a context reads them (11 R303). -/
def State.readHome (s : State) (ctx : Nat) (h : Home) (n : Nat) : Nat :=
  match h with
  | .spad c off => readLE (s.coreAt c).mem.spad off n
  | .hbm a _ => readLE s.dev.hbm a n
  | .metadata b => readMeta s.dev b n
  | .sbm a => readLE s.dev.sbm a n
  | .host a => readLE (hostView s.dev ctx) a n
  | .peer a => readLE s.dev.peer a n

/-- The units of 128 bytes that the log region of a context holds (17 R394, R401). -/
def Ctx.logCapacity (c : Ctx) : Nat := c.logsize.toNat * 512

/-- Held host writes performed in order (17 R402). -/
def releaseHeld (m : Memory) (ws : List HeldWrite) : Memory :=
  ws.foldl (fun m w => writeLE m w.addr w.size w.value) m

/-- The context becomes unprotected: its held host effects are released (17 R403). Its completion records are
released with them by the queues. -/
def Device.unprotect (d : Device) (ctx : Nat) : Device :=
  match d.ctx ctx with
  | none => d
  | some c =>
    { d.modCtx ctx fun c => { c with unprot := true, held := [] } with
      host := releaseHeld d.host c.held
      queues := d.queues.map fun q =>
        { q with completions := q.completions.map fun r =>
            if r.ctx = ctx ∧ r.gated then { r with gated := false, time := d.globalTime.toNat, gseq := c.seq + 1 } else r } }

/-- The line of 64 bytes that holds a home of HBM or SBM. -/
def Home.line (h : Home) : Option Home :=
  match h with
  | .hbm a _ => some (.hbm (a / 64 * 64) false)
  | .sbm a => some (.sbm (a / 64 * 64))
  | _ => none

/-- A line of a peer page logged at its home before the first write to it in the open gyle performs (17 R401). -/
def State.logPeer (s : State) (ctx a : Nat) : State :=
  let l : Home := .peer (a / 64 * 64)
  match s.dev.ctx ctx with
  | some c =>
    if c.peerLog.any fun e => decide (e.home = l) then s
    else
      let old := bytesOf 64 (s.readHome ctx l 64)
      s.modCtx ctx fun c => { c with peerLog := ⟨l, old⟩ :: c.peerLog }
  | none => s

/-- A line logged before the first write to it in the open gyle performs (17 R401, R403). -/
def State.logLine (s : State) (ctx : Nat) (h : Home) : State :=
  match h with
  | .peer a => s.logPeer ctx a
  | _ =>
  match h.line, s.dev.ctx ctx with
  | some l, some c =>
    if c.unprot || c.log.any (fun e => decide (e.home = l)) then s
    else if c.logCapacity < c.used + 1 then s.modDev fun d => d.unprotect ctx
    else
      let old := bytesOf 64 (s.readHome ctx l 64)
      s.modCtx ctx fun c => { c with log := ⟨l, old⟩ :: c.log, used := c.used + 1 }
  | _, _ => s

/-- The lines of `n` bytes from a home on, logged. -/
def State.logLines (s : State) (ctx : Nat) (h : Home) (n : Nat) : State :=
  (List.range ((n + 126) / 64)).foldl (fun s i => s.logLine ctx (h.shift (min (64 * i) (n - 1)))) s

/-- The blocks of 256 bytes that a write of `n` bytes touches take a stored length (19 R438): 256 bytes with CMP = 0,
else what the controller chooses (DESIGN CHOICE, log entry 1). -/
def Device.storeBlocks (d : Device) (a n : Nat) (compressed : Bool) : Device :=
  (List.range ((a + n - 1) / 256 - a / 256 + 1)).foldl (fun d i =>
    let code : BitVec 2 := if compressed then Config.blockLength d.draws else 3
    { d with meta_ := spSet d.meta_ (a / 256 + i) (3 - code), draws := if compressed then d.draws + 1 else d.draws }) d

/-- A host write of a context: held while its gyle is open and protected (17 R402, R403). -/
def Device.hostWrite (d : Device) (ctx a n v : Nat) : Device :=
  match d.ctx ctx with
  | some c =>
    if c.unprot then { d with host := writeLE d.host a n v }
    else if c.logCapacity < c.used + 1 then
      let d := d.unprotect ctx
      { d with host := writeLE d.host a n v }
    else d.modCtx ctx fun c => { c with held := c.held ++ [⟨a, n, v⟩], used := c.used + 1 }
  | none => { d with host := writeLE d.host a n v }

/-- The bytes of a home written, without the gyle (11 R303). -/
def State.pokeHome (s : State) (h : Home) (n v : Nat) : State :=
  match h with
  | .spad c off => s.modCore c fun c => { c with mem := { c.mem with spad := writeLE c.mem.spad off n v } }
  | .hbm a z => s.modDev fun d => { d with hbm := writeLE d.hbm a n v }.storeBlocks a n z
  | .metadata _ => s
  | .sbm a => s.modDev fun d => { d with sbm := writeLE d.sbm a n v }
  | .host a => s.modDev fun d => { d with host := writeLE d.host a n v }
  | .peer a => s.modDev fun d => { d with peer := writeLE d.peer a n v }

/-- A write of a context performs at its home: logged, or held if it goes to the host (11 R303, 17 R401, R402). -/
def State.writeHome (s : State) (ctx : Nat) (h : Home) (n v : Nat) : State :=
  match h with
  | .host a => s.modDev fun d => d.hostWrite ctx a n v
  | h => (s.logLines ctx h n).pokeHome h n v

/-! ## Effective addresses (10 R287, R288) -/

/-- The class of an effective address. -/
inductive Ea where
  | virt (va : Nat)
  | spad (peer off : Nat)
  | bad
  deriving DecidableEq, Repr

/-- The class of a 64-bit effective address (10 R287). -/
def classify (ea : Dword) : Ea :=
  let n := ea.toNat
  if n < 2 ^ 49 then .virt n
  else if n / 2 ^ 23 = 2 ^ 41 - 2 then .spad (n / 2 ^ 21 % 4) (n % 2 ^ 21)
  else .bad

/-- The core that PEER names (10 R288). -/
def Core.peerId (c : Core) (peer : Nat) : CoreId := if peer = 0 then c.id else c.id.peer (peer - 1)

/-- The domain number of the scratchpad bank of an offset (01 R46). -/
def bankDom (off : Nat) : Nat := 7 + off / 2 ^ 17 % 16

/-- The state of a domain. -/
def Core.dom (c : Core) (d : Nat) : Dom := vget c.doms d .off

/-- Whether a domain is Awake. -/
def Core.awake (c : Core) (d : Nat) : Bool := decide (c.dom d = .awake)

/-- The remaining wake cycles of ARG; 0xFF_FFFF if the domain is not waking (01 R17). -/
def Dom.arg : Dom → Nat
  | .waking _ r => r
  | _ => 0xFFFFFF

/-- A fault as a word raises it; the word's address is filled in when it is raised (01 R17). -/
def mkFault (code detail arg : Nat) (addr : Dword) : FaultRec := ⟨code, detail, arg, addr, 0⟩

/-- *Sleeping resource* of a domain of the word's own core (01 R17, R51). -/
def sleeping (c : Core) (d : Nat) : FaultRec := mkFault 0x04 d (c.dom d).arg 0

/-- The lowest-numbered domain of a list that is not Awake raises *sleeping resource* (01 R51). -/
def needDoms (c : Core) (ds : List Nat) : Option FaultRec :=
  match ds.filter (fun d => !c.awake d) with
  | [] => none
  | d :: r => some (sleeping c (r.foldl Nat.min d))

/-- A touch of the scratchpad bank of an offset in the scratchpad of a core: a bank of another core counts as Awake only
if that core holds the same context (10 R289, 01 R51). -/
def State.touchAt (s : State) (id : CoreId) (off : Nat) : Option FaultRec :=
  let d := bankDom off
  if id = s.core.id then needDoms s.core [d]
  else
    let p := s.coreAt id
    let same := p.resident.isSome && decide (p.ctxId = s.core.ctxId)
    if same && p.awake d then none
    else some (mkFault 0x04 (0x80 + d) (if same then (p.dom d).arg else 0xFFFFFF) 0)

/-- A touch of the scratchpad that PEER names (10 R288). -/
def State.touchSpad (s : State) (peer off : Nat) : Option FaultRec := s.touchAt (s.core.peerId peer) off

/-! ## Translation (19) -/

/-- The kind of an access in a translation. -/
inductive Kind where
  | read | write | atomic
  deriving DecidableEq, Repr

/-- Whether an access writes. -/
def Kind.writes : Kind → Bool
  | .read => false
  | _ => true

/-- The number of a kind (17 R391, R395). -/
def Kind.num : Kind → Nat
  | .read => 0
  | .write => 1
  | .atomic => 2

/-- What a translation gives: the home of the byte with the entry, or how it ends (19 R427, R428, R434, R436). -/
inductive Trans where
  | ok (home : Home) (entry : Dword)
  | invalid
  | forbidden (detail : Nat)
  | parked
  deriving DecidableEq, Repr

/-- The `k` bits of a table entry from bit `lo` on. -/
def ebits (e : Dword) (lo k : Nat) : Nat := e.toNat / 2 ^ lo % 2 ^ k

/-- Whether an MX tag (04 R141). -/
def tagMx (tag : Nat) : Bool := decide (tag = 8 ∨ tag = 9 ∨ tag = 15)

/-- The format fields of a mapping entry agree (04 R143). -/
def formatOk (e : Dword) : Bool :=
  let tag := ebits e 60 4
  let g := ebits e 57 3
  decide (g ≠ 1) && (if tagMx tag then decide (g ≠ 0) else decide (g = 0))

/-- A mapping entry is well formed for a level whose pages have 2^`pb` bytes and the page size code `ps` (19 R428,
R439). -/
def leafOk (e : Dword) (pb ps : Nat) : Bool :=
  let loc := ebits e 51 2
  let frame := ebits e 0 49 / 2 ^ 16 * 2 ^ 16
  let craw := ebits e 5 1
  decide (ebits e 8 8 = 0) && decide (ebits e 49 2 = ps) && decide (frame % 2 ^ pb = 0)
    && physBacked loc frame && physBacked loc (frame + 2 ^ pb - 1)
    && !(decide (loc = 1) && decide (2 ≤ ps)) && !(decide (ebits e 3 1 = 1) && decide (loc ≠ 0))
    && (decide (craw = 0) || (decide (ebits e 60 4 = 0 ∧ ebits e 2 1 = 0 ∧ ps = 0 ∧ loc = 0 ∧ ebits e 3 1 = 0)
        && decide (frame % 2 ^ 24 = 0)))

/-- A pointing entry is well formed: NEXT is aligned to the next table's `size` bytes and backed (19 R428). -/
def pointOk (e : Dword) (size : Nat) : Bool :=
  let next := ebits e 0 49 / 2 ^ 7 * 2 ^ 7
  decide (ebits e 49 15 = 0 ∧ ebits e 2 5 = 0) && decide (next % size = 0) && hbmBacked next

/-- What a walk finds: a mapping entry with the log2 of its page and its address in HBM. -/
inductive Found where
  | leaf (e : Dword) (pb home : Nat)
  | invalid
  | malformed
  deriving DecidableEq, Repr

/-- The levels from one on: the lowest index bit, the index width, the page size code, the next table's size (R423). -/
abbrev Levels := List (Nat × Nat × Nat × Nat)

/-- The four levels of 19 R423. -/
def levels : Levels := [(33, 16, 3, 128), (29, 4, 2, 2048), (21, 8, 1, 256), (16, 5, 0, 0)]

/-- The walk of 19 R427 from a table on. -/
def walkFrom (hbm : Memory) (va : Nat) : Levels → Nat → Found
  | [], _ => .malformed
  | (lo, k, ps, next) :: r, t =>
    let home := t + 8 * (va / 2 ^ lo % 2 ^ k)
    let e : Dword := BitVec.ofNat 64 (readLE hbm home 8)
    if ebits e 0 1 = 0 then .invalid
    else if ebits e 1 1 = 1 then (if leafOk e lo ps then .leaf e lo home else .malformed)
    else if next = 0 then .malformed
    else if pointOk e next then walkFrom hbm va r (ebits e 7 42 * 2 ^ 7)
    else .malformed

/-- The walk of a context's tree (19 R424, R427). -/
def walk (hbm : Memory) (ptroot : Dword) (va : Nat) : Found :=
  if ebits ptroot 63 1 = 0 then .invalid
  else walkFrom hbm va levels (ebits ptroot 19 30 * 2 ^ 19)

/-- The entry that a TLB holds for a virtual address (19 R430). -/
def tlbFind (tlb : List TlbEntry) (ctx va : Nat) : Option TlbEntry :=
  tlb.find? fun t => decide (t.ctx = ctx ∧ va / 2 ^ t.bits * 2 ^ t.bits = t.page)

/-- A TLB with an entry put in front, keeping `cap` entries (DESIGN CHOICE, log entry 8). -/
def tlbPut (tlb : List TlbEntry) (cap : Nat) (t : TlbEntry) : List TlbEntry :=
  (t :: tlb.filter fun u => !decide (u.ctx = t.ctx ∧ u.page = t.page)).take cap

/-- Where a byte of a page lies (19 R427, R438, R439). -/
def leafHome (e : Dword) (pb va : Nat) : Home :=
  let frame := ebits e 0 49 / 2 ^ 16 * 2 ^ 16
  if ebits e 5 1 = 1 then .metadata (frame / 256 + va % 2 ^ pb)
  else homeOf (ebits e 51 2) (frame + va % 2 ^ pb) (decide (ebits e 3 1 = 1))

/-- What a TLB or else a walk gives for a virtual address (19 R427, R430); with PTROOT.VALID = 0 every access takes a
translation fault, whatever the TLB holds (19 R424). -/
def lookup (hbm : Memory) (ptroot : Dword) (ctx : Nat) (tlb : List TlbEntry) (va : Nat) : Found :=
  if ebits ptroot 63 1 = 0 then .invalid
  else
    match tlbFind tlb ctx va with
    | some t => .leaf t.entry t.bits t.home
    | none => walk hbm ptroot va

/-- Bits ORed into the entry at a home of HBM, which is written only where they are not set (19 R429). -/
def markEntry (hbm : Memory) (home set : Nat) : Memory :=
  let old := readLE hbm home 8
  if old &&& set = set then hbm else writeLE hbm home 8 (old ||| set)

/-- A translation through a TLB: a hit uses the held entry, a miss walks the tree and keeps what it finds; A and D are
set in the entry before the access performs (19 R427–R431, R436). Answers the translation, the TLB and HBM. -/
def translate (hbm : Memory) (ptroot : Dword) (ctx : Nat) (tlb : List TlbEntry) (cap va : Nat) (kind : Kind) :
    Trans × List TlbEntry × Memory :=
  match lookup hbm ptroot ctx tlb va with
  | .invalid => (.invalid, tlb, hbm)
  | .malformed => (.forbidden 7, tlb, hbm)
  | .leaf e pb home =>
    let tlb := tlbPut tlb cap ⟨ctx, va / 2 ^ pb * 2 ^ pb, pb, e, home⟩
    if kind.writes && decide (ebits e 2 1 = 0) then (.forbidden 2, tlb, hbm)
    else if !formatOk e then (.forbidden 3, tlb, hbm)
    else if kind.writes && decide (ebits e 4 1 = 1) then (.parked, tlb, hbm)
    else
      let set : Nat := if kind.writes then 0xC0 else 0x40
      let e' := e ||| BitVec.ofNat 64 set
      (.ok (leafHome e pb va) e', tlbPut tlb cap ⟨ctx, va / 2 ^ pb * 2 ^ pb, pb, e', home⟩, markEntry hbm home set)

/-- The TLB an engine uses (19 R430). -/
inductive TlbSel where
  | c | a | x
  deriving DecidableEq, Repr

/-- A translation for the context of the focus core, through one of its TLBs. -/
def State.translate (s : State) (sel : TlbSel) (va : Nat) (kind : Kind) : Trans × State :=
  match s.ctx with
  | none => (.invalid, s)
  | some c =>
    let tlb := match sel with | .c => s.core.tlbC | .a => s.core.tlbA | .x => s.core.tlbX
    let cap := match sel with | .c => 1088 | .a => 16 | .x => 16
    let (t, tlb, hbm) := Machine.translate s.dev.hbm c.ptroot c.id tlb cap va kind
    let core := match sel with
      | .c => { s.core with tlbC := tlb }
      | .a => { s.core with tlbA := tlb }
      | .x => { s.core with tlbX := tlb }
    (t, { s with core := core, dev := { s.dev with hbm := hbm } })

/-- The log2 of the page that the translation just made gave a virtual address of the focus core's context (19 R427, R430). -/
def State.pageBits (s : State) (sel : TlbSel) (va : Nat) : Nat :=
  let tlb := match sel with | .c => s.core.tlbC | .a => s.core.tlbA | .x => s.core.tlbX
  match s.ctx with
  | some c => (match lookup s.dev.hbm c.ptroot c.id tlb va with | .leaf _ pb _ => pb | _ => 16)
  | none => 16

/-- The state of an SBM bank: 0 Off, 1 Retained, 2 Awake (15 R361); bank number 288 × die + bank. -/
def sbmBank (d : Device) (a : Nat) : Nat := (spGet d.sbmState (288 * (a / 2 ^ 27 % 4) + a / 2 ^ 18 % 2 ^ 9)).toNat

/-- Whether an access to a home can perform now: a sleeping SBM bank makes it wait (15 R361), and so does a bank of a die whose clocks a
thermal trip has stopped (23 R478). -/
def Device.homeReady (d : Device) (h : Home) : Bool :=
  match h with
  | .sbm a => decide (sbmBank d a = 2) && !(vget d.mgmt.stopped (a / 2 ^ 27 % 4) false)
  | _ => true

end Sys2Proof.Machine
end

