-- ==== Sys2Proof/Machine/Ops.lean ====
section
/-! DEFINITION. The named operations over a core: engines, registers, results in flight, coupled flags, the checks of a
word at issue (03 R92), its holds and its issue (01 R19–R30), and taking an exception and returning from one
(17 R387–R393). -/

namespace Sys2Proof.Machine

/-- What a step or an instruction answers. -/
abbrev Result := Host.Outcome State Fault Refusal

/-! ## Engines -/

/-- One engine of a core. -/
def Core.eng (c : Core) : Engine → Eng
  | .c => c.ec
  | .a => c.ea
  | .v => c.ev
  | .m => c.em
  | .x => c.ex

/-- One engine of a core replaced. -/
def Core.setEng (c : Core) (e : Engine) (x : Eng) : Core :=
  match e with
  | .c => { c with ec := x }
  | .a => { c with ea := x }
  | .v => { c with ev := x }
  | .m => { c with em := x }
  | .x => { c with ex := x }

/-- One engine of a core changed. -/
def Core.modEng (c : Core) (e : Engine) (f : Eng → Eng) : Core := c.setEng e (f (c.eng e))

/-- The object of the hold of an XCHAIN behind an active walk: a number that no DETAIL of 17 R398 has. -/
def chainHold : Nat := 0x100

/-- The copy engine of a core changed. -/
def Core.modXc (c : Core) (f : CopyEng → CopyEng) : Core := { c with xc := f c.xc }

/-- The five engines in the order of 01 R30. -/
def engines : List Engine := [.c, .a, .v, .m, .x]

/-- The engine of a number (01 R17). -/
def engineNo : Nat → Engine
  | 0 => .c
  | 1 => .a
  | 2 => .v
  | 3 => .m
  | _ => .x

end Sys2Proof.Machine

namespace Sys2Proof

open Machine

/-- The domain of an engine; the C engine has none (01 R46, 05 R149). -/
def Engine.dom? : Engine → Option Nat
  | .c => none
  | .a => some 2
  | .v => some 3
  | .m => some 4
  | .x => some 5

end Sys2Proof

namespace Sys2Proof.Machine

/-! ## Modes -/

/-- Handler mode (17 R392). -/
def Core.inHandler (c : Core) : Bool := decide (c.flt.stop = .handler)

/-- Whether the resident context is a system context. -/
def State.systemCtx (s : State) : Bool := match s.ctx with | some c => c.system | none => false

/-- System access: a system context, or handler mode (01 R11, 17 R392). -/
def State.sysAccess (s : State) : Bool := s.systemCtx || s.core.inHandler

/-- The cluster of a core. -/
def State.cluster (s : State) (c : Core) : Cluster := vget s.dev.clusters c.id.cluster Cluster.reset

/-! ## Registers (01 R8) -/

/-- The value of a scalar register as a C word reads it: s0 is zero, and in handler mode s56–s63 are the handler
registers (17 R392). -/
def Core.readS (c : Core) (r : SReg) : Dword :=
  if r = 0 then 0
  else if c.inHandler && decide (56 ≤ r.val) then vget c.regs.h (r.val - 56) 0
  else c.regs.s[r]

/-- The place a C word's result in a scalar register lands in. -/
def Core.destS (c : Core) (r : SReg) : Dest :=
  if c.inHandler && decide (56 ≤ r.val) then .handlerReg (Fin.ofNat 8 (r.val - 56)) else .sreg r

/-- The value of a predicate: q0 is true, q7 reads PWRSTATE.LIMITED (01 R8). -/
def State.readQ (s : State) (q : QReg) : Bool :=
  if q = 0 then true
  else if q = 7 then (s.cluster s.core).limited
  else s.core.regs.qs.getLsbD q.val

/-- A mask register: m0 reads all ones (01 R8). -/
def Core.readM (c : Core) (m : MNo) : Mask := if m = 0 then BitVec.allOnes 128 else c.vec.m[m]

/-- The lanes of `new` where `enable` is set, else those of `old` (07 R198). -/
def mergeLanes (old new : Vector Word32 128) (enable : Mask) : Vector Word32 128 :=
  vof 128 fun i => if enable.getLsbD i then vget new i 0 else vget old i 0

/-- The bits of `new` where `enable` is set, else those of `old`. -/
def mergeMask (old new enable : Mask) : Mask := (new &&& enable) ||| (old &&& ~~~enable)

/-! ## Coupled flags (01 R26–R30) -/

/-- The flag as it stood at the start of the ref cycle (01 R30). -/
def Coupled.seen {α : Type} (x : Coupled α) : Flag := x.was.getD x.flag

/-- The flag changed: the change takes effect at the end of the ref cycle (01 R30). -/
def Coupled.setFlag {α : Type} (x : Coupled α) (f : Flag) : Coupled α := { x with flag := f, was := some x.seen }

/-- Whether an access that changes the flag may proceed: no other has changed it in this ref cycle (01 R30). -/
def Coupled.free {α : Type} (x : Coupled α) : Bool := x.was.isNone

/-- A write by an engine may proceed (01 R27). -/
def Coupled.canWrite {α : Type} (x : Coupled α) (e : Engine) : Bool :=
  x.free && !x.outstanding && decide (x.seen = .empty ∨ x.seen = .filling e)

/-- A read may proceed (01 R28); a consuming read changes the flag. -/
def Coupled.canRead {α : Type} (x : Coupled α) (keep : Bool) : Bool := decide (x.seen = .full) && (keep || x.free)

/-- The flag after a completing write has issued (01 R27). -/
def Coupled.beginWrite {α : Type} (x : Coupled α) (e : Engine) : Coupled α :=
  { x.setFlag (.filling e) with outstanding := true, writer := some e }

/-- The flag after a partial write has issued (01 R27). -/
def Coupled.partWrite {α : Type} (x : Coupled α) (e : Engine) : Coupled α :=
  if x.flag = .filling e then { x with writer := some e } else { x.setFlag (.filling e) with writer := some e }

/-- The data of a completing write land: the flag becomes full (01 R27). -/
def Coupled.complete {α : Type} (x : Coupled α) : Coupled α := { x.setFlag .full with outstanding := false }

/-- The flag after a read (01 R28). -/
def Coupled.afterRead {α : Type} (x : Coupled α) (e : Engine) (keep : Bool) : Coupled α :=
  if keep then x else { x.setFlag .empty with reader := some e }

/-- The producer of a read that holds (17 R398). -/
def Coupled.readProducer {α : Type} (x : Coupled α) : Option Engine :=
  match x.seen with
  | .filling o => some o
  | .empty => x.writer
  | .full => none

/-- The producer of a write that holds (17 R398). -/
def Coupled.writeProducer {α : Type} (x : Coupled α) (e : Engine) : Option Engine :=
  match x.seen with
  | .full => x.reader
  | .filling o => if o = e then none else some o
  | .empty => none

/-- The bound of a STALL field (03 R99): none for 0xFF. -/
def stallBound (st : Stall) : Option Nat :=
  if st.val = 255 then none else some ((16 + st.val % 16) * 2 ^ (st.val / 16))

/-- A hold at an object. -/
def mkHold (obj : Nat) (producer : Option Engine) (bound : Option Nat) (first : Option FaultRec := none) : Hold :=
  ⟨true, obj, producer, bound, 0, first⟩

/-- A hold that only the watchdog bounds. -/
def plainHold : Hold := mkHold 0xFF none none

/-! ## Results in flight (01 R20–R22, R56) -/

/-- A result of a word of an engine on its way, to land after `lat` cycles of the engine. -/
def Core.land (c : Core) (e : Engine) (d : Dest) (v : LValue) (lat : Nat) (fl : BitVec 5 := 0) : Core :=
  c.modEng e fun x => { x with landing := x.landing ++ [⟨d, v, lat, fl⟩] }

/-- A scalar result of a C word on its way. -/
def State.landS (s : State) (r : SReg) (v : Dword) (lat : Nat) : State :=
  s.modFocus fun c => c.land .c (c.destS r) (.word v) lat

/-- The dword of a landed value. -/
def LValue.dword : LValue → Dword
  | .word v => v
  | _ => 0

/-- The lanes of a landed value. -/
def LValue.lanesOf : LValue → Vector Word32 128
  | .lanes v => v
  | _ => zeroLanes

/-- The mask of a landed value. -/
def LValue.maskOf : LValue → Mask
  | .mask v => v
  | _ => 0

/-- The bytes of a tile row: lane `i` at 4·i (07 R219, R220). -/
def putTileRow (m : Memory) (part : Nat) (enable : Mask) (lanes : Vector Word32 128) : Memory :=
  (List.range 128).foldl (fun m i =>
    if enable.getLsbD i then writeLE m (512 * part + 4 * i) 4 (vget lanes i 0).toNat else m) m

/-- One register of the word registers changed. -/
def Core.modW (c : Core) (w : WNo) (f : Coupled Dword → Coupled Dword) : Core :=
  { c with regs := { c.regs with w := vset c.regs.w w (f c.regs.w[w]) } }

/-- One tile changed. -/
def Core.modT (c : Core) (t : Fin 32) (f : Coupled Memory → Coupled Memory) : Core :=
  { c with tiles := { c.tiles with t := vset c.tiles.t t (f c.tiles.t[t]) } }

/-- FPSTATUS flags set as a result lands (01 R12); a CSRW of this ref cycle keeps them (05 R175). -/
def Core.orFlags (c : Core) (f : BitVec 5) : Core :=
  { c with csr := { c.csr with fpstatus := c.csr.fpstatus ||| f.zeroExtend 7, landed := c.csr.landed ||| f } }

/-- One result lands (01 R21, R27): writes to s0, q0, q7 and m0 are discarded (R8). -/
def Core.landOne (c : Core) (x : Landing) : Core :=
  let c := c.orFlags x.flags
  match x.dest with
  | .sreg r => if r = 0 then c else { c with regs := { c.regs with s := vset c.regs.s r x.val.dword } }
  | .handlerReg r => { c with regs := { c.regs with h := vset c.regs.h r x.val.dword } }
  | .pred q =>
    if q = 0 ∨ q = 7 then c
    else
      let bitq : BitVec 8 := BitVec.ofNat 8 (2 ^ q.val)
      let qs := if x.val.dword = 0 then c.regs.qs &&& ~~~bitq else c.regs.qs ||| bitq
      { c with regs := { c.regs with qs := qs } }
  | .areg a => { c with regs := { c.regs with a := vset c.regs.a a x.val.dword } }
  | .vreg v en => { c with vec := { c.vec with v := vset c.vec.v v (mergeLanes c.vec.v[v] x.val.lanesOf en) } }
  | .mreg m en =>
    if m = 0 then c else { c with vec := { c.vec with m := vset c.vec.m m (mergeMask c.vec.m[m] x.val.maskOf en) } }
  | .word w => c.modW w fun r => { r with data := x.val.dword }.complete
  | .tileRow t part en completing =>
    c.modT t fun r =>
      let r := { r with data := putTileRow r.data part.val en x.val.lanesOf }
      if completing then r.complete else r

/-- Whether the value of a result is known: that of a scratchpad access is once the access has performed (11 R307). -/
def LValue.known : LValue → Bool
  | .access _ => false
  | _ => true

/-- Whether a result lands now. -/
def Landing.due (l : Landing) : Bool := decide (l.rem = 0) && l.val.known

/-- Every result of an engine whose time has come lands, in issue order (01 R20, R21). -/
def Core.landDue (c : Core) (e : Engine) : Core :=
  let x := c.eng e
  let due := x.landing.filter Landing.due
  let c := c.setEng e { x with landing := x.landing.filter fun l => !l.due }
  due.foldl Core.landOne c

/-- Whether a result of an engine is due. -/
def Eng.due (x : Eng) : Bool := x.landing.any Landing.due

/-! ## Loops and the program counter (05 R165, 06 R191) -/

/-- The address of the last body word of an active level, for words of `wb` bytes. -/
def Loop.lastAddr (l : Loop) (wb : Nat) : Nat := l.start + wb * (l.len - 1)

/-- Whether an address is the last body address of an active level. -/
def atLoopEnd (loops : Vector Loop 4) (wb pc : Nat) : Bool :=
  loops.toList.any fun l => decide (l.rem ≠ 0 ∧ pc % 2 ^ 48 = l.lastAddr wb % 2 ^ 48)

/-- The loop-back after the word at `pc`, from a level down (05 R165): the levels and the next address, if a level
loops back. -/
def loopBack (wb pc : Nat) : Nat → Vector Loop 4 → Vector Loop 4 × Option Nat
  | 0, ls => (ls, none)
  | n + 1, ls =>
    let l := vget ls n Loop.reset
    if l.rem ≠ 0 ∧ pc % 2 ^ 48 = l.lastAddr wb % 2 ^ 48 then
      if 1 < l.rem then (vput ls n { l with rem := l.rem - 1 }, some l.start)
      else loopBack wb pc n (vput ls n { l with rem := 0 })
    else loopBack wb pc n ls

/-- What a word does to its stream's program counter. -/
inductive NextPc where
  /-- The next word, or the first word of a loop body. -/
  | seq
  /-- A control transfer: the delay slot, and after it the target if it is taken (01 R23). -/
  | transfer (target : Option Dword)
  /-- An address at once: a LOOP whose count is zero (05 R165). -/
  | goto (pc : Dword)
  /-- The stream stops at the word (JOIN, HALT). -/
  | stay
  deriving DecidableEq, Repr

/-- The engine after its word has issued: program counter, loops, index; the hold is over. -/
def Core.advance (c : Core) (e : Engine) (n : NextPc) : Core :=
  let x := c.eng e
  let wb := e.wordBytes
  let x := { x with used := true, hold := none, index := x.index + 1 }
  let next : Dword := x.pc + BitVec.ofNat 64 wb
  let slot := if e = .c then c.ctl.slot else none
  let clear := fun c : Core => if e = .c then { c with ctl := { c.ctl with slot := none } } else c
  match n with
  | .stay => c.setEng e { x with index := (c.eng e).index }
  | .goto pc => (clear c).setEng e { x with pc := pc }
  | .transfer t => { (c.setEng e { x with pc := next }) with ctl := { c.ctl with slot := some t } }
  | .seq =>
    match slot with
    | some (some t) => (clear c).setEng e { x with pc := t }
    | some none => (clear c).setEng e { x with pc := next }
    | none =>
      let (ls, back) := loopBack wb x.pc.toNat 4 x.loops
      c.setEng e { x with loops := ls, pc := match back with | some a => BitVec.ofNat 64 a | none => next }

/-! ## What a word needs (03 R93–R97, R102) -/

end Sys2Proof.Machine

namespace Sys2Proof

open Machine

/-- The class field of a word that has one (03 R97). -/
def Instr.cls? : Instr → Option Cls
  | .ldB _ _ _ k | .ldBu _ _ _ k | .ldH _ _ _ k | .ldHu _ _ _ k | .ldW _ _ _ k | .ldWu _ _ _ k | .ldD _ _ _ k
  | .stB _ _ _ k | .stH _ _ _ k | .stW _ _ _ k | .stD _ _ _ k
  | .ldAcqW _ _ _ k | .ldAcqD _ _ _ k | .stRelW _ _ _ k | .stRelD _ _ _ k
  | .ldw _ _ _ k | .stw _ _ _ k | .stwRel _ _ _ k
  | .amoAddW _ _ _ k | .amoAndW _ _ _ k | .amoOrW _ _ _ k | .amoXorW _ _ _ k | .amoSminW _ _ _ k
  | .amoSmaxW _ _ _ k | .amoUminW _ _ _ k | .amoUmaxW _ _ _ k | .amoSwapW _ _ _ k | .amoFaddW _ _ _ k
  | .amoBfaddW _ _ _ k | .amoAddD _ _ _ k | .amoAndD _ _ _ k | .amoOrD _ _ _ k | .amoXorD _ _ _ k
  | .amoSminD _ _ _ k | .amoSmaxD _ _ _ k | .amoUminD _ _ _ k | .amoUmaxD _ _ _ k | .amoSwapD _ _ _ k
  | .casW _ _ _ k | .casD _ _ _ k => some k
  | .tld x | .tst x | .tldRaw x => some x.cls
  | .tldx x | .tstx x => some x.cls
  | .xcopy x | .xconv x | .xmcast x | .xcsr x | .xgather x | .xscatter x | .xsmd x | .xred x | .xamo x | .xmig x
  | .xlink x | .xchain x => some x.cls
  | _ => none

/-- The tile operands of a V, M or X word (03 R102). -/
def Instr.tops : Instr → List TileRef
  | .vpop _ _ t _ _ _ | .vpush _ _ t _ _ _ => [t]
  | .mdrain _ _ _ (.tile t _) _ _ => [t]
  | .mflags _ t _ | .mflagsC _ t _ => [t]
  | _ => []

/-- The control-transfer words (05 R164). -/
def Instr.isTransfer : Instr → Bool
  | .br _ _ | .brn _ _ | .jmp _ | .call _ | .calli _ | .ret | .loop _ _ _ | .eret => true
  | _ => false

/-- The loop and JOIN words of A, V, M and X, which may not stand at the last body address of an active level
(06 R191, 07 R224, 08 R251, 09 R282). -/
def Instr.isLoopOrJoin : Instr → Bool
  | .aloop _ _ _ | .ajoin | .vloop _ _ _ | .vjoin | .mloop _ _ _ | .mjoin | .xloop _ _ _ | .xhalt => true
  | _ => false

/-- The words that are no instructions of handler mode (17 R392). -/
def Instr.notInHandler : Instr → Bool
  | .fork _ _ | .rendez _ _ | .halt | .tend | .gyle | .bsync | .launch _ | .tspawn _ => true
  | _ => false

/-- The capability of an operand format (03 R95). -/
def Fmt.cap : Fmt → Nat
  | .bf16 => 14
  | .e4m3 | .e5m2 | .mxfp8 => 15
  | .t8 => 16
  | .int8 => 17
  | .mxfp4 => 18

/-- v.fp for an FP type, v.int for an INT type (03 R112). -/
def Ty.cap (t : Ty) : Nat := if t.fp then 8 else 7

/-- The capabilities of a word, ascending; MGO and MGO.S by the formats held at its issue (03 R95, R96, R107–R117). -/
def Instr.caps (i : Instr) (mx : Matrix) : List Nat :=
  match i with
  | .add _ _ _ | .sub _ _ _ | .and _ _ _ | .or _ _ _ | .xor _ _ _ | .sll _ _ _ | .srl _ _ _ | .sra _ _ _
  | .min _ _ _ | .max _ _ _ | .minu _ _ _ | .maxu _ _ _ | .clz _ _ | .popc _ _
  | .cmpEq _ _ _ | .cmpNe _ _ _ | .cmpLt _ _ _ | .cmpLtu _ _ _ | .cmpGe _ _ _ | .cmpGeu _ _ _ | .sel _ _ _ _
  | .addi _ _ _ | .andi _ _ _ | .ori _ _ _ | .xori _ _ _ | .slli _ _ _ | .srli _ _ _ | .srai _ _ _
  | .li _ _ | .lui _ _ => [1]
  | .mul _ _ _ | .mulh _ _ _ | .mulhu _ _ _ | .div _ _ _ | .divu _ _ _ | .rem _ _ _ | .remu _ _ _ => [2]
  | .tldx _ | .tstx _ => [5]
  | .vadd ty _ _ _ _ _ | .vsub ty _ _ _ _ _ | .vmul ty _ _ _ _ _ | .vmin ty _ _ _ _ _ | .vmax ty _ _ _ _ _
  | .vabs ty _ _ _ _ | .vneg ty _ _ _ _ | .vaddi ty _ _ _ _ _
  | .vcmpEq ty _ _ _ _ | .vcmpNe ty _ _ _ _ | .vcmpLt ty _ _ _ _ | .vcmpLe ty _ _ _ _ | .vcmpGt ty _ _ _ _
  | .vcmpGe ty _ _ _ _ | .vcmpUn ty _ _ _ _ => [ty.cap]
  | .vfma _ _ _ _ _ _ _ | .vfms _ _ _ _ _ _ _ | .vnfma _ _ _ _ _ _ _ | .vroundi _ _ _ _ _ => [8]
  | .vand _ _ _ _ | .vor _ _ _ _ | .vxor _ _ _ _ | .vandn _ _ _ _ | .vnot _ _ _
  | .vsll _ _ _ _ _ | .vsrl _ _ _ _ _ | .vsra _ _ _ _ _ | .vslli _ _ _ _ _ | .vsrli _ _ _ _ _
  | .vsrai _ _ _ _ _ => [7]
  | .vcvt _ _ _ _ _ _ _ _ => [9]
  | .vfexp2 _ _ _ _ | .vscaleb _ _ _ _ _ | .vgetexp _ _ _ _ | .vgetmant _ _ _ _ | .vrcp _ _ _ _ | .vrsq _ _ _ _
  | .vlog2 _ _ _ _ | .vclass _ _ _ => [10]
  | .vredSum _ _ _ _ _ | .vredMax _ _ _ _ _ | .vredMin _ _ _ _ _ | .vperm _ _ _ _ => [11]
  | .vdrain _ _ _ _ _ _ _ _ => [12]
  | .mgo => if mx.fa.cap ≤ mx.fb.cap then [mx.fa.cap, mx.fb.cap] else [mx.fb.cap, mx.fa.cap]
  | .mgoS _ => (if mx.fa.cap ≤ mx.fb.cap then [mx.fa.cap, mx.fb.cap] else [mx.fb.cap, mx.fa.cap]) ++ [19]
  | .xcsr _ | .xgather _ | .xscatter _ | .xsmd _ => [21]
  | .xred _ | .xamo _ => [22]
  | .xlink _ => [23]
  | i =>
    match i.stream with
    | some .c => if i.cls?.isSome then [3] else [0]
    | some .a => [4]
    | some .v => [6]
    | some .m => [13]
    | some .x => [20]
    | none => []

/-- The OP field of a word, DETAIL of codes 0x01 and 0x02 (17 R391). -/
def Instr.op (i : Instr) (e : Engine) : Nat := encode i / 2 ^ (8 * e.wordBytes - 6)

end Sys2Proof

namespace Sys2Proof.Machine

/-! ## Control register access (01 R10, R11) -/

/-- The access a control register gives. -/
inductive CsrAcc where
  | rw | ro | wo | none_
  deriving DecidableEq, Repr

/-- The user and system access of a control register; none for an unassigned number (01 R10, 09 R275, 15 R378,
17 R394, 19 R441, 21 R452, R454). -/
def csrAccess (n : Nat) : Option (CsrAcc × CsrAcc) :=
  if n ≤ 0x0001 then some (.rw, .rw)
  else if n ≤ 0x000A then some (.ro, .ro)
  else if n ≤ 0x000D then some (.ro, .rw)
  else if n = 0x000E then some (.ro, .ro)
  else if 0x0010 ≤ n ∧ n ≤ 0x001F then some (.rw, .rw)
  else if n = 0x0030 ∨ n = 0x0040 ∨ n = 0x0041 ∨ n = 0x0042 ∨ n = 0x0050 ∨ n = 0x0051 ∨ n = 0x0060 then some (.ro, .ro)
  else if n = 0x0100 ∨ n = 0x0101 then some (.ro, .rw)
  else if n = 0x0102 ∨ n = 0x0210 then some (.none_, .rw)
  else if 0x0220 ≤ n ∧ n ≤ 0x022B then some (.none_, .rw)
  else if n = 0x022C then some (.none_, .wo)
  else if n = 0x022D then some (.none_, .rw)
  else if n = 0x0232 then some (.none_, .ro)
  else if 0x0230 ≤ n ∧ n ≤ 0x0234 then some (.none_, .rw)
  else if n = 0x0240 then some (.none_, .rw)
  else if n = 0x0241 then some (.none_, .wo)
  else if n = 0x0242 then some (.none_, .ro)
  else if 0x0250 ≤ n ∧ n ≤ 0x0263 then some (.none_, .rw)
  else none

/-- Whether a word's access to a control register is refused as privileged (01 R11). -/
def csrPrivileged (sys wr : Bool) (n : Nat) : Bool :=
  if sys then false
  else
    match csrAccess n with
    | some (.ro, _) => wr
    | some (.none_, _) => true
    | some (.wo, _) => false
    | _ => false

/-! ## The checks of a word at issue (03 R92) -/

/-- The launch mode of a core's resident; detached when none is resident. -/
def Core.mode (c : Core) : Mode := match c.resident with | some r => r.mode | none => .detached

/-- Whether a tile operand names an invalid queue (03 R102). -/
def Core.badQueue (c : Core) : TileRef → Bool
  | .tile _ => false
  | .queue q => !c.tiles.tq[q].valid

/-- *Illegal encoding* that a word's context decides (03 R92 step 2): class 15 in a user context (R97), an unassigned
control register (R11), a transfer in a delay slot (R23), a transfer, a delay-slot word or a loop or JOIN word at the
last body address of an active level (R165, R191, R224, R251, R282), an invalid queue in a V, M or X word (R102), TEND
outside a task, BSYNC in a detached launch (R177) and in a task unit (DESIGN CHOICE, log entry 36), and the words that are no
instructions of handler mode (R392). -/
def State.contextIllegal (s : State) (e : Engine) (i : Instr) : Bool :=
  let c := s.core
  let x := c.eng e
  let inSlot := decide (e = .c) && c.ctl.slot.isSome
  let last := atLoopEnd x.loops e.wordBytes x.pc.toNat
  (match i.cls? with | some k => decide (k.val = 15) && !s.systemCtx | none => false)
    || (match i with
        | .csrr _ n => (csrAccess n.toNat).isNone
        | .csrw n _ => (csrAccess n.toNat).isNone
        | .tend => decide (c.mode ≠ .task)
        | .bsync => decide (c.mode ≠ .wave)
        | _ => false)
    || (i.isTransfer && (inSlot || last)) || (inSlot && last) || (i.isLoopOrJoin && last)
    || i.tops.any c.badQueue || (i.notInHandler && c.inHandler)

/-- *Privileged operation* of a word (03 R92 step 6; 01 R11, 05 R176, R177). SEIZE passes in the handler mode of a user context, whose
words have system access (17 R392; DESIGN CHOICE, log entry 42: 05 R177 speaks of user contexts). -/
def State.privileged (s : State) (i : Instr) : Option FaultRec :=
  match i with
  | .csrr _ n => if csrPrivileged s.sysAccess false n.toNat then some (mkFault 0x13 0 n.toNat 0) else none
  | .csrw n _ => if csrPrivileged s.sysAccess true n.toNat then some (mkFault 0x13 0 n.toNat 0) else none
  | .eret => if s.core.inHandler then none else some (mkFault 0x13 0 0 0)
  | .seize _ => if s.sysAccess then none else some (mkFault 0x13 0 0 0)
  | _ => none

/-- The lowest capability of a list that a mask lacks: the one that DETAIL names where several are missing, at an MGO.S a format's and
`m.sparse` among them (03 R93, R96; DESIGN CHOICE, log entry 37). -/
def missingCap (mask : BitVec 24) (caps : List Nat) : Option Nat := caps.find? fun k => !mask.getLsbD k

/-- The USEMASK of the running launch (03 R94). -/
def Core.useMask (c : Core) : BitVec 24 := match c.resident with | some r => r.use | none => 0

/-- The checks of 03 R92 that follow decoding, first found first; in handler mode USEMASK is not checked (17 R392). -/
def State.precheck (s : State) (e : Engine) (i : Instr) : Option FaultRec :=
  if s.contextIllegal e i then some (mkFault 0x01 (i.op e) 0 0)
  else
    match (if s.core.inHandler then none else missingCap s.core.useMask (i.caps s.core.mx)) with
    | some k => some (mkFault 0x07 k 0 0)
    | none =>
      match missingCap s.core.capmask (i.caps s.core.mx) with
      | some k => some (mkFault 0x06 k 0 0)
      | none => s.privileged i

/-! ## Holding, faulting and issuing -/

/-- A fault raised at an engine's word; it is taken at the end of the ref cycle (17 R387, R390). -/
def State.raise (s : State) (e : Engine) (f : FaultRec) : State :=
  s.modFocus fun c =>
    let c := c.modEng e fun x => { x with used := true }
    { c with flt := { c.flt with raised := c.flt.raised ++ [(e, { f with pc := (c.eng e).pc })] } }

/-- A word holds: its count goes on for as long as it holds, whatever it holds at (17 R398: only a word that issues resets
its count). -/
def State.holdAt (s : State) (e : Engine) (h : Hold) : State :=
  s.modFocus fun c => c.modEng e fun x =>
    let h := match x.hold with
      | some o => { h with count := o.count, fresh := o.fresh }
      | none => h
    { x with used := true, hold := some h }

/-- One more word of a producer counted at a hold (17 R398). -/
def Hold.tickFor (h : Hold) (e : Engine) : Hold :=
  if h.producer = some e ∧ !h.fresh then { h with count := h.count + 1 } else h

/-- A word of an engine has issued: the holds that wait on the engine count it, the watchdog starts again, and with a C word the
domains of a resumed core wake on (17 R398, R399, R414). -/
def Core.countIssue (c : Core) (e : Engine) : Core :=
  let c := engines.foldl (fun c o => c.modEng o fun x => { x with hold := x.hold.map fun h => h.tickFor e }) c
  { c with flt := { c.flt with wd := 0, wakesHeld := c.flt.wakesHeld && decide (e ≠ .c) } }

/-- What a word does once the checks of 03 R92 pass: it holds, it raises a fault, or it issues. -/
inductive WordOut where
  | hold (s : State) (h : Hold)
  | fault (s : State) (f : FaultRec)
  | ok (s : State) (n : NextPc)

/-- The outcome of a word at its engine, as a state. -/
def WordOut.finish (o : WordOut) (e : Engine) : State :=
  match o with
  | .hold s h => s.holdAt e h
  | .fault s f => s.raise e f
  | .ok s n => s.modFocus fun c => (c.advance e n).countIssue e

/-- A word of an engine's stream: the checks of 03 R92, then what it does. -/
def State.word (s : State) (e : Engine) (i : Instr) (k : State → WordOut) : Result :=
  .next <|
    match s.precheck e i with
    | some f => s.raise e f
    | none => (k s).finish e

/-- The first fault of a list of checks, or what follows. -/
def guard (s : State) (fs : List (Option FaultRec)) (k : WordOut) : WordOut :=
  match fs.findSome? fun x => x with
  | some f => .fault s f
  | none => k

/-! ## Taking an exception (17 R387–R392) -/

/-- The remaining latencies of an engine's results at a stop, counted from the cycle in which its point would have
issued (01 R56): one less if a word of it issued in its current cycle. Entries at 0 land. The landing buffer of X holds the
words that have not entered the queue logic (09 R253). -/
def Core.freezeLanding (c : Core) (e : Engine) : Core :=
  let x := c.eng e
  let faulted := c.flt.raised.any fun f => decide (f.1 = e)
  let unissued := decide (x.phase = 0) && (!x.used || x.hold.isSome || faulted)
  let left := if unissued then x.landing else x.landing.map fun l => { l with rem := l.rem - 1 }
  let c := (c.setEng e { x with landing := x.held ++ left, held := [] }).landDue e
  if e = .x then
    let step := fun k : XEntry => { k with rem := k.rem - 1 }
    c.modXc fun q => { q with entries := q.waiting ++ (if unissued then q.entries else q.entries.map step), waiting := [] }
  else c

/-- The fault that FAULTINFO records: the first in the order C, A, V, M, X (17 R390). -/
def Core.recorded (c : Core) : Option (Engine × FaultRec) :=
  (engines.map fun e => c.flt.raised.find? fun f => decide (f.1 = e)).findSome? fun x => x

/-- FAULTINFO of a fault (01 R17). -/
def faultInfo (wave : Bool) (col : Nat) (e : Engine) (f : FaultRec) : Dword :=
  BitVec.ofNat 64 (f.arg % 2 ^ 24 * 2 ^ 24 + f.detail % 256 * 2 ^ 16 + (if wave then col else 0) * 2 ^ 12
    + (if wave then 2 ^ 11 else 0) + e.num * 2 ^ 8 + f.code)

/-- One engine of a core has stopped (17 R387, R388); in handler mode a stop has frozen the results of the engines but C before. -/
def Core.drainEngine (c : Core) (e : Engine) : Core :=
  if vget c.flt.drained e.num false then c
  else
    let c := if c.inHandler && decide (e ≠ .c) then c else c.freezeLanding e
    let c := c.modEng e fun x => { x with hold := none, parked := none }
    { c with flt := { c.flt with drained := vput c.flt.drained e.num true } }

/-- Every engine stops: results in flight are kept, pending holds, waits and retirements are forgotten and begin again
on return (17 R387). -/
def Core.stopEngines (c : Core) : Core :=
  let before : Vector EngState 5 := ⟨#[c.ec.state, c.ea.state, c.ev.state, c.em.state, c.ex.state], rfl⟩
  let c := engines.foldl Core.drainEngine c
  { c with
    flt := { c.flt with before := before, stop := .stopped, drained := Vector.replicate 5 false }
    ctl := { c.ctl with wait := .none } }

/-- EPC of an engine: the stream address of its point; 0 for one that has none (17 R392, 01 R35). -/
def Core.pointOf (c : Core) (e : Engine) : Dword :=
  match vget c.flt.before e.num .idle with
  | .running => (c.eng e).pc
  | _ => 0

/-- The hardware writes the fault registers of a stopped core and enters handler mode at TRAPVEC (17 R392). `rowfault`
is ROWFAULT of the row, `colRec` the record a column without a fault receives in wave mode. -/
def Core.enterHandler (c : Core) (trapvec : Dword) (wave : Bool) (col : Nat) (rowfault : Dword) : Core :=
  let (info, fpc, addr) : Dword × Dword × Dword :=
    match c.recorded with
    | some (e, f) => (faultInfo wave col e f, f.pc, f.addr)
    | none =>
      let en := engineNo (rowfault.toNat / 2 ^ 16 % 8)
      (BitVec.ofNat 64 (col * 2 ^ 12 + 2 ^ 11 + en.num * 2 ^ 8), (c.eng en).pc, 0)
  let x := c.ec
  { c with
    csr := { c.csr with
      faultinfo := info
      faultpc := fpc
      faultaddr := addr
      epc := ⟨#[c.pointOf .c, c.pointOf .a, c.pointOf .v, c.pointOf .m, c.pointOf .x], rfl⟩
      rowfault := rowfault }
    flt := { c.flt with
      raised := []
      stop := .handler
      savedC := x.landing
      savedSlot := c.ctl.slot
      savedLoops := x.loops
      savedIndex := x.index
      savedSkip := x.skip
      savedAmo := c.ctl.amo
      epcWritten := false }
    ctl := { c.ctl with slot := none, amo := none }
    ec := { x with
      pc := trapvec, landing := [], held := [], loops := Vector.replicate 4 Loop.reset, state := .running, used := true
      index := if wave then 0 else x.index, skip := 0 } }

/-! ## Returning (17 R393) -/

/-- Latencies that count from an engine's next cycle. -/
def bump (ls : List Landing) : List Landing := ls.map fun l => { l with rem := l.rem + 1 }

/-- The landing buffer of an engine that goes on: its entries count from the cycle in which its next word with effect comes
to issue; with no such word, from its next cycle (01 R58, 17 R389, R419; DEDUCED, log entry 7). -/
def Eng.resumeLanding (x : Eng) : Eng :=
  if x.state = .running then
    { x with held := x.held ++ x.landing.filter (fun l => decide (l.rem ≠ 0)), landing := x.landing.filter fun l => decide (l.rem = 0) }
  else { x with landing := bump x.landing }

/-- The landing buffer of X of a core that goes on: what has not entered the queue logic counts on like the results of
another engine (01 R58, 09 R253). -/
def Core.resumeX (c : Core) : Core :=
  if c.ex.state = .running then
    c.modXc fun q => { q with
      waiting := q.waiting ++ q.entries.filter (fun k => decide (k.rem ≠ 0))
      entries := q.entries.filter fun k => decide (k.rem = 0) }
  else
    let later := fun k : XEntry => { k with rem := k.rem + 1 }
    c.modXc fun q => { q with entries := q.entries.map later }

/-- The next word of an engine comes to issue: the results held for it count their latencies again (01 R58), and so do the
words of X that wait to enter the queue logic (09 R253). -/
def Core.replay (c : Core) (e : Engine) : Core :=
  let c := c.modEng e fun x => { x with landing := x.held ++ x.landing, held := [] }
  if e = .x then c.modXc fun q => { q with entries := q.waiting ++ q.entries, waiting := [] } else c

/-- The CLKDIVs of column 0 behind a handler: its own words' are over, and a grant at one of them stands at the index at which the
C stream goes on (15 R365). -/
def ClkNote.leave (k : ClkNote) (index : Nat) : ClkNote :=
  match k.how with
  | .granted true _ => { k with how := .granted false index }
  | _ => k

/-- A core returns from handler mode: each engine has its state from before the stop and resumes at EPC, the landing
buffers are replayed, and after a software trap of the C stream C resumes behind the TRAP, which counts as issued (17 R393,
01 R58). After a software trap C resumes at EPC0 + 4 also where the TRAP stood at the last body address of a loop level, whose
REM stays (DESIGN CHOICE, log entry 35), and where the handler wrote EPC0 (DESIGN CHOICE, log entry 35). Such a write abandons what
the word at the old EPC0 had begun, an atomic whose old value had come or a TSPAWN that waited for its binding: another word then
begins its own (17 R393; DEDUCED, log entry 35). -/
def Core.leaveHandler (c : Core) : Core :=
  let f := c.flt
  let epc := fun e : Engine => vget c.csr.epc e.num 0
  let byTrap := decide (c.csr.faultinfo.toNat % 256 = 0x17 ∧ c.csr.faultinfo.toNat / 256 % 8 = 0)
  let slot := if f.epcWritten then none else f.savedSlot
  let pc0 : Dword :=
    if byTrap then
      match slot with
      | some (some t) => t
      | _ => epc .c + 4
    else epc .c
  let resume := fun (c : Core) (e : Engine) =>
    c.modEng e fun x => ({ x with state := vget f.before e.num .idle, pc := epc e } : Eng).resumeLanding
  let next := fun l : Landing => { l with rem := l.rem - 1 }
  let saved := if byTrap then f.savedC.map next else f.savedC
  let later := saved.filter fun l => decide (l.rem ≠ 0)
  let now := saved.filter fun l => decide (l.rem = 0)
  let c := ([Engine.a, .v, .m, .x].foldl resume c).resumeX
  let index := if byTrap ∧ c.mode ≠ .wave then f.savedIndex + 1 else f.savedIndex
  let skip := if byTrap ∧ c.mode = .wave then f.savedSkip + 1 else f.savedSkip
  { c with
    ec := { c.ec with
      pc := pc0
      state := vget f.before 0 .idle
      loops := f.savedLoops
      index := index
      skip := skip
      landing := now ++ c.ec.landing
      held := later }
    ctl := { c.ctl with
      slot := if byTrap then none else slot
      amo := if f.epcWritten then none else f.savedAmo
      binding := if f.epcWritten then none else c.ctl.binding
      clk := (c.ctl.clk.filter fun k => !k.handler).map fun k => k.leave (index + skip) }
    flt := { f with stop := .run, savedC := [], savedSlot := none, savedAmo := none, raised := [] } }

/-! ## The end of a ref cycle -/

/-- A flag's change has taken effect (01 R30). -/
def Coupled.settle {α : Type} (x : Coupled α) : Coupled α := { x with was := none }

end Sys2Proof.Machine
end

