-- ==== Sys2Proof/Machine/Access.lean ====
section
/-! DEFINITION. Memory accesses: issued words put them in order, and each unit performs in one instant at its home
(11 R303–R316). Plain loads, stores and atomics of the C engine, tile rows of A, drains of M. -/

namespace Sys2Proof.Machine

/-! ## Order (11 R308, R310) -/

/-- Whether an earlier access of the same core must perform before a later one: same engine and class (R308), an
acquire whose run holds the later class, or a release whose run holds the earlier class (R310). -/
def Access.before (a b : Access) : Bool :=
  decide (a.eng = b.eng) &&
    (decide (a.cls = b.cls) || (decide (a.eng = .c) &&
      ((match a.op with | .load _ _ => a.run.getLsbD b.cls.val | _ => false)
        || (match b.op with | .load _ _ => false | _ => b.run.getLsbD a.cls.val))))

/-- The place of the first earlier access that must perform before the `k`-th. -/
def blocker (as : List Access) (k : Nat) : Option Nat :=
  match as[k]? with
  | none => none
  | some b => (List.range k).find? fun j => match as[j]? with | some a => a.before b | none => false

/-- The running nest (08 R227). -/
def Matrix.nest (m : Matrix) : Option Nest := if m.active then some m.table else none

/-- Whether a drain must wait for the operand reads of an earlier nest (08 R250). -/
def Core.nestBlocks (c : Core) (a : Access) : Bool :=
  match a.op, c.mx.nest with
  | .drain, some n => decide (n.id < a.id) && !n.done
  | _, _ => false

/-- Whether the `k`-th access may perform its next unit now (11 R308, R310; 15 R361). -/
def State.canPerform (s : State) (k : Nat) : Bool :=
  match s.core.accesses[k]? with
  | none => false
  | some a =>
    (blocker s.core.accesses k).isNone && !s.core.nestBlocks a &&
      (match a.units with
       | [] => true
       | u :: _ => s.dev.homeReady u.home && (match u.scale, u.got with | some h, none => s.dev.homeReady h.1 | _, _ => true))

/-- Whether an access of an engine in a masked class has not performed (05 R163, 06 R193). -/
def Core.pendingIn (c : Core) (e : Engine) (mask : BitVec 16) : Bool :=
  c.accesses.any fun a => decide (a.eng = e) && mask.getLsbD a.cls.val

/-- Whether an earlier C access of a class has not performed at a virtual address (10 R291). -/
def Core.virtPending (c : Core) (cls : Cls) : Bool :=
  c.accesses.any fun a => decide (a.eng = .c ∧ a.cls = cls) &&
    a.units.any fun u => match u.home with | .spad _ _ => false | _ => true

end Sys2Proof.Machine

namespace Sys2Proof

open Machine

/-- The classes LO to HI of a run as a mask (03 R98). -/
def Orng.mask (r : Orng) : BitVec 16 :=
  BitVec.ofNat 16 (2 ^ (r.hi.val + 1) - 2 ^ r.lo.val)

end Sys2Proof

namespace Sys2Proof.Machine

/-! ## Atomic operations (05 R160, 10 R297) -/

/-- The two BF16 sums of BFADD (05 R160). -/
def bfadd (old operand : Nat) : Nat :=
  let one := fun k => (roundFp .bf16 .rne (numAdd false (decodeFp .bf16 (old / 2 ^ k % 2 ^ 16))
    (decodeFp .bf16 (operand / 2 ^ k % 2 ^ 16))).1).1
  one 0 + one 16 * 2 ^ 16

/-- The new value of an AMO of FN 0–10 (05 R160). -/
def amoNew (fn size old operand : Nat) : Nat :=
  let w := 8 * size
  let b := operand % 2 ^ w
  match fn with
  | 0 => (old + b) % 2 ^ w
  | 1 => old &&& b
  | 2 => old ||| b
  | 3 => old ^^^ b
  | 4 => if signed w old ≤ signed w b then old else b
  | 5 => if signed w old ≤ signed w b then b else old
  | 6 => min old b
  | 7 => max old b
  | 8 => b
  | 9 => (roundFp .f32 .rne (numAdd false (decodeFp .f32 old) (decodeFp .f32 b)).1).1
  | _ => bfadd old b

/-- FN of a compare and swap in an access: 16; its FN in DETAIL is 0 for W and 1 for D (05 R161). -/
def casFn : Nat := 16

/-- Whether an atomic on a host page can be performed: on port 0 if it is up, otherwise on port 1, and the port must be up
and report AtomicOps (10 R297; 21 R459, R463). -/
def Device.hostAtomics (d : Device) : Bool :=
  if vget d.hostIf.portUp 0 false then vget d.hostIf.portAtomic 0 false
  else vget d.hostIf.portUp 1 false && vget d.hostIf.portAtomic 1 false

/-- Whether the location of an atomic can perform it (10 R297). -/
def Device.amoSupported (d : Device) (h : Home) (fn : Nat) : Bool :=
  match h with
  | .spad _ _ | .sbm _ => true
  | .hbm _ _ => decide (fn ≠ 9 ∧ fn ≠ 10)
  | .host _ => decide (fn = 0 ∨ fn = 8 ∨ fn = casFn) && d.hostAtomics
  | .peer _ | .metadata _ => false

/-- One indivisible read-modify-write at its home: the old value and the state (10 R297, R300, 11 R316). An atomic on
a host page is not held (17 R402). -/
def State.atomicAt (s : State) (ctx : Nat) (h : Home) (fn size : Nat) (operand compare : Dword) : Nat × State :=
  let old := match h with
    | .host a => readLE s.dev.host a size
    | h => s.readHome ctx h size
  let w := 8 * size
  let write := if fn = casFn then decide (old = compare.toNat % 2 ^ w) else true
  let new := if fn = casFn then operand.toNat % 2 ^ w else amoNew fn size old operand.toNat
  (old, if write then (s.logLines ctx h size).pokeHome h size new else s)

/-- A value sign-extended from `n` bytes to 64 bits. -/
def extend (sg : Bool) (n v : Nat) : Dword :=
  if sg then BitVec.ofInt 64 (signed (8 * n) v) else BitVec.ofNat 64 v

/-! ## Issuing an access -/

/-- A fresh identifier. -/
def State.freshId (s : State) : Nat × State := (s.dev.fresh, s.modDev fun d => { d with fresh := d.fresh + 1 })

/-- The virtual addresses that a unit was translated at. -/
def AUnit.translated (u : AUnit) : List Nat :=
  let at_ := fun (h : Home) (va : Nat) => match h with | .spad _ _ => [] | _ => [va]
  at_ u.home u.va ++ (match u.scale with | some h => at_ h.1 h.2 | none => [])

/-- The addresses of some units that were translated, each with the log2 of the page that the translation used (19 R432). -/
def State.unitPages (s : State) (sel : TlbSel) (us : List AUnit) : List (Nat × Nat) :=
  (us.map AUnit.translated).flatten.map fun va => (va, s.pageBits sel va)

/-- An access put behind the earlier ones of its core. -/
def State.pushAccess (s : State) (a : Access) : State := s.modFocus fun c => { c with accesses := c.accesses ++ [a] }

/-- An access of C or M put behind the earlier ones, with the pages of its addresses. -/
def State.enqueue (s : State) (a : Access) : State := s.pushAccess { a with pages := s.unitPages .c a.units }

/-- One unit of `n` bytes at a home. -/
def unitAt (h : Home) (va n data : Nat) : AUnit := ⟨h, va, n, 0, data, 0, none, none, false⟩

/-- The C cycles within which a C access of the scratchpad performs (10 R291). -/
def spadCycles : Nat := 5

/-! ## Performing -/

/-- The value of a landed access takes its place in the landing buffer, also in one that a stop or a handler holds (01
R56). -/
def Core.fillLanding (c : Core) (id : Nat) (v : Dword) : Core :=
  let fill := fun l : Landing => if l.val = .access id then { l with val := .word v } else l
  let c := { c with flt := { c.flt with savedC := c.flt.savedC.map fill } }
  c.modEng .c fun x => { x with landing := x.landing.map fill, held := x.held.map fill }

/-- A virtual atomic that has performed: its word issues with the old value, at once or behind a handler (05 R162). -/
def Core.fillAmo (c : Core) (id : Nat) (v : Dword) : Core :=
  let fill := fun o : Option (Nat × Option Dword) => match o with
    | some (k, w) => if k = id then some (k, some v) else some (k, w)
    | none => none
  { c with ctl := { c.ctl with amo := fill c.ctl.amo }, flt := { c.flt with savedAmo := fill c.flt.savedAmo } }

/-- The access `id` is done. -/
def Core.dropAccess (c : Core) (id : Nat) : Core :=
  { c with accesses := c.accesses.filter fun a => decide (a.id ≠ id) }

/-- The bytes a tile load writes for a unit read as `v`: as stored, or widened by the page's tag (04 R141, R142). -/
def widen (u : AUnit) (v scale : Nat) : Nat :=
  let fp := fun t => (encodeFp .f32 .rne false (decodeFp t v).quiet).1
  let mx := fun t c => (encodeFp .f32 .rne false (mxValue (decodeFp t c) scale)).1
  match u.tag with
  | 2 | 10 => fp .f16
  | 3 | 11 => fp .bf16
  | 4 | 12 => fp .e4m3
  | 5 | 13 => fp .e5m2
  | 6 | 14 => fp .t8
  | 7 => wrap 32 (signed 8 v)
  | 8 | 15 => mx .e2m1 (if u.high then v / 16 else v % 16)
  | 9 => mx .e4m3 v
  | _ => v

/-- The bytes a unit fills in a tile: its size as stored, 4 when widened. -/
def AUnit.tileBytes (u : AUnit) : Nat := if u.tag = 0 ∨ u.tag = 1 then u.size else 4

/-- The bytes of a tile load written from a tile byte on, but those that `skip` marks: a later write covers them (06
R185). -/
def fillTile (m : Memory) (off n v skip : Nat) : Memory :=
  (List.range n).foldl (fun m i =>
    if skip.testBit i then m else writeByte m (off + i) (BitVec.ofNat 8 (v / 256 ^ i))) m

/-- One unit of an access performs at its home (11 R303). -/
def State.performUnit (s : State) (a : Access) (u : AUnit) : State :=
  let ctx := s.core.ctxId
  match a.op with
  | .load size sg =>
    let v := extend sg size (s.readHome ctx u.home u.size)
    s.modFocus fun c => c.fillLanding a.id v
  | .ldw w =>
    let v : Dword := BitVec.ofNat 64 (s.readHome ctx u.home 8)
    s.modFocus fun c => { c with arrivals := c.arrivals ++ [(w, v)] }
  | .store | .tileStore | .drain =>
    if u.tag = 8 ∨ u.tag = 15 then
      -- one MXFP4 element of a byte (04 R146)
      let old := s.readHome ctx u.home 1
      s.writeHome ctx u.home 1 (if u.high then old % 16 + 16 * u.data else old / 16 * 16 + u.data % 16)
    else s.writeHome ctx u.home u.size u.data
  | .amo fn size operand compare =>
    let (old, s) := s.atomicAt ctx u.home fn size operand compare
    let v := extend (decide (size = 4)) size old
    s.modFocus fun c => (c.fillLanding a.id v).fillAmo a.id v
  | .tileLoad t _ =>
    let v := widen u (s.readHome ctx u.home u.size) (u.got.getD 0)
    s.modFocus fun c => c.modT t fun r => { r with data := fillTile r.data u.off u.tileBytes v u.data }

/-- The units that an access has still to perform. -/
def Core.setUnits (c : Core) (id : Nat) (us : List AUnit) : Core :=
  { c with accesses := c.accesses.map fun b => if b.id = id then { b with units := us } else b }

/-- The next unit of the `k`-th access performs; with the last one the access has performed. The scale byte of an MX element is
read as a unit of its own, before the element (10 R299). -/
def State.performAt (s : State) (k : Nat) : State :=
  match s.core.accesses[k]? with
  | none => s
  | some a =>
    match a.units with
    | [] => s.modFocus fun c => c.dropAccess a.id
    | u :: r =>
      match u.scale, u.got with
      | some h, none =>
        let b := s.readHome s.core.ctxId h.1 1
        s.modFocus fun c => c.setUnits a.id ({ u with got := some b } :: r)
      | _, _ =>
        let s := s.performUnit a u
        s.modFocus fun c => if r.isEmpty then c.dropAccess a.id else c.setUnits a.id r

/-- The accesses of the focus core whose time is fixed perform in order: those of words that issued before a stop do so
before the stop is complete (10 R291, 17 R387). -/
def State.performFixed : Nat → State → State
  | 0, s => s
  | n + 1, s =>
    let able := fun k : Nat => (match s.core.accesses[k]? with | some a => a.fixed | none => false) && s.canPerform k
    match (List.range s.core.accesses.length).find? able with
    | some k => State.performFixed n (s.performAt k)
    | none => s

/-- The same of all that can. -/
def State.settleFixed (s : State) : State := s.performFixed s.core.accesses.length

/-- LDW_DATA_ARRIVE: the data of a long load arrive and its register becomes full (05 R158). -/
def execLdwDataArrive (w : WNo) (s : State) : Result :=
  .next <|
    match s.core.arrivals.find? fun x => decide (x.1 = w) with
    | none => s
    | some (_, v) => s.modFocus fun c =>
      let c := { c with arrivals := c.arrivals.filter fun x => decide (x.1 ≠ w) }
      c.modW w fun r => { r with data := v }.complete

/-- Whether an access that fills a tile has units to perform. -/
def Core.tileLoading (c : Core) (t : Fin 32) : Bool :=
  c.accesses.any fun a => match a.op with | .tileLoad t' _ => decide (t' = t) | _ => false

/-- TILE_DATA_LAND: the data of an A completing write, and of every earlier A write to the tile, have landed, and the
flag becomes full (06 R185). -/
def execTileDataLand (t : Fin 32) (s : State) : Result :=
  .next <|
    let r := s.core.tiles.t[t]
    if r.outstanding && decide (r.flag = .filling .a) && !s.core.tileLoading t then
      s.modFocus fun c => c.modT t Coupled.complete
    else s

/-- RESULT_LANDING: the results of an engine whose latency has run land (01 R20, R21). -/
def execResultLanding (e : Engine) (s : State) : Result := .next (s.modFocus fun c => c.landDue e)

end Sys2Proof.Machine
end

