-- ==== Sys2Proof/Machine/Operands.lean ====
section
/-! DEFINITION. Operands that couple the streams: tile registers and tile queues (01 R26–R31, 03 R102) and word
registers (01 R27, R28), with their holds (17 R398). -/

namespace Sys2Proof.Machine

/-! ## Tiles and queues -/

/-- The tile register a write to an operand goes to (01 R31). -/
def Core.tileTo (c : Core) : TileRef → Fin 32
  | .tile t => t
  | .queue q => let d := c.tiles.tq[q]; Fin.ofNat 32 (d.base + d.tail)

/-- The tile register a read of an operand takes (01 R31). A HEAD or TAIL that a word has advanced stands advanced for the words of later
engines in the same ref cycle: 01 R30 times the flags and the descriptors of QDEF only (DESIGN CHOICE, log entry 42). -/
def Core.tileFrom (c : Core) : TileRef → Fin 32
  | .tile t => t
  | .queue q => let d := c.tiles.tq[q]; Fin.ofNat 32 (d.base + d.head)

end Sys2Proof.Machine

namespace Sys2Proof

/-- DETAIL of a hold at a tile operand (17 R398). -/
def TileRef.obj : TileRef → Nat
  | .tile t => t.val
  | .queue q => 0x20 + q.val

end Sys2Proof

namespace Sys2Proof.Machine

/-- A completing write advances TAIL (01 R31). -/
def Core.bumpTail (c : Core) : TileRef → Core
  | .tile _ => c
  | .queue q =>
    let d := c.tiles.tq[q]
    { c with tiles := { c.tiles with tq := vset c.tiles.tq q { d with tail := (d.tail + 1) % d.len } } }

/-- A consuming read advances HEAD (01 R31). -/
def Core.bumpHead (c : Core) : TileRef → Core
  | .tile _ => c
  | .queue q =>
    let d := c.tiles.tq[q]
    { c with tiles := { c.tiles with tq := vset c.tiles.tq q { d with head := (d.head + 1) % d.len } } }

/-- The hold of a write to a tile operand, if it must hold (01 R27, 17 R398). -/
def Core.tileWriteHold (c : Core) (e : Engine) (top : TileRef) (bound : Option Nat) : Option Hold :=
  let r := c.tiles.t[c.tileTo top]
  if r.canWrite e then none else some (mkHold top.obj (r.writeProducer e) bound)

/-- The hold of a read of a tile operand, if it must hold (01 R28, 17 R398). -/
def Core.tileReadHold (c : Core) (top : TileRef) (keep : Bool) (bound : Option Nat) : Option Hold :=
  let r := c.tiles.t[c.tileFrom top]
  if r.canRead keep then none else some (mkHold top.obj r.readProducer bound)

/-- The flag and TAIL after a write by an engine has issued (01 R27, R31). -/
def Core.tileWritten (c : Core) (e : Engine) (top : TileRef) (completing : Bool) : Core :=
  let t := c.tileTo top
  if completing then (c.modT t fun r => r.beginWrite e).bumpTail top else c.modT t fun r => r.partWrite e

/-- The flag and HEAD after a read by an engine has issued (01 R28, R31). -/
def Core.tileTaken (c : Core) (e : Engine) (top : TileRef) (keep : Bool) : Core :=
  let t := c.tileFrom top
  let c := c.modT t fun r => r.afterRead e keep
  if keep then c else c.bumpHead top

/-! ## Word registers -/

/-- A completing write of a word register by an engine, full at latency 1 (01 R27, 05 R168, 06 R190). -/
def State.putWord (s : State) (e : Engine) (w : WNo) (v : Dword) (stall : Stall) : WordOut :=
  let r := s.core.regs.w[w]
  if !r.canWrite e then .hold s (mkHold (0x40 + w.val) (r.writeProducer e) (stallBound stall))
  else .ok (s.modFocus fun c => (c.modW w fun r => r.beginWrite e).land e (.word w) (.word v) 1) .seq

/-- A read of a word register by an engine; what follows takes its 64 bits (01 R28). -/
def State.takeWord (s : State) (e : Engine) (w : WNo) (keep : Bool) (bound : Option Nat)
    (k : Dword → State → WordOut) : WordOut :=
  let r := s.core.regs.w[w]
  if !r.canRead keep then .hold s (mkHold (0x40 + w.val) r.readProducer bound)
  else k r.data (s.modFocus fun c => c.modW w fun r => r.afterRead e keep)

/-! ## Loops (05 R165, 06 R191) -/

/-- A loop level started at the word at `pc` of an engine (05 R165, 06 R191): with count 0 the body is skipped. -/
def State.startLoop (s : State) (e : Engine) (lvl : Fin 4) (len count : Nat) : WordOut :=
  let wb := e.wordBytes
  let pc := (s.core.eng e).pc
  let start := pc + BitVec.ofNat 64 wb
  let l : Loop := ⟨len, start.toNat % 2 ^ 48, count⟩
  let s := s.modFocus fun c => c.modEng e fun x => { x with loops := vset x.loops lvl l }
  .ok s (.goto (if count = 0 then start + BitVec.ofNat 64 (wb * len) else start))

/-- The loop count of an A, V, M or X loop word (06 R191, 07 R224, 08 R251, 09 R282). -/
def State.loopWord (s : State) (e : Engine) (lvl : Fin 4) (count : LoopCount) (len : BitVec 12) : WordOut :=
  match count with
  | .imm n => s.startLoop e lvl len.toNat n.toNat
  | .word w stall =>
    s.takeWord e w false (stallBound stall) fun v s => s.startLoop e lvl len.toNat v.toNat

/-- A JOIN word: the engine becomes Joining (01 R35). -/
def State.joinEngine (s : State) (e : Engine) : WordOut :=
  .ok (s.modFocus fun c => c.modEng e fun x => { x with state := .joining, index := x.index + 1 }) .stay

end Sys2Proof.Machine
end

