-- ==== Sys2Proof/Machine/Cask.lean ====
section
/-! DEFINITION. Casks: their slots, credits and releases (09 R276–R280), and the cask words of C and A (05 R169, R170;
06 R192). -/

namespace Sys2Proof.Machine

/-- A slot state (09 R276). -/
structure Slot where
  filled : Bool
  ovf : Bool
  act : Nat
  nom : Nat
  deriving DecidableEq, Repr

/-- The slot state of 66 bits (09 R276). -/
def Slot.pack (x : Slot) : BitVec 66 :=
  BitVec.ofNat 66 (x.nom + x.act * 2 ^ 32 + (if x.ovf then 2 ^ 64 else 0) + (if x.filled then 2 ^ 65 else 0))

/-- The fields of 66 bits (09 R276). -/
def Slot.unpack (v : BitVec 66) : Slot :=
  ⟨v.getLsbD 65, v.getLsbD 64, v.toNat / 2 ^ 32 % 2 ^ 32, v.toNat % 2 ^ 32⟩

/-- A cask header by number; an undefined one past the end. -/
def CopyEng.cask (x : CopyEng) (n : Nat) : Cask := vget x.casks n ⟨false, 0, 0, 0, 0⟩

/-- The slot of a cask. -/
def CopyEng.slot (x : CopyEng) (n i : Nat) : Slot := Slot.unpack (spGet x.slots (64 * n + i))

/-- The slot of a cask written. -/
def CopyEng.putSlot (x : CopyEng) (n i : Nat) (v : Slot) : CopyEng := { x with slots := spSet x.slots (64 * n + i) v.pack }

/-- A cask header written. -/
def CopyEng.putCask (x : CopyEng) (n : Nat) (k : Cask) : CopyEng := { x with casks := vput x.casks n k }

/-- One credit applied to the slot at the write pointer (09 R279). -/
def CopyEng.apply (x : CopyEng) (n nom act : Nat) : CopyEng :=
  let k := x.cask n
  let s := x.slot n k.wp
  let s := { s with nom := s.nom + nom, act := min (s.act + act) (2 ^ 32 - 1) }
  if k.exp ≤ s.nom then
    let s := { s with ovf := s.ovf || decide (k.exp < s.nom), nom := k.exp, filled := true }
    let x := (x.putSlot n k.wp s).putCask n { k with wp := (k.wp + 1) % k.slots }
    { x with fresh := (n, k.wp) :: x.fresh }
  else x.putSlot n k.wp s

/-- A credit reaches its cask: discarded where the cask is undefined, held behind held credits or a filled slot, else
applied (09 R279). The second answer says that it is not held. -/
def CopyEng.credit (x : CopyEng) (k : Credit) : CopyEng × Bool :=
  if !(x.cask k.cask).valid then (x, true)
  else if x.held.any (fun h => decide (h.cask = k.cask)) || (x.slot k.cask (x.cask k.cask).wp).filled then
    ({ x with held := x.held ++ [k] }, false)
  else (x.apply k.cask k.nom k.act, true)

/-- Held credits applied in order as long as the slot at the write pointer is free (09 R279): the engine and the
credits that no longer wait. -/
def CopyEng.drainHeld (x : CopyEng) : CopyEng × List Credit :=
  x.held.foldl (fun (y : CopyEng × List Credit) h =>
    let behind := y.1.held.any fun o => decide (o.cask = h.cask)
    if behind || (y.1.slot h.cask (y.1.cask h.cask).wp).filled then ({ y.1 with held := y.1.held ++ [h] }, y.2)
    else (y.1.apply h.cask h.nom h.act, y.2 ++ [h])) ({ x with held := [] }, [])

/-- Whether the slot at the read pointer is filled, so that a CKREL may release it (05 R169, 09 R280). -/
def CopyEng.filledNow (x : CopyEng) (n : Nat) : Bool :=
  (x.slot n (x.cask n).rp).filled && !x.fresh.any (fun f => decide (f = (n, (x.cask n).rp)))

/-- The slot at the read pointer as it stood at the start of the ref cycle: one that a CKREL has released in it stands as it was
(09 R280, 01 R30). -/
def CopyEng.slotAtStart (x : CopyEng) (n : Nat) : Slot :=
  match x.freed.find? fun f => decide (f.1 = n) with
  | some f => Slot.unpack f.2
  | none => let s := x.slot n (x.cask n).rp; { s with filled := x.filledNow n }

/-- Whether a CKWAIT finds its slot filled: as it stood at the start of the ref cycle (09 R280). -/
def CopyEng.ready (x : CopyEng) (n : Nat) : Bool := (x.slotAtStart n).filled

/-- The value a CKWAIT returns: ACT, OVF in bit 32 (09 R279). -/
def CopyEng.count (x : CopyEng) (n : Nat) : Dword :=
  let s := x.slotAtStart n
  BitVec.ofNat 64 (s.act + if s.ovf then 2 ^ 32 else 0)

/-- The slot at the read pointer released: counts cleared, pointer advanced (05 R169, 09 R279). -/
def CopyEng.release (x : CopyEng) (n : Nat) : CopyEng :=
  let k := x.cask n
  let freed := if x.freed.any fun f => decide (f.1 = n) then x.freed else (n, (x.slot n k.rp).pack) :: x.freed
  { (x.putSlot n k.rp ⟨false, false, 0, 0⟩).putCask n { k with rp := (k.rp + 1) % k.slots } with freed := freed }

/-- A cask defined (09 R277). -/
def CopyEng.define (x : CopyEng) (n slots exp : Nat) : CopyEng :=
  { x.putCask n ⟨true, slots, 0, 0, exp⟩ with
    slots := spClear x.slots (64 * n) (64 * n + 64)
    fresh := x.fresh.filter fun f => decide (f.1 ≠ n)
    freed := x.freed.filter fun f => decide (f.1 ≠ n) }

/-- Whether a cask has a slot with a count, or a held credit (09 R277). -/
def CopyEng.busy (x : CopyEng) (n : Nat) : Bool :=
  x.slots.any (fun e => decide (e.1 / 64 = n)) || x.held.any fun h => decide (h.cask = n)

/-- *Cask overflow or underflow* (05 R169, 17 R391). -/
def caskFault (n arg : Nat) : FaultRec := mkFault 0x14 n arg 0

/-- A CKWAIT of an engine: it holds until the slot is filled, then gives its count to `put` (05 R169, 06 R192). -/
def State.caskWait (s : State) (n : CkNo) (stall : Stall) (put : Dword → State → State) : WordOut :=
  match needDoms s.core [5] with
  | some f => .fault s f
  | none =>
    if !(s.core.xc.cask n.val).valid then .fault s (caskFault n.val 0)
    else if s.core.xc.ready n.val then .ok (put (s.core.xc.count n.val) s) .seq
    else .hold s (mkHold (0x80 + n.val) (some .x) (stallBound stall))

/-- A CKREL of an engine (05 R169, 06 R192). -/
def State.caskRelease (s : State) (n : CkNo) : WordOut :=
  match needDoms s.core [5] with
  | some f => .fault s f
  | none =>
    if !(s.core.xc.cask n.val).valid then .fault s (caskFault n.val 0)
    else if !s.core.xc.filledNow n.val then .fault s (caskFault n.val 1)
    else .ok (s.modFocus fun c => { c with xc := c.xc.release n.val }) .seq

/-- CKWAIT of the C stream, latency 1 (05 R169). -/
def execCkwait (d : SReg) (ck : CkNo) (stall : Stall) (s : State) : Result :=
  s.word .c (.ckwait d ck stall) fun s => s.caskWait ck stall fun v s => s.landS d v 1

/-- CKREL of the C stream (05 R169). -/
def execCkrel (ck : CkNo) (s : State) : Result := s.word .c (.ckrel ck) fun s => s.caskRelease ck

end Sys2Proof.Machine
end

