-- ==== Sys2Proof/Machine/AStream.lean ====
section
/-! DEFINITION. The words of the A stream (06 R178–R194) and its translation halt.

A word that names a tile checks its domains and queues, then holds at its flags, then checks the rest in the order of
R181 in the cycle in which it would issue (DEDUCED, log entry 13). -/

namespace Sys2Proof.Machine

/-! ## Rows and elements -/

/-- One row or one element of a tile access: its address, stored length in bytes, tile bytes, format tag (0: as stored),
the size its start is a multiple of, and the tile bytes of the whole row that it is a part of. -/
structure Piece where
  ea : Dword
  len : Nat
  off : Nat
  tlen : Nat
  tag : Nat
  align : Nat
  row : Nat
  deriving DecidableEq, Repr

/-- The bits of a stored element of a tag (04 R141). -/
def tagBits (tag : Nat) : Nat :=
  match tag with
  | 2 | 3 | 10 | 11 => 16
  | 4 | 5 | 6 | 7 | 9 | 12 | 13 | 14 => 8
  | 8 | 15 => 4
  | _ => 32

/-- The translation of a virtual address in the A engine's TLB or by a walk, changing nothing. -/
def State.lookA (s : State) (va : Nat) : Found :=
  match s.ctx with
  | none => .invalid
  | some c => lookup s.dev.hbm c.ptroot c.id s.core.tlbA va

/-- The format tag of the page at an address: 0 where it does not decode (04 R141). A page without a usable entry counts as one
that does not decode, so that its bytes keep the alignment of tag 0 (DESIGN CHOICE, log entry 14). -/
def State.tagAt (s : State) (ea : Dword) : Nat :=
  match classify ea with
  | .virt va => match s.lookA va with | .leaf e _ _ => ebits e 60 4 | _ => 0
  | _ => 0

/-- The part of a row of `row` bytes from tile byte `off` on, `bytes` tile bytes at an address, under one format tag. -/
def rowPart (row : Nat) (ea : Dword) (off bytes tag : Nat) : Piece :=
  let bits := tagBits tag
  ⟨ea, if tag = 0 then bytes else (bytes / 4 * bits + 7) / 8, off, bytes, tag, if tag = 0 then 4 else max 1 (bits / 8), row⟩

/-- The tile bytes that a page of 64 KiB takes from a virtual address on, under a tag. -/
def pageRoom (va tag : Nat) : Nat :=
  let room := 2 ^ 16 - va % 2 ^ 16
  if tag = 0 then room else 8 * room / tagBits tag * 4

/-- A row of `bytes` tile bytes at an address: the bytes on each page follow that page's tag (04 R145, 06 R180). A row lies on at
most two pages of 64 KiB. -/
def State.rowParts (s : State) (ea : Dword) (off bytes : Nat) (raw : Bool) : List Piece :=
  let tagOf := fun a : Dword => if raw then 0 else s.tagAt a
  let tag := tagOf ea
  let room := pageRoom ea.toNat tag
  match classify ea with
  | .virt _ =>
    if bytes ≤ room then [rowPart bytes ea off bytes tag]
    else
      let next : Dword := BitVec.ofNat 64 ((ea.toNat / 2 ^ 16 + 1) * 2 ^ 16)
      [rowPart bytes ea off room tag, rowPart bytes next (off + room) (bytes - room) (tagOf next)]
  | _ => [rowPart bytes ea off bytes tag]

/-- The rows of an affine word (06 R184): `raw` for TLD.RAW. -/
def State.rowPieces (s : State) (x : AT) (raw : Bool) : List Piece :=
  let bytes := x.rbytes.val + 1
  let base := s.core.regs.a[x.ab] + 64 * x.off.signExtend 64
  let stride := s.core.regs.a[x.stride]
  ((List.range (x.rows.val + 1)).map fun j => s.rowParts (base + BitVec.ofNat 64 j * stride) (j * bytes) bytes raw).flatten

/-- The elements of an indexed word (06 R188). -/
def State.elemPieces (s : State) (x : AX) : List Piece :=
  let idx := s.core.tiles.t[s.core.tileFrom x.idx].data
  let esz : Nat := 2 ^ x.esz.val
  let base := s.core.regs.a[x.ab]
  (List.range (x.count.val + 1)).map fun i =>
    let xi : Int := signed 32 (readLE idx (4 * i) 4)
    let ea := base + BitVec.ofInt 64 (xi * (esz : Int))
    let tag := s.tagAt ea
    if tag = 0 then ⟨ea, esz, i * esz, esz, 0, esz, esz⟩ else ⟨ea, esz, 4 * i, 4, tag, esz, 4⟩

/-! ## Checks (06 R181) -/

/-- Order 3: *misaligned*; a row has no access size, and DETAIL holds the alignment that it needs (06 R186; DESIGN CHOICE, log entry
13). -/
def Piece.misaligned (p : Piece) : Option FaultRec :=
  if p.ea.toNat % p.align = 0 then none else some (mkFault 0x0F p.align 0 p.ea)

/-- Order 4: the class of the piece's bytes; a piece that leaves its class raises *protection* (06 R180, 10 R288). -/
def Piece.classBad (p : Piece) : Option FaultRec :=
  let last := p.ea + BitVec.ofNat 64 (p.len - 1)
  let bad := match classify p.ea, classify last with
    | .virt a, .virt b => decide (b < a)
    | .spad p0 o0, .spad p1 o1 => decide (p0 ≠ p1 ∨ o1 < o0)
    | _, _ => true
  if bad then some (mkFault 0x0A 1 0 p.ea) else none

/-- The scratchpad banks a piece touches: PEER and bank. -/
def Piece.banks (p : Piece) : List (Nat × Nat) :=
  match classify p.ea with
  | .spad peer off => (List.range ((off + p.len - 1) / 2 ^ 17 - off / 2 ^ 17 + 1)).map fun i => (peer, off / 2 ^ 17 + i)
  | _ => []

/-- Order 5: the scratchpad banks of all pieces; the lowest-numbered domain of the core's own first (01 R51). -/
def State.banksAsleep (s : State) (ps : List Piece) : Option FaultRec :=
  let bs := (ps.map Piece.banks).flatten
  let own := bs.filter fun b => decide (s.core.peerId b.1 = s.core.id)
  match needDoms s.core (own.map fun b => 7 + b.2) with
  | some f => some f
  | none => bs.findSome? fun b => s.touchSpad b.1 (b.2 * 2 ^ 17)

/-- The virtual pages a piece touches: an address in each (06 R180). -/
def Piece.pages (p : Piece) : List Nat :=
  match classify p.ea with
  | .virt va =>
    (List.range ((va + p.len - 1) / 2 ^ 16 - va / 2 ^ 16 + 1)).map fun i =>
      if i = 0 then va else (va / 2 ^ 16 + i) * 2 ^ 16
  | _ => []

/-! ## MX pages (04 R143, R144) -/

/-- The scale window of a mapping entry. -/
def State.window (s : State) (e : Dword) : Nat := (vget s.core.csr.scale (ebits e 53 4) 0).toNat

/-- Whether a scale window can be used (04 R144). -/
def windowOk (w : Nat) : Bool :=
  let rsize := w / 2 ^ 57 % 64
  decide (w / 2 ^ 63 = 1 ∧ 16 ≤ rsize ∧ rsize ≤ 48 ∧ w / 2 ^ 52 % 32 ≤ 20)

/-- The elements of a block and whether it runs down a column (04 R143). -/
def blockShape (e : Dword) : Nat × Bool :=
  let g := ebits e 57 3
  (if g / 2 = 1 then 16 else if g / 2 = 2 then 32 else 64, decide (g % 2 = 1))

/-- The virtual address of the scale byte of the element at a bit address of an MX page (04 R144). -/
def scaleVa (w : Nat) (e : Dword) (bitAddr : Nat) : Nat :=
  let (g, col) := blockShape e
  let rsize := w / 2 ^ 57 % 64
  let rlog := w / 2 ^ 52 % 32
  let elem := bitAddr % (8 * 2 ^ rsize) / tagBits (ebits e 60 4)
  let b := if col then elem / 2 ^ rlog / g * 2 ^ rlog + elem % 2 ^ rlog else elem / g
  w % 2 ^ 49 + b

/-- The mapping entry at the start of a piece. -/
def State.entryAt (s : State) (p : Piece) : Option Dword :=
  match classify p.ea with
  | .virt va => match s.lookA va with | .leaf e _ _ => some e | _ => none
  | _ => none

/-- The scale bytes that a decoding piece touches, on an MX page whose geometry is assigned and whose window can be used (04 R143, R144).
An indexed word and a store down columns, which order 7 refuses there, touch those of their elements too (06 R181 does not say; DESIGN
CHOICE, log entry 13). -/
def State.scalePages (s : State) (p : Piece) : List Nat :=
  match classify p.ea, s.entryAt p with
  | .virt va, some e =>
    if tagMx p.tag && formatOk e && windowOk (s.window e) then
      (List.range (p.tlen / 4)).map fun k => scaleVa (s.window e) e (8 * va + k * tagBits p.tag)
    else []
  | _, _ => []

/-- Order 4 of the scale bytes of a decoding piece: one at 2^49 or beyond is of neither class (10 R287, R288; 04 R144). -/
def State.scaleBad (s : State) (p : Piece) : Option FaultRec :=
  ((s.scalePages p).find? fun va => decide (2 ^ 49 ≤ va)).map fun va => mkFault 0x0A 1 0 (BitVec.ofNat 64 va)

/-- The format limits of a row or element on a decoding page (04 R144–R146; DETAIL 3): those on RBYTES + 1 hold for the whole row,
wherever its other part lies. A store covers whole blocks of an MX page if each row, and on each page its part there, starts and ends
at a block bound by itself; rows of one word do not cover a block together (04 R146; DESIGN CHOICE, log entry 14). -/
def State.formatBad (s : State) (p : Piece) (indexed store : Bool) : Bool :=
  if p.tag = 0 then false
  else if indexed then tagMx p.tag || decide (8 * p.len ≠ tagBits p.tag)
  else
    decide (p.row % 4 ≠ 0) || (decide (tagBits p.tag = 4) && decide (p.row % 8 ≠ 0))
      || (tagMx p.tag &&
          match classify p.ea, s.entryAt p with
          | .virt va, some e =>
            !windowOk (s.window e) ||
              (store &&
                (let (g, col) := blockShape e
                 let first := 8 * va % (8 * 2 ^ (s.window e / 2 ^ 57 % 64)) / tagBits p.tag
                 col || decide (first % g ≠ 0) || decide (p.tlen / 4 % g ≠ 0)))
          | _, _ => false)

/-! ## The checks together -/

/-- How the checks of a tile word end. -/
inductive AOut where
  | pass
  | fault (f : FaultRec)
  | halt (va : Nat)
  | park (va : Nat)

/-- The fault of a word that its checks would raise if it did not hold; code 0x09 stands for a page without a valid entry, at which
the word halts (06 R181, R194). -/
def AOut.first (o : AOut) (store : Bool) : Option FaultRec :=
  match o with
  | .fault f => some f
  | .halt va => some (mkFault 0x09 0 (if store then 1 else 0) (BitVec.ofNat 64 va))
  | _ => none

/-- The first answer of a list. -/
def firstOf {α β : Type} (f : α → Option β) : List α → Option β
  | [] => none
  | x :: r => match f x with | some y => some y | none => firstOf f r

/-- Order 7 of a page: malformed, not writable, format fields (17 R391). -/
def Found.refuses (f : Found) (write : Bool) : Option Nat :=
  match f with
  | .leaf e _ _ => if write && decide (ebits e 2 1 = 0) then some 2 else if formatOk e then none else some 3
  | .malformed => some 7
  | .invalid => none

/-- A page whose entry has MWP set, among those that a store touches (19 R436). -/
def State.movingPage (s : State) (vas : List Nat) : Option Nat :=
  vas.find? fun va => match s.lookA va with | .leaf e _ _ => decide (ebits e 4 1 = 1) | _ => false

/-- Orders 3 to 7 of a tile word over its pieces (06 R181, R194; 19 R436). Of several pieces with the same fault the first is
recorded, in the order of rows or elements, data before scale bytes; a halt names the first page without a valid entry, data pages before scale pages; and
within order 7 refusals of data pages come before format limits, and these before refusals of scale pages (DESIGN CHOICE, log entry
13). -/
def State.checkPieces (s : State) (ps : List Piece) (indexed store : Bool) : AOut :=
  match firstOf Piece.misaligned ps with
  | some f => .fault f
  | none =>
    match (firstOf Piece.classBad ps).or (firstOf s.scaleBad ps) with
    | some f => .fault f
    | none =>
      match s.banksAsleep ps with
      | some f => .fault f
      | none =>
        let data := (ps.map Piece.pages).flatten
        let scale := (ps.map s.scalePages).flatten
        match (data ++ scale).find? fun va => decide (s.lookA va = .invalid) with
        | some va => .halt va
        | none =>
          let refuse := fun va => (s.lookA va).refuses store |>.map fun d => mkFault 0x0A d 0 (BitVec.ofNat 64 va)
          match firstOf refuse data with
          | some f => .fault f
          | none =>
            match ps.find? fun p => s.formatBad p indexed store with
            | some p => .fault (mkFault 0x0A 3 0 p.ea)
            | none =>
              match firstOf refuse scale with
              | some f => .fault f
              | none =>
                match if store then s.movingPage (data ++ scale) else none with
                | some va => .park va
                | none => .pass

/-! ## Units (10 R299) -/

/-- The home of a byte of a piece that has passed the checks. -/
def State.pieceHome (s : State) (ea : Dword) : Home :=
  match classify ea with
  | .spad peer off => .spad (s.core.peerId peer) off
  | .virt va => match s.lookA va with | .leaf e pb _ => leafHome e pb va | _ => .host va
  | .bad => .host 0

/-- The home of a scale byte. -/
def State.scaleHome (s : State) (va : Nat) : Home := s.pieceHome (BitVec.ofNat 64 va)

/-- The units of a piece as stored: 4 bytes each from its start and single bytes at its end; one element of an indexed
word is one unit (10 R299). -/
def State.plainUnits (s : State) (p : Piece) (indexed : Bool) : List AUnit :=
  let one := fun k n =>
    let ea := p.ea + BitVec.ofNat 64 k
    (⟨s.pieceHome ea, ea.toNat, n, p.off + k, 0, 0, none, none, false⟩ : AUnit)
  if indexed then [one 0 p.len]
  else
    (List.range (p.len / 4)).map (fun k => one (4 * k) 4) ++
      (List.range (p.len % 4)).map fun k => one (p.len / 4 * 4 + k) 1

/-- The units of a piece on a decoding page: one stored element each, with its scale byte on an MX page. -/
def State.codedUnits (s : State) (p : Piece) : List AUnit :=
  let bits := tagBits p.tag
  let mx := match s.entryAt p with | some e => if tagMx p.tag then some e else none | none => none
  (List.range (p.tlen / 4)).map fun k =>
    let ea := p.ea + BitVec.ofNat 64 (k * bits / 8)
    let scale := mx.map fun e =>
      let va := scaleVa (s.window e) e (8 * p.ea.toNat + k * bits)
      (s.scaleHome va, va)
    ⟨s.pieceHome ea, ea.toNat, max 1 (bits / 8), p.off + 4 * k, 0, p.tag, scale, none, decide (bits = 4 ∧ k % 2 = 1)⟩

/-- The units of the pieces of a tile word, in the order of its elements (06 R182). -/
def State.units (s : State) (ps : List Piece) (indexed : Bool) : List AUnit :=
  (ps.map fun p => if p.tag = 0 then s.plainUnits p indexed else s.codedUnits p).flatten

/-! ## Encoding a store (04 R141, R146, R139) -/

/-- The type of a stored element of a floating-point tag. -/
def tagTy (tag : Nat) : Ty :=
  match tag with
  | 2 | 10 => .f16
  | 3 | 11 => .bf16
  | 4 | 9 | 12 => .e4m3
  | 5 | 13 => .e5m2
  | 8 | 15 => .e2m1
  | _ => .t8

/-- Whether the stores of a tag round stochastically (04 R141). -/
def tagSr (tag : Nat) : Bool := decide (10 ≤ tag)

/-- The rounding of element `e` of a word under a tag, with the generator's states of the word's runs (04 R139). -/
def tagMode (tag : Nat) (gens : List Word32) (e : Nat) : Mode1 :=
  if tagSr tag then
    let n := srCount (tagTy tag)
    .sr (srBits (gens.getD (e / 128) 0) (e % 128) n) n
  else .rne

/-- The stored code of one working-format element of a tag without blocks (04 R141, R146). -/
def encodeTag (tag v : Nat) (mode : Mode1) : Nat :=
  match tag with
  | 1 => v
  | 7 => wrap 8 (satInt 8 (signed 32 v))
  | _ => (encodeFp (tagTy tag) mode true (decodeFp .f32 v)).1

/-- The units of an MX piece with their codes, each block followed by its scale byte (04 R121, R146). -/
def mxUnits (tag : Nat) (gens : List Word32) (g : Nat) (data : Memory) : Nat → List AUnit → List AUnit
  | 0, _ => []
  | n + 1, us =>
    let block := us.take g
    let value := fun u : AUnit => decodeFp .f32 (readLE data u.off 4)
    let s := mxScale (tagTy tag) (block.map value)
    let code := fun u : AUnit =>
      match s with
      | none => 0
      | some k => (encodeFp (tagTy tag) (tagMode tag gens (u.off / 4)) true (mxUnscale (value u) k)).1
    let coded := block.map fun u => { u with data := code u, scale := none }
    let scales := match block.head? with
      | some u => match u.scale with
        | some h => [(⟨h.1, h.2, 1, 0, s.getD 255, 0, none, none, false⟩ : AUnit)]
        | none => []
      | none => []
    coded ++ scales ++ mxUnits tag gens g data n (us.drop g)

/-- The units of one piece of a store with the values they write. -/
def State.storeUnits (s : State) (p : Piece) (indexed : Bool) (gens : List Word32) (data : Memory) : List AUnit :=
  if p.tag = 0 then (s.plainUnits p indexed).map fun u => { u with data := readLE data u.off u.size }
  else
    let us := s.codedUnits p
    match s.entryAt p with
    | some e =>
      if tagMx p.tag then
        let g := (blockShape e).1
        mxUnits p.tag gens g data (us.length / g) us
      else us.map fun u => { u with data := encodeTag p.tag (readLE data u.off 4) (tagMode p.tag gens (u.off / 4)) }
    | none => []

/-- The generator's states before each run of 128 of `n` elements (04 R139). -/
def genRuns (g : Word32) : Nat → List Word32
  | 0 => []
  | n + 1 => lfsrStep g :: genRuns (lfsrStep g) n

/-! ## The tile words -/

/-- The holds and faults of a tile word before its own checks (06 R181 orders 1 and 2, R194, 01 R27, R28). -/
def State.tileFront (s : State) (tops : List TileRef) (holds : List (Option Hold)) : Option WordOut :=
  match needDoms s.core [1, 2] with
  | some f => some (.fault s f)
  | none =>
    match tops.find? s.core.badQueue with
    | some (.queue q) => some (.fault s (mkFault 0x15 q.val 5 0))
    | _ =>
      if s.core.aHalt.isSome || s.core.ea.parked.isSome then some (.hold s plainHold)
      else (holds.findSome? fun h => h).map fun h => .hold s h

/-- A hold at a flag with the fault that a passed stall bound leaves in its place (06 R181). -/
def Hold.before (h : Option Hold) (first : Option FaultRec) : Option Hold := h.map fun h => { h with first := first }

/-- The fault of an indexed word that is certain before its indices are: with aB no multiple of the element size every element is
misaligned; FAULTADDR is then aB. Any other fault or halt waits for the indices, also where no index could spare the word it, so that
the bound that passes raises *stall bound exceeded* (06 R181, R188; DESIGN CHOICE, log entry 13). -/
def State.indexFirst (s : State) (x : AX) : Option FaultRec :=
  let esz : Nat := 2 ^ x.esz.val
  let base := s.core.regs.a[x.ab]
  if base.toNat % esz = 0 then none else some (mkFault 0x0F esz 0 base)

/-- The hold of an indexed word at its index tile. -/
def State.indexHold (s : State) (x : AX) : Option Hold :=
  Hold.before (s.core.tileReadHold x.idx true (stallBound x.stall)) (s.indexFirst x)

/-- The word halts at a page without a valid entry; A_TRANSLATION_HALT takes its number and reports it (06 R194). -/
def State.haltA (s : State) (store : Bool) (va : Nat) : WordOut :=
  let stop : Stop := ⟨none, false, 0x09, if store then 1 else 0, va, 0⟩
  .hold (s.modFocus fun c => { c with aHalt := some stop }) plainHold

/-- The word parks at a page being moved: it holds until an invalidation that covers the page completes (19 R436). -/
def State.parkA (s : State) (va : Nat) : WordOut :=
  .hold (s.modFocus fun c => c.modEng .a fun x => { x with parked := some (va, s.pageBits .a va) }) plainHold

/-- The addresses of the pages that a tile word touches: data pages, then scale pages. -/
def State.touched (s : State) (ps : List Piece) : List Nat := (ps.map Piece.pages).flatten ++ (ps.map s.scalePages).flatten

/-- Bits set in the entry that the checks found for an address, and its translation kept (19 R429, R430). -/
def State.keepFound (s : State) (set va : Nat) (f : Found) : State :=
  match f, s.ctx with
  | .leaf e pb home, some c =>
    let kept : TlbEntry := ⟨c.id, va / 2 ^ pb * 2 ^ pb, pb, e ||| BitVec.ofNat 64 set, home⟩
    { s with
      core := { s.core with tlbA := tlbPut s.core.tlbA 16 kept }
      dev := { s.dev with hbm := markEntry s.dev.hbm home set } }
  | _, _ => s

/-- A, and of a store D, set and the translations kept for every page touched, each in the entry that the checks of the word found for it
(19 R429, R430). -/
def State.touchPages (s : State) (ps : List Piece) (store : Bool) : State :=
  let found := (s.touched ps).map fun va => (va, s.lookA va)
  found.foldl (fun (s : State) x => s.keepFound (if store then 0xC0 else 0x40) x.1 x.2) s

/-- Earlier tile loads to a tile give way to a later write where it covers their bytes (06 R185). -/
def coverBy (t : Fin 32) (us : List AUnit) (a : Access) : Access :=
  let covered := fun i => us.any fun u => decide (u.off ≤ i ∧ i < u.off + u.tileBytes)
  match a.op with
  | .tileLoad t' _ =>
    if t' = t then
      { a with units := a.units.map fun u =>
          { u with data := (List.range u.tileBytes).foldl (fun m i => if covered (u.off + i) then m ||| 2 ^ i else m) u.data } }
    else a
  | _ => a

/-- An access of the A engine. -/
def aAccess (id : Nat) (cls : Cls) (op : AccOp) (us : List AUnit) (pages : List (Nat × Nat)) : Access :=
  ⟨id, .a, cls, 0, op, us, 0, false, pages⟩

/-- A tile load that issues (06 R184, R185, R188). The pages of its units are those of its checks: the translations kept for the pages
of one word can put each other out of the TLB (19 R430, R432). -/
def State.tileLoad (s : State) (cls : Cls) (top : TileRef) (partial' : Bool) (ps : List Piece) (us : List AUnit) : WordOut :=
  let t := s.core.tileTo top
  let pages := s.unitPages .a us
  let (id, s) := (s.touchPages ps false).freshId
  let s := s.modFocus fun c =>
    let c := c.tileWritten .a top !partial'
    { c with accesses := c.accesses.map (coverBy t us) }
  .ok (s.pushAccess (aAccess id cls (.tileLoad t !partial') us pages)) .seq

/-- The elements of a tile store: those of an indexed word, or the words of 4 tile bytes that the rows of another one take (04 R139). -/
def storeElems (ps : List Piece) (indexed : Bool) : Nat :=
  if indexed then ps.length else ps.foldl (fun n p => max n ((p.off + p.tlen + 3) / 4)) 0

/-- A tile store that issues: the tile is captured and encoded at issue, and each unit has the home that its checks found (06
R184, R188; 04 R139, R146; 19 R431). A word with a stochastic element steps the generator for each of its runs of 128 elements,
also one without a stochastic element (DESIGN CHOICE, log entry 38). -/
def State.tileStore (s : State) (cls : Cls) (top : TileRef) (keep : Bool) (ps : List Piece) (indexed : Bool) : WordOut :=
  let data := s.core.tiles.t[s.core.tileFrom top].data
  let gens := if ps.any fun p => tagSr p.tag then genRuns s.core.csr.genA ((storeElems ps indexed + 127) / 128) else []
  let us := (ps.map fun p => s.storeUnits p indexed gens data).flatten
  let pages := s.unitPages .a us
  let (id, s) := (s.touchPages ps true).freshId
  let s := s.modFocus fun c =>
    let c := c.tileTaken .a top keep
    { c with csr := { c.csr with genA := gens.getLastD c.csr.genA } }
  .ok (s.pushAccess (aAccess id cls .tileStore us pages)) .seq

/-- A load of rows (06 R184). -/
def State.rowLoad (s : State) (x : AT) (raw : Bool) : WordOut :=
  let ps := s.rowPieces x raw
  let out := s.checkPieces ps false false
  match s.tileFront [x.tile] [Hold.before (s.core.tileWriteHold .a x.tile (stallBound x.stall)) (out.first false)] with
  | some o => o
  | none =>
    match out with
    | .fault f => .fault s f
    | .halt va => s.haltA false va
    | .park va => s.parkA va
    | .pass => s.tileLoad x.cls x.tile x.keep ps (s.units ps false)

/-- TLD (06 R184). -/
def execTld (x : AT) (s : State) : Result := s.word .a (.tld x) fun s => s.rowLoad x false

/-- TLD.RAW (06 R184). -/
def execTldRaw (x : AT) (s : State) : Result := s.word .a (.tldRaw x) fun s => s.rowLoad x true

/-- TST (06 R184). -/
def execTst (x : AT) (s : State) : Result :=
  s.word .a (.tst x) fun s =>
    let ps := s.rowPieces x false
    let out := s.checkPieces ps false true
    match s.tileFront [x.tile] [Hold.before (s.core.tileReadHold x.tile x.keep (stallBound x.stall)) (out.first true)] with
    | some o => o
    | none =>
      match out with
      | .fault f => .fault s f
      | .halt va => s.haltA true va
      | .park va => s.parkA va
      | .pass => s.tileStore x.cls x.tile x.keep ps false

/-- TLDX: with two queues invalid DETAIL names that of TOP, and with two tiles that hold the index tile comes first (06 R188; DESIGN
CHOICE, log entry 13). -/
def execTldx (x : AX) (s : State) : Result :=
  s.word .a (.tldx x) fun s =>
    let ps := s.elemPieces x
    let out := s.checkPieces ps true false
    match s.tileFront [x.tile, x.idx] [s.indexHold x,
        Hold.before (s.core.tileWriteHold .a x.tile (stallBound x.stall)) (out.first false)] with
    | some o => o
    | none =>
      match out with
      | .fault f => .fault s f
      | .halt va => s.haltA false va
      | .park va => s.parkA va
      | .pass => s.tileLoad x.cls x.tile x.keep ps (s.units ps true)

/-- TSTX: its queues and holds as TLDX (06 R188; DESIGN CHOICE, log entry 13). -/
def execTstx (x : AX) (s : State) : Result :=
  s.word .a (.tstx x) fun s =>
    let ps := s.elemPieces x
    let out := s.checkPieces ps true true
    match s.tileFront [x.tile, x.idx] [s.indexHold x,
        Hold.before (s.core.tileReadHold x.tile x.keep (stallBound x.stall)) (out.first true)] with
    | some o => o
    | none =>
      match out with
      | .fault f => .fault s f
      | .halt va => s.haltA true va
      | .park va => s.parkA va
      | .pass => s.tileStore x.cls x.tile x.keep ps true

/-! ## The other words -/

/-- A word that needs d.a alone (06 R179). -/
def State.aWord (s : State) (i : Instr) (k : State → WordOut) : Result :=
  s.word .a i fun s =>
    match needDoms s.core [2] with
    | some f => .fault s f
    | none => k s

/-- APF: a request that writes no state (06 R187). -/
def execApf (ab stride : ANo) (rows : Fin 32) (rbytes : Fin 4096) (off : BitVec 8) (s : State) : Result :=
  s.aWord (.apf ab stride rows rbytes off) fun s => .ok s .seq

/-- The tiles of a ring. -/
def ringHas (base len t : Nat) : Bool := decide (base ≤ t ∧ t < base + len)

/-- The ARG of *queue definition*, the lowest where several apply (01 R32, 17 R391; DESIGN CHOICE, log entry 42). -/
def Core.qdefBad (c : Core) (q : Fin 8) (base len : Nat) : Option Nat :=
  if 32 < base + len then some 1
  else if len = 0 then some 2
  else
    let others := (List.range 8).any fun k =>
      let d := vget c.tiles.tq k ⟨false, 0, 0, 0, 0⟩
      decide (k ≠ q.val) && d.valid && decide (d.base < base + len ∧ base < d.base + d.len)
    let d := c.tiles.tq[q]
    let full := (List.range 32).any fun t =>
      ringHas d.base d.len t && decide ((vget c.tiles.t t (Coupled.reset [])).seen ≠ .empty)
    if others then some 3 else if d.valid && full then some 4 else none

/-- QDEF: takes effect at the end of its ref cycle (06 R189, 01 R32). -/
def execQdef (q : Fin 8) (base : Fin 32) (len : BitVec 6) (s : State) : Result :=
  s.word .a (.qdef q base len) fun s =>
    match needDoms s.core [1, 2] with
    | some f => .fault s f
    | none =>
      match s.core.qdefBad q base.val len.toNat with
      | some arg => .fault s (mkFault 0x15 q.val arg 0)
      | none =>
        let d : TQ := ⟨true, 0, 0, len.toNat, base.val⟩
        .ok (s.modFocus fun c => { c with ctl := { c.ctl with atEnd := c.ctl.atEnd ++ [.qdef q d] } }) .seq

/-- APUSH (06 R190). -/
def execApush (w : WNo) (a : ANo) (stall : Stall) (s : State) : Result :=
  s.aWord (.apush w a stall) fun s => s.putWord .a w s.core.regs.a[a] stall

/-- An address register written at latency 1 (06 R178). -/
def State.landA (s : State) (a : ANo) (v : Dword) : State := s.modFocus fun c => c.land .a (.areg a) (.word v) 1

/-- APOP (06 R190). -/
def execApop (a : ANo) (w : WNo) (stall : Stall) (s : State) : Result :=
  s.aWord (.apop a w stall) fun s => s.takeWord .a w false (stallBound stall) fun v s => .ok (s.landA a v) .seq

/-- AADD (06 R190). -/
def execAadd (d a b : ANo) (s : State) : Result :=
  s.aWord (.aadd d a b) fun s => .ok (s.landA d (s.core.regs.a[a] + s.core.regs.a[b])) .seq

/-- AADDI (06 R190). -/
def execAaddi (d a : ANo) (imm : BitVec 32) (s : State) : Result :=
  s.aWord (.aaddi d a imm) fun s => .ok (s.landA d (s.core.regs.a[a] + imm.signExtend 64)) .seq

/-- ALOOP (06 R191). -/
def execAloop (lvl : Fin 4) (count : LoopCount) (len : BitVec 12) (s : State) : Result :=
  s.aWord (.aloop lvl count len) fun s => s.loopWord .a lvl count len

/-- CKWAIT of the A stream, latency 1 (06 R192). -/
def execACkwait (d : ANo) (ck : CkNo) (stall : Stall) (s : State) : Result :=
  s.aWord (.aCkwait d ck stall) fun s => s.caskWait ck stall fun v s => s.landA d v

/-- CKREL of the A stream (06 R192). -/
def execACkrel (ck : CkNo) (s : State) : Result := s.aWord (.aCkrel ck) fun s => s.caskRelease ck

/-- AFENCE (06 R193). -/
def execAfence (mask : BitVec 16) (s : State) : Result :=
  s.aWord (.afence mask) fun s => if s.core.pendingIn .a mask then .hold s plainHold else .ok s .seq

/-- AJOIN (06 R193). -/
def execAjoin (s : State) : Result := s.aWord .ajoin fun s => s.joinEngine .a

/-- ANOP (06 R193). -/
def execAnop (s : State) : Result := s.aWord .anop fun s => .ok s .seq

end Sys2Proof.Machine
end

