-- ==== Sys2Proof/Machine/CMem.lean ====
section
/-! DEFINITION. The loads, stores, long loads and stores, atomics and the fence of the C stream (05 R150–R163).

A word holds first; its state-dependent faults are found in the order of R150 in the cycle in which it would issue
(DEDUCED, log entry 13). -/

namespace Sys2Proof.Machine

/-- *Misaligned* (05 R150 order 1). -/
def misaligned (ea : Dword) (size : Nat) : Option FaultRec :=
  if ea.toNat % size = 0 then none else some (mkFault 0x0F size 0 ea)

/-- *Protection* of an address class (05 R150 order 2). -/
def classFault (ea : Dword) : FaultRec := mkFault 0x0A 1 0 ea

/-- Where a C access goes, once its faults and holds are past. -/
inductive CPlace where
  | at_ (s : State) (h : Home)
  | stop (o : WordOut)

/-- The place of a C access at an address of the scratchpad or virtual class (05 R150 orders 1 to 5, R152; 10 R287;
19 R434, R436). `virt` says whether the word accepts virtual addresses. A word that has parked holds until an invalidation
that covers its page completes. -/
def State.cPlace (s : State) (ea : Dword) (size : Nat) (kind : Kind) (virt : Bool) : CPlace :=
  match misaligned ea size with
  | some f => .stop (.fault s f)
  | none =>
    match classify ea with
    | .bad => .stop (.fault s (classFault ea))
    | .spad peer off =>
      match s.touchSpad peer off with
      | some f => .stop (.fault s f)
      | none => .at_ s (.spad (s.core.peerId peer) off)
    | .virt va =>
      if !virt then .stop (.fault s (classFault ea))
      else if s.core.ec.parked.any (fun p => decide (p.1 = va)) then .stop (.hold s plainHold)
      else
        match s.translate .c va kind with
        | (.ok h _, s') => .at_ s' h
        | (.invalid, s') => .stop (.fault s' (mkFault 0x09 kind.num 0 ea))
        | (.forbidden d, s') => .stop (.fault s' (mkFault 0x0A d 0 ea))
        | (.parked, s') => .stop (.hold (s'.modFocus fun c => c.modEng .c fun x => { x with parked := some (va, s'.pageBits .c va) }) plainHold)

/-- Whether a C access of the scratchpad must hold behind earlier C accesses of its class to virtual addresses, and a
release behind earlier C accesses of its run (10 R291). -/
def State.spadHolds (s : State) (ea : Dword) (cls : Cls) (run : BitVec 16) : Bool :=
  match classify ea with
  | .spad _ _ => s.core.virtPending cls || (decide (run ≠ 0) && s.core.pendingIn .c run)
  | _ => false

/-- An access of one unit by the C engine. -/
def cAccess (id : Nat) (cls : Cls) (run : BitVec 16) (op : AccOp) (u : AUnit) (fixed : Bool) : Access where
  id := id
  eng := .c
  cls := cls
  run := run
  op := op
  units := [u]
  age := 0
  fixed := fixed
  pages := []

/-- A scratchpad load: its value lands at latency 5 (05 R156, R157). -/
def State.load (s : State) (i : Instr) (d : SReg) (ea : Dword) (size : Nat) (sg : Bool) (cls : Cls) (run : BitVec 16) :
    Result :=
  s.word .c i fun s =>
    if s.spadHolds ea cls 0 then .hold s plainHold
    else
      match s.cPlace ea size .read false with
      | .stop o => o
      | .at_ s h =>
        let (id, s) := s.freshId
        let s := s.enqueue (cAccess id cls run (.load size sg) (unitAt h ea.toNat size 0) true)
        .ok (s.modFocus fun c => c.land .c (c.destS d) (.access id) 5) .seq

/-- A store of the low `size` bytes of a value (05 R156, R157, R159). -/
def State.store (s : State) (i : Instr) (v : Dword) (ea : Dword) (size : Nat) (virt : Bool) (cls : Cls)
    (run : BitVec 16) : Result :=
  s.word .c i fun s =>
    if s.spadHolds ea cls run then .hold s plainHold
    else
      match s.cPlace ea size .write virt with
      | .stop o => o
      | .at_ s h =>
        let (id, s) := s.freshId
        let fixed := match h with | .spad _ _ => true | _ => false
        let data := v.toNat % 2 ^ (8 * size)
        .ok (s.enqueue (cAccess id cls run .store (unitAt h ea.toNat size data) fixed)) .seq

/-- The effective address of layout CM (05 R156). -/
def State.cmAddr (s : State) (base : SReg) (off : BitVec 8) (size : Nat) : Dword :=
  s.core.readS base + off.signExtend 64 * BitVec.ofNat 64 size

/-- LD.B (05 R156). -/
def execLdB (d base : SReg) (off : BitVec 8) (cls : Cls) (s : State) : Result :=
  s.load (.ldB d base off cls) d (s.cmAddr base off 1) 1 true cls 0

/-- LD.BU (05 R156). -/
def execLdBu (d base : SReg) (off : BitVec 8) (cls : Cls) (s : State) : Result :=
  s.load (.ldBu d base off cls) d (s.cmAddr base off 1) 1 false cls 0

/-- LD.H (05 R156). -/
def execLdH (d base : SReg) (off : BitVec 8) (cls : Cls) (s : State) : Result :=
  s.load (.ldH d base off cls) d (s.cmAddr base off 2) 2 true cls 0

/-- LD.HU (05 R156). -/
def execLdHu (d base : SReg) (off : BitVec 8) (cls : Cls) (s : State) : Result :=
  s.load (.ldHu d base off cls) d (s.cmAddr base off 2) 2 false cls 0

/-- LD.W (05 R156). -/
def execLdW (d base : SReg) (off : BitVec 8) (cls : Cls) (s : State) : Result :=
  s.load (.ldW d base off cls) d (s.cmAddr base off 4) 4 true cls 0

/-- LD.WU (05 R156). -/
def execLdWu (d base : SReg) (off : BitVec 8) (cls : Cls) (s : State) : Result :=
  s.load (.ldWu d base off cls) d (s.cmAddr base off 4) 4 false cls 0

/-- LD.D (05 R156). -/
def execLdD (d base : SReg) (off : BitVec 8) (cls : Cls) (s : State) : Result :=
  s.load (.ldD d base off cls) d (s.cmAddr base off 8) 8 false cls 0

/-- ST.B (05 R156). -/
def execStB (d base : SReg) (off : BitVec 8) (cls : Cls) (s : State) : Result :=
  s.store (.stB d base off cls) (s.core.readS d) (s.cmAddr base off 1) 1 false cls 0

/-- ST.H (05 R156). -/
def execStH (d base : SReg) (off : BitVec 8) (cls : Cls) (s : State) : Result :=
  s.store (.stH d base off cls) (s.core.readS d) (s.cmAddr base off 2) 2 false cls 0

/-- ST.W (05 R156). -/
def execStW (d base : SReg) (off : BitVec 8) (cls : Cls) (s : State) : Result :=
  s.store (.stW d base off cls) (s.core.readS d) (s.cmAddr base off 4) 4 false cls 0

/-- ST.D (05 R156). -/
def execStD (d base : SReg) (off : BitVec 8) (cls : Cls) (s : State) : Result :=
  s.store (.stD d base off cls) (s.core.readS d) (s.cmAddr base off 8) 8 false cls 0

/-- LD.ACQ.W (05 R157). -/
def execLdAcqW (d base : SReg) (run : Orng) (cls : Cls) (s : State) : Result :=
  s.load (.ldAcqW d base run cls) d (s.core.readS base) 4 true cls run.mask

/-- LD.ACQ.D (05 R157). -/
def execLdAcqD (d base : SReg) (run : Orng) (cls : Cls) (s : State) : Result :=
  s.load (.ldAcqD d base run cls) d (s.core.readS base) 8 false cls run.mask

/-- ST.REL.W (05 R157). -/
def execStRelW (d base : SReg) (run : Orng) (cls : Cls) (s : State) : Result :=
  s.store (.stRelW d base run cls) (s.core.readS d) (s.core.readS base) 4 false cls run.mask

/-- ST.REL.D (05 R157). -/
def execStRelD (d base : SReg) (run : Orng) (cls : Cls) (s : State) : Result :=
  s.store (.stRelD d base run cls) (s.core.readS d) (s.core.readS base) 8 false cls run.mask

/-- STW (05 R159). -/
def execStw (d base : SReg) (off : BitVec 8) (cls : Cls) (s : State) : Result :=
  s.store (.stw d base off cls) (s.core.readS d) (s.cmAddr base off 8) 8 true cls 0

/-- STW.REL (05 R159). -/
def execStwRel (d base : SReg) (run : Orng) (cls : Cls) (s : State) : Result :=
  s.store (.stwRel d base run cls) (s.core.readS d) (s.core.readS base) 8 true cls run.mask

/-- LDW: holds at the flag of wD, then sets it filling; full when the data arrive (05 R158, 01 R27). -/
def execLdw (w : WNo) (base : SReg) (stall : Stall) (cls : Cls) (s : State) : Result :=
  s.word .c (.ldw w base stall cls) fun s =>
    let r := s.core.regs.w[w]
    let ea := s.core.readS base
    if !r.canWrite .c then
      let first := match s.cPlace ea 8 .read true with | .stop (.fault _ f) => some f | _ => none
      .hold s (mkHold (0x40 + w.val) (r.writeProducer .c) (stallBound stall) first)
    else if s.spadHolds ea cls 0 then .hold s plainHold
    else
      match s.cPlace ea 8 .read true with
      | .stop o => o
      | .at_ s h =>
        let (id, s) := s.freshId
        let s := s.enqueue (cAccess id cls 0 (.ldw w) (unitAt h ea.toNat 8 0) false)
        .ok (s.modFocus fun c => c.modW w fun r => r.beginWrite .c) .seq

/-- An atomic of the C engine (05 R160–R162): on the scratchpad its old value lands at latency 5; on a virtual address
the word holds until the location has performed it, and then issues. Its registers are read in the cycle in which the word
first comes to issue and its access is sent (DESIGN CHOICE, log entry 35). -/
def State.atomic (s : State) (i : Instr) (d : SReg) (ea : Dword) (fn size : Nat) (operand compare : Dword) (cls : Cls) :
    Result :=
  s.word .c i fun s =>
    match s.core.ctl.amo with
    | some (_, some old) =>
      let s := s.modFocus fun c => { c with ctl := { c.ctl with amo := none } }
      .ok (s.landS d old 5) .seq
    | some (_, none) => .hold s plainHold
    | none =>
      if s.spadHolds ea cls 0 then .hold s plainHold
      else
        match s.cPlace ea size .atomic true with
        | .stop o => o
        | .at_ s' h =>
          let detail := if fn = casFn then (if size = 4 then 0 else 1) else fn
          if !s'.dev.amoSupported h fn then .fault s (mkFault 0x0E detail 0 ea)
          else
            let (id, s) := s'.freshId
            let op : AccOp := .amo fn size operand compare
            match h with
            | .spad _ _ =>
              let s := s.enqueue (cAccess id cls 0 op (unitAt h ea.toNat size 0) true)
              .ok (s.modFocus fun c => c.land .c (c.destS d) (.access id) 5) .seq
            | _ =>
              let s := s.enqueue (cAccess id cls 0 op (unitAt h ea.toNat size 0) false)
              .hold (s.modFocus fun c => { c with ctl := { c.ctl with amo := some (id, none) } }) plainHold

/-- AMO.ADD.W (05 R160). -/
def execAmoAddW (d a b : SReg) (cls : Cls) (s : State) : Result :=
  s.atomic (.amoAddW d a b cls) d (s.core.readS a) 0 4 (s.core.readS b) 0 cls

/-- AMO.AND.W (05 R160). -/
def execAmoAndW (d a b : SReg) (cls : Cls) (s : State) : Result :=
  s.atomic (.amoAndW d a b cls) d (s.core.readS a) 1 4 (s.core.readS b) 0 cls

/-- AMO.OR.W (05 R160). -/
def execAmoOrW (d a b : SReg) (cls : Cls) (s : State) : Result :=
  s.atomic (.amoOrW d a b cls) d (s.core.readS a) 2 4 (s.core.readS b) 0 cls

/-- AMO.XOR.W (05 R160). -/
def execAmoXorW (d a b : SReg) (cls : Cls) (s : State) : Result :=
  s.atomic (.amoXorW d a b cls) d (s.core.readS a) 3 4 (s.core.readS b) 0 cls

/-- AMO.SMIN.W (05 R160). -/
def execAmoSminW (d a b : SReg) (cls : Cls) (s : State) : Result :=
  s.atomic (.amoSminW d a b cls) d (s.core.readS a) 4 4 (s.core.readS b) 0 cls

/-- AMO.SMAX.W (05 R160). -/
def execAmoSmaxW (d a b : SReg) (cls : Cls) (s : State) : Result :=
  s.atomic (.amoSmaxW d a b cls) d (s.core.readS a) 5 4 (s.core.readS b) 0 cls

/-- AMO.UMIN.W (05 R160). -/
def execAmoUminW (d a b : SReg) (cls : Cls) (s : State) : Result :=
  s.atomic (.amoUminW d a b cls) d (s.core.readS a) 6 4 (s.core.readS b) 0 cls

/-- AMO.UMAX.W (05 R160). -/
def execAmoUmaxW (d a b : SReg) (cls : Cls) (s : State) : Result :=
  s.atomic (.amoUmaxW d a b cls) d (s.core.readS a) 7 4 (s.core.readS b) 0 cls

/-- AMO.SWAP.W (05 R160). -/
def execAmoSwapW (d a b : SReg) (cls : Cls) (s : State) : Result :=
  s.atomic (.amoSwapW d a b cls) d (s.core.readS a) 8 4 (s.core.readS b) 0 cls

/-- AMO.FADD.W (05 R160). -/
def execAmoFaddW (d a b : SReg) (cls : Cls) (s : State) : Result :=
  s.atomic (.amoFaddW d a b cls) d (s.core.readS a) 9 4 (s.core.readS b) 0 cls

/-- AMO.BFADD.W (05 R160). -/
def execAmoBfaddW (d a b : SReg) (cls : Cls) (s : State) : Result :=
  s.atomic (.amoBfaddW d a b cls) d (s.core.readS a) 10 4 (s.core.readS b) 0 cls

/-- AMO.ADD.D (05 R160). -/
def execAmoAddD (d a b : SReg) (cls : Cls) (s : State) : Result :=
  s.atomic (.amoAddD d a b cls) d (s.core.readS a) 0 8 (s.core.readS b) 0 cls

/-- AMO.AND.D (05 R160). -/
def execAmoAndD (d a b : SReg) (cls : Cls) (s : State) : Result :=
  s.atomic (.amoAndD d a b cls) d (s.core.readS a) 1 8 (s.core.readS b) 0 cls

/-- AMO.OR.D (05 R160). -/
def execAmoOrD (d a b : SReg) (cls : Cls) (s : State) : Result :=
  s.atomic (.amoOrD d a b cls) d (s.core.readS a) 2 8 (s.core.readS b) 0 cls

/-- AMO.XOR.D (05 R160). -/
def execAmoXorD (d a b : SReg) (cls : Cls) (s : State) : Result :=
  s.atomic (.amoXorD d a b cls) d (s.core.readS a) 3 8 (s.core.readS b) 0 cls

/-- AMO.SMIN.D (05 R160). -/
def execAmoSminD (d a b : SReg) (cls : Cls) (s : State) : Result :=
  s.atomic (.amoSminD d a b cls) d (s.core.readS a) 4 8 (s.core.readS b) 0 cls

/-- AMO.SMAX.D (05 R160). -/
def execAmoSmaxD (d a b : SReg) (cls : Cls) (s : State) : Result :=
  s.atomic (.amoSmaxD d a b cls) d (s.core.readS a) 5 8 (s.core.readS b) 0 cls

/-- AMO.UMIN.D (05 R160). -/
def execAmoUminD (d a b : SReg) (cls : Cls) (s : State) : Result :=
  s.atomic (.amoUminD d a b cls) d (s.core.readS a) 6 8 (s.core.readS b) 0 cls

/-- AMO.UMAX.D (05 R160). -/
def execAmoUmaxD (d a b : SReg) (cls : Cls) (s : State) : Result :=
  s.atomic (.amoUmaxD d a b cls) d (s.core.readS a) 7 8 (s.core.readS b) 0 cls

/-- AMO.SWAP.D (05 R160). -/
def execAmoSwapD (d a b : SReg) (cls : Cls) (s : State) : Result :=
  s.atomic (.amoSwapD d a b cls) d (s.core.readS a) 8 8 (s.core.readS b) 0 cls

/-- CAS.W (05 R161). -/
def execCasW (d a b : SReg) (cls : Cls) (s : State) : Result :=
  s.atomic (.casW d a b cls) d (s.core.readS a) casFn 4 (s.core.readS b) (s.core.readS d) cls

/-- CAS.D (05 R161). -/
def execCasD (d a b : SReg) (cls : Cls) (s : State) : Result :=
  s.atomic (.casD d a b cls) d (s.core.readS a) casFn 8 (s.core.readS b) (s.core.readS d) cls

/-- FENCE.C: holds until every earlier C access in a masked class has performed (05 R163). -/
def execFenceC (mask : BitVec 16) (s : State) : Result :=
  s.word .c (.fenceC mask) fun s => if s.core.pendingIn .c mask then .hold s plainHold else .ok s .seq

end Sys2Proof.Machine
end

