-- ==== Sys2Proof/Machine/Flags.lean ====
section
/-! DEFINITION. The flag computations: FPSTATUS (01 R12), the resolved rounding mode (07 R199), and the flags of
conversions (04 R136, 07 R209, 08 R247). -/

namespace Sys2Proof.Machine

/-- The mode of a rounding field that is not `sr`; `dyn` selects FPSTATUS.RM at issue (07 R199). -/
def Core.mode1 (c : Core) (rm : Rm) : Mode1 :=
  match rm with
  | .rne => .rne
  | .rtz => .rtz
  | .rup => .rup
  | .rdn => .rdn
  | _ => Mode1.ofCode (c.csr.fpstatus.toNat / 32)

/-- The mode of element `e` of a converted vector under a generator's state (04 R130, R139). -/
def srMode (g : Word32) (e : Nat) (t : Ty) : Mode1 := .sr (srBits g (e % 128) (srCount t)) (srCount t)

/-- Whether a mode rounds down. -/
def Mode1.down : Mode1 → Bool
  | .rdn => true
  | _ => false

/-- Whether a finite magnitude into a type is tiny (04 R136). -/
def tinyInto (t : Ty) (m : Nat) (e : Int) (r : Rounded) : Bool :=
  match t with
  | .t8 => magLt m e 1 (-11)
  | _ => r.tiny

/-- The code of a value converted into a floating-point type, with the flags of a VCVT (07 R209): saturation sets NX
and never OF; an overflow of a format that does not saturate sets OF and NX. -/
def convertFp (t : Ty) (mode : Mode1) (sat : Bool) (x : Num) : Nat × Flags :=
  let (code, r) := encodeFp t mode sat x
  match x with
  | .nan s => (code, flagIf s fNV)
  | .inf _ =>
    match t with
    | .e4m3 => (code, if sat then fNX else fNV)
    | .e5m2 => (code, flagIf sat fNX)
    | .e2m1 => (code, fNX)
    | _ => (code, 0)
  | .fin neg m e =>
    if m = 0 then (code, 0)
    else
      let saturates := match (gridOf t sat).ovf with | .sat => true | _ => false
      let ovf := !saturates && (r.ovf || beyond (gridOf t sat) mode neg m e)
      (code, flagIf r.inexact fNX ||| flagIf ovf fOF ||| flagIf (tinyInto t m e r && r.inexact) fUF)

/-- A value truncated toward zero and saturated into a signed integer of `w` bits (07 R209): NV for a NaN or where
saturation changes the value, NX where truncation drops a fraction. -/
def convertInt (w : Nat) (x : Num) : Int × Flags :=
  match x with
  | .nan _ => (0, fNV)
  | .inf neg => (if neg then -(2 ^ (w - 1)) else 2 ^ (w - 1) - 1, fNV)
  | .fin neg m e =>
    let t := truncNum neg m e
    let s := satInt w t
    (s, flagIf (decide (s ≠ t)) fNV ||| flagIf (decide (e < 0) && decide (m % 2 ^ (-e).toNat ≠ 0)) fNX)

end Sys2Proof.Machine
end

