-- ==== Sys2Proof/Machine/VStream.lean ====
section
/-! DEFINITION. The words of the V stream (07 R195–R225). -/

namespace Sys2Proof.Machine

/-! ## Lanes (07 R197, R198) -/

/-- A lane of a vector register. -/
def Core.lane (c : Core) (v : VNo) (i : Nat) : Word32 := vget c.vec.v[v] i 0

/-- The bits a type reads in a lane (07 R197). -/
def laneCode (ty : Ty) (x : Word32) : Nat := x.toNat % 2 ^ ty.width

/-- The value of a lane of a floating-point type. -/
def laneNum (ty : Ty) (x : Word32) : Num := decodeFp ty (laneCode ty x)

/-- The value of a lane of an integer type. -/
def laneInt (ty : Ty) (x : Word32) : Int := signed ty.width x.toNat

/-- A code written to a lane (07 R197). -/
def toLane (code : Nat) : Word32 := BitVec.ofNat 32 code

/-- An integer result of a type, wrapped and sign-extended to the lane (07 R197). -/
def intLane (ty : Ty) (v : Int) : Word32 := BitVec.ofInt 32 (signed ty.width (wrap ty.width v))

/-- The lanes and the flags of the enabled ones (07 R198, R199). -/
def perLane (en : Mask) (f : Nat → Word32 × Flags) : Vector Word32 128 × Flags :=
  let rs := (List.range 128).map fun i => if en.getLsbD i then f i else (0, 0)
  (vof 128 fun i => (rs.getD i (0, 0)).1, rs.foldl (fun a r => a ||| r.2) 0)

/-- The mask and the flags of the enabled lanes. -/
def perBit (en : Mask) (f : Nat → Bool × Flags) : Mask × Flags :=
  (List.range 128).foldl (fun a i =>
    if en.getLsbD i then
      let r := f i
      (if r.1 then a.1 ||| BitVec.ofNat 128 (2 ^ i) else a.1, a.2 ||| r.2)
    else a) (0, 0)

/-! ## The shape of a V word -/

/-- A V word: its domains (07 R196, R200), then what it does. -/
def State.vWord (s : State) (i : Instr) (doms : List Nat) (k : State → WordOut) : Result :=
  s.word .v i fun s =>
    match needDoms s.core doms with
    | some f => .fault s f
    | none => k s

/-- A result of 128 lanes on its way. -/
def State.landV (s : State) (vd : VNo) (en : Mask) (r : Vector Word32 128 × Flags) (lat : Nat) : State :=
  s.modFocus fun c => c.land .v (.vreg vd en) (.lanes r.1) lat r.2

/-- A V word whose result is computed lane by lane. -/
def State.lanes (s : State) (i : Instr) (mask : MNo) (vd : VNo) (lat : Nat) (f : Core → Nat → Word32 × Flags) : Result :=
  s.vWord i [3] fun s =>
    let en := s.core.readM mask
    .ok (s.landV vd en (perLane en (f s.core)) lat) .seq

/-- A V word whose result is a mask (07 R198, R204, R223). -/
def State.maskWord (s : State) (i : Instr) (mask md : MNo) (lat : Nat) (f : Core → Nat → Bool × Flags) : Result :=
  s.vWord i [3] fun s =>
    let en := s.core.readM mask
    let r := perBit en (f s.core)
    .ok (s.modFocus fun c => c.land .v (.mreg md en) (.mask r.1) lat r.2) .seq

/-- The latency of a word of FP and INT types (07 R201). -/
def vLat (ty : Ty) : Nat := if ty.fp then 4 else 2

/-! ## Arithmetic (07 R202, R203) -/

/-- An exact value rounded into a type, with the flags `f` of its operation. -/
def roundLane (ty : Ty) (mode : Mode1) (r : Num × Flags) : Word32 × Flags :=
  let (c, g) := roundFp ty mode r.1
  (toLane c, r.2 ||| g)

/-- The lesser or greater of two codes (07 R202). -/
def minMaxLane (ty : Ty) (max : Bool) (x y : Word32) : Word32 × Flags :=
  if ty.fp then
    let a := laneNum ty x
    let b := laneNum ty y
    if a.isNaN || b.isNaN then (toLane (defaultNaN ty), flagIf (a.isSig || b.isSig) fNV)
    else if numLt (if max then a else b) (if max then b else a) then (toLane (laneCode ty y), 0)
    else (toLane (laneCode ty x), 0)
  else
    let a := laneInt ty x
    let b := laneInt ty y
    (intLane ty (if max then (if a < b then b else a) else (if b < a then b else a)), 0)

/-- The sign of a code cleared or inverted; a NaN gives the default NaN (07 R202). -/
def signLane (ty : Ty) (abs : Bool) (x : Word32) : Word32 × Flags :=
  if ty.fp then
    let c := laneCode ty x
    let half := 2 ^ (ty.width - 1)
    if (laneNum ty x).isNaN then (toLane (defaultNaN ty), 0)
    else (toLane (if abs then c % half else (c + half) % (2 * half)), 0)
  else
    let a := laneInt ty x
    (intLane ty (if abs then a.natAbs else -a), 0)

/-- The sum of two lanes. -/
def addLane (ty : Ty) (mode : Mode1) (x y : Word32) : Word32 × Flags :=
  if ty.fp then roundLane ty mode (numAdd mode.down (laneNum ty x) (laneNum ty y))
  else (intLane ty (laneInt ty x + laneInt ty y), 0)

/-- The difference of two lanes. -/
def subLane (ty : Ty) (mode : Mode1) (x y : Word32) : Word32 × Flags :=
  if ty.fp then roundLane ty mode (numAdd mode.down (laneNum ty x) (laneNum ty y).neg)
  else (intLane ty (laneInt ty x - laneInt ty y), 0)

/-- The product of two lanes. -/
def mulLane (ty : Ty) (mode : Mode1) (x y : Word32) : Word32 × Flags :=
  if ty.fp then roundLane ty mode (numMul (laneNum ty x) (laneNum ty y))
  else (intLane ty (laneInt ty x * laneInt ty y), 0)

/-- (±a) · b + (±c), rounded once (07 R202). -/
def fmaLane (ty : Ty) (mode : Mode1) (negA negC : Bool) (x y z : Word32) : Word32 × Flags :=
  let a := laneNum ty x
  let c := laneNum ty z
  roundLane ty mode (numFma mode.down (if negA then a.neg else a) (laneNum ty y) (if negC then c.neg else c))

/-- VADD (07 R202). -/
def execVadd (ty : Ty) (mask : MNo) (rm : Rm) (vd va vb : VNo) (s : State) : Result :=
  s.lanes (.vadd ty mask rm vd va vb) mask vd (vLat ty) fun c i => addLane ty (c.mode1 rm) (c.lane va i) (c.lane vb i)

/-- VSUB (07 R202). -/
def execVsub (ty : Ty) (mask : MNo) (rm : Rm) (vd va vb : VNo) (s : State) : Result :=
  s.lanes (.vsub ty mask rm vd va vb) mask vd (vLat ty) fun c i => subLane ty (c.mode1 rm) (c.lane va i) (c.lane vb i)

/-- VMUL (07 R202). -/
def execVmul (ty : Ty) (mask : MNo) (rm : Rm) (vd va vb : VNo) (s : State) : Result :=
  s.lanes (.vmul ty mask rm vd va vb) mask vd (vLat ty) fun c i => mulLane ty (c.mode1 rm) (c.lane va i) (c.lane vb i)

/-- VFMA (07 R202). -/
def execVfma (ty : Ty) (mask : MNo) (rm : Rm) (vd va vb vc : VNo) (s : State) : Result :=
  s.lanes (.vfma ty mask rm vd va vb vc) mask vd 5 fun c i =>
    fmaLane ty (c.mode1 rm) false false (c.lane va i) (c.lane vb i) (c.lane vc i)

/-- VFMS (07 R202). -/
def execVfms (ty : Ty) (mask : MNo) (rm : Rm) (vd va vb vc : VNo) (s : State) : Result :=
  s.lanes (.vfms ty mask rm vd va vb vc) mask vd 5 fun c i =>
    fmaLane ty (c.mode1 rm) false true (c.lane va i) (c.lane vb i) (c.lane vc i)

/-- VNFMA (07 R202). -/
def execVnfma (ty : Ty) (mask : MNo) (rm : Rm) (vd va vb vc : VNo) (s : State) : Result :=
  s.lanes (.vnfma ty mask rm vd va vb vc) mask vd 5 fun c i =>
    fmaLane ty (c.mode1 rm) true false (c.lane va i) (c.lane vb i) (c.lane vc i)

/-- VMIN (07 R202). -/
def execVmin (ty : Ty) (mask : MNo) (rm : Rm) (vd va vb : VNo) (s : State) : Result :=
  s.lanes (.vmin ty mask rm vd va vb) mask vd (vLat ty) fun c i => minMaxLane ty false (c.lane va i) (c.lane vb i)

/-- VMAX (07 R202). -/
def execVmax (ty : Ty) (mask : MNo) (rm : Rm) (vd va vb : VNo) (s : State) : Result :=
  s.lanes (.vmax ty mask rm vd va vb) mask vd (vLat ty) fun c i => minMaxLane ty true (c.lane va i) (c.lane vb i)

/-- VABS (07 R202). -/
def execVabs (ty : Ty) (mask : MNo) (rm : Rm) (vd va : VNo) (s : State) : Result :=
  s.lanes (.vabs ty mask rm vd va) mask vd (vLat ty) fun c i => signLane ty true (c.lane va i)

/-- VNEG (07 R202). -/
def execVneg (ty : Ty) (mask : MNo) (rm : Rm) (vd va : VNo) (s : State) : Result :=
  s.lanes (.vneg ty mask rm vd va) mask vd (vLat ty) fun c i => signLane ty false (c.lane va i)

/-- VADDI (07 R203). -/
def execVaddi (ty : Ty) (mask : MNo) (rm : Rm) (vd va : VNo) (imm : BitVec 32) (s : State) : Result :=
  s.lanes (.vaddi ty mask rm vd va imm) mask vd (vLat ty) fun c i => addLane ty (c.mode1 rm) (c.lane va i) imm

/-- VMOVI (07 R203). -/
def execVmovi (mask : MNo) (vd : VNo) (imm : BitVec 32) (s : State) : Result :=
  s.lanes (.vmovi mask vd imm) mask vd 2 fun _ _ => (imm, 0)

/-! ## Compare, select, logic and shifts (07 R204–R207) -/

/-- The compare conditions (07 R204). -/
inductive Cond where
  | eq | ne | lt | le | gt | ge | un
  deriving DecidableEq, Repr

/-- A condition of two values that are ordered: `l` a < b, `e` a = b. -/
def Cond.holds (k : Cond) (l e : Bool) : Bool :=
  match k with
  | .eq => e
  | .ne => !e
  | .lt => l && !e
  | .le => l || e
  | .gt => !l && !e
  | .ge => !l || e
  | .un => false

/-- Whether a quiet NaN sets NV (07 R204). -/
def Cond.signals : Cond → Bool
  | .lt | .le | .gt | .ge => true
  | _ => false

/-- The comparison of two lanes (07 R204). -/
def cmpLane (k : Cond) (ty : Ty) (x y : Word32) : Bool × Flags :=
  if ty.fp then
    let a := laneNum ty x
    let b := laneNum ty y
    if a.isNaN || b.isNaN then
      (decide (k = .ne ∨ k = .un), flagIf (a.isSig || b.isSig || k.signals) fNV)
    else (k.holds (numLt a b) (numEq a b), 0)
  else
    let a := laneInt ty x
    let b := laneInt ty y
    (k.holds (decide (a < b)) (decide (a = b)), 0)

/-- A VCMP (07 R204). -/
def State.vcmp (s : State) (i : Instr) (k : Cond) (ty : Ty) (mask md : MNo) (va vb : VNo) : Result :=
  s.maskWord i mask md (vLat ty) fun c n => cmpLane k ty (c.lane va n) (c.lane vb n)

/-- VCMP.EQ (07 R204). -/
def execVcmpEq (ty : Ty) (mask md : MNo) (va vb : VNo) (s : State) : Result :=
  s.vcmp (.vcmpEq ty mask md va vb) .eq ty mask md va vb

/-- VCMP.NE (07 R204). -/
def execVcmpNe (ty : Ty) (mask md : MNo) (va vb : VNo) (s : State) : Result :=
  s.vcmp (.vcmpNe ty mask md va vb) .ne ty mask md va vb

/-- VCMP.LT (07 R204). -/
def execVcmpLt (ty : Ty) (mask md : MNo) (va vb : VNo) (s : State) : Result :=
  s.vcmp (.vcmpLt ty mask md va vb) .lt ty mask md va vb

/-- VCMP.LE (07 R204). -/
def execVcmpLe (ty : Ty) (mask md : MNo) (va vb : VNo) (s : State) : Result :=
  s.vcmp (.vcmpLe ty mask md va vb) .le ty mask md va vb

/-- VCMP.GT (07 R204). -/
def execVcmpGt (ty : Ty) (mask md : MNo) (va vb : VNo) (s : State) : Result :=
  s.vcmp (.vcmpGt ty mask md va vb) .gt ty mask md va vb

/-- VCMP.GE (07 R204). -/
def execVcmpGe (ty : Ty) (mask md : MNo) (va vb : VNo) (s : State) : Result :=
  s.vcmp (.vcmpGe ty mask md va vb) .ge ty mask md va vb

/-- VCMP.UN (07 R204). -/
def execVcmpUn (ty : Ty) (mask md : MNo) (va vb : VNo) (s : State) : Result :=
  s.vcmp (.vcmpUn ty mask md va vb) .un ty mask md va vb

/-- VSEL (07 R205). -/
def execVsel (mask : MNo) (vd va vb : VNo) (mc : MNo) (s : State) : Result :=
  s.lanes (.vsel mask vd va vb mc) mask vd 2 fun c i =>
    (if (c.readM mc).getLsbD i then c.lane va i else c.lane vb i, 0)

/-- VAND (07 R206). -/
def execVand (mask : MNo) (vd va vb : VNo) (s : State) : Result :=
  s.lanes (.vand mask vd va vb) mask vd 2 fun c i => (c.lane va i &&& c.lane vb i, 0)

/-- VOR (07 R206). -/
def execVor (mask : MNo) (vd va vb : VNo) (s : State) : Result :=
  s.lanes (.vor mask vd va vb) mask vd 2 fun c i => (c.lane va i ||| c.lane vb i, 0)

/-- VXOR (07 R206). -/
def execVxor (mask : MNo) (vd va vb : VNo) (s : State) : Result :=
  s.lanes (.vxor mask vd va vb) mask vd 2 fun c i => (c.lane va i ^^^ c.lane vb i, 0)

/-- VANDN (07 R206). -/
def execVandn (mask : MNo) (vd va vb : VNo) (s : State) : Result :=
  s.lanes (.vandn mask vd va vb) mask vd 2 fun c i => (c.lane va i &&& ~~~c.lane vb i, 0)

/-- VNOT (07 R206). -/
def execVnot (mask : MNo) (vd va : VNo) (s : State) : Result :=
  s.lanes (.vnot mask vd va) mask vd 2 fun c i => (~~~c.lane va i, 0)

/-- A lane shifted left (07 R207). -/
def sllLane (ty : Ty) (x : Word32) (n : Nat) : Word32 := intLane ty (laneInt ty x * 2 ^ n)

/-- A lane shifted right with zeros (07 R207). -/
def srlLane (ty : Ty) (x : Word32) (n : Nat) : Word32 := intLane ty (laneCode ty x / 2 ^ n : Nat)

/-- A lane shifted right with its sign (07 R207). -/
def sraLane (ty : Ty) (x : Word32) (n : Nat) : Word32 := intLane ty (laneInt ty x / 2 ^ n)

/-- VSLL by b mod w (07 R207). -/
def execVsll (ty : Ty) (mask : MNo) (vd va vb : VNo) (s : State) : Result :=
  s.lanes (.vsll ty mask vd va vb) mask vd 2 fun c i => (sllLane ty (c.lane va i) ((c.lane vb i).toNat % ty.width), 0)

/-- VSRL (07 R207). -/
def execVsrl (ty : Ty) (mask : MNo) (vd va vb : VNo) (s : State) : Result :=
  s.lanes (.vsrl ty mask vd va vb) mask vd 2 fun c i => (srlLane ty (c.lane va i) ((c.lane vb i).toNat % ty.width), 0)

/-- VSRA (07 R207). -/
def execVsra (ty : Ty) (mask : MNo) (vd va vb : VNo) (s : State) : Result :=
  s.lanes (.vsra ty mask vd va vb) mask vd 2 fun c i => (sraLane ty (c.lane va i) ((c.lane vb i).toNat % ty.width), 0)

/-- VSLLI (07 R207). -/
def execVslli (ty : Ty) (mask : MNo) (vd va : VNo) (sh : Fin 32) (s : State) : Result :=
  s.lanes (.vslli ty mask vd va sh) mask vd 2 fun c i => (sllLane ty (c.lane va i) sh.val, 0)

/-- VSRLI (07 R207). -/
def execVsrli (ty : Ty) (mask : MNo) (vd va : VNo) (sh : Fin 32) (s : State) : Result :=
  s.lanes (.vsrli ty mask vd va sh) mask vd 2 fun c i => (srlLane ty (c.lane va i) sh.val, 0)

/-- VSRAI (07 R207). -/
def execVsrai (ty : Ty) (mask : MNo) (vd va : VNo) (sh : Fin 32) (s : State) : Result :=
  s.lanes (.vsrai ty mask vd va sh) mask vd 2 fun c i => (sraLane ty (c.lane va i) sh.val, 0)

/-! ## Conversions (07 R208–R211) -/

/-- A conversion of one lane without MX (07 R209). -/
def cvtLane (dst src : Ty) (sat : Bool) (mode : Mode1) (x : Word32) : Word32 × Flags :=
  if src.int then
    if dst.int then (intLane dst (satInt dst.width (laneInt src x)), 0)
    else
      let (c, f) := roundFp .f32 mode (numOfInt (laneInt src x))
      (toLane c, f)
  else if dst.int then
    let (v, f) := convertInt dst.width (laneNum src x)
    (intLane dst v, f)
  else
    let (c, f) := convertFp dst mode sat (laneNum src x)
    (toLane c, f)

/-- An MX element widened, its scale in bits 15:8 (07 R209, 04 R142). -/
def mxWiden (src : Ty) (x : Word32) : Word32 × Flags :=
  let (c, f) := roundFp .f32 .rne (mxValue (laneNum src x) (x.toNat / 256 % 256))
  (toLane c, f)

/-- The enabled values of block `j`. -/
def blockValues (c : Core) (en : Mask) (va : VNo) (j : Nat) : List Num :=
  ((List.range 32).filter fun k => en.getLsbD (32 * j + k)).map fun k => laneNum .f32 (c.lane va (32 * j + k))

/-- One lane of an MX quantisation under its block's scale (07 R210, 04 R121). -/
def mxQuantLane (dst : Ty) (mode : Mode1) (scale : Option Nat) (x : Word32) : Word32 × Flags :=
  match scale with
  | none => (toLane (255 * 256), fNV)
  | some k =>
    let (code, r) := encodeFp dst mode true (mxUnscale (laneNum .f32 x) k)
    (toLane (code + 256 * k), flagIf r.inexact fNX)

/-- VCVT (07 R208–R211): a stochastic one steps the vector converter's generator once at issue. -/
def execVcvt (dst src : Ty) (mx ns : Bool) (mask : MNo) (rm : Rm) (vd va : VNo) (s : State) : Result :=
  s.vWord (.vcvt dst src mx ns mask rm vd va) [3] fun s =>
    let c := s.core
    let en := c.readM mask
    let sr := decide (rm = .sr)
    let g := if sr then lfsrStep c.csr.genV else c.csr.genV
    let mode := fun i => if sr then srMode g i dst else c.mode1 rm
    let r :=
      if mx then
        if src.fp then
          let scales := (List.range 4).map fun j => mxScale dst (blockValues c en va j)
          perLane en fun i => mxQuantLane dst (mode i) (scales.getD (i / 32) none) (c.lane va i)
        else perLane en fun i => mxWiden src (c.lane va i)
      else perLane en fun i => cvtLane dst src (!ns) (mode i) (c.lane va i)
    let s := s.modFocus fun c => { c with csr := { c.csr with genV := g } }
    .ok (s.landV vd en r 4) .seq

/-! ## Rounding, exponent and elementary functions (07 R212–R214, 04 R137) -/

/-- VROUNDI of a lane (04 R137). -/
def roundiLane (ty : Ty) (mode : Mode1) (x : Word32) : Word32 × Flags :=
  match laneNum ty x with
  | .nan sig => (toLane (defaultNaN ty), flagIf sig fNV)
  | .inf _ => (toLane (laneCode ty x), 0)
  | .fin neg m e =>
    if 0 ≤ e then (toLane (laneCode ty x), 0)
    else
      let (n, _) := roundOn mode neg m e 0
      (toLane (packFin ty neg n 0), 0)

/-- VFEXP2 of a lane (04 R137). -/
def exp2Lane (mode : Mode1) (x : Word32) : Word32 × Flags :=
  match laneNum .f32 x with
  | .nan sig => (toLane (defaultNaN .f32), flagIf sig fNV)
  | .inf _ => (toLane (defaultNaN .f32), fNV)
  | .fin neg m e =>
    if magLt 1 0 m e then (toLane (defaultNaN .f32), fNV)
    else roundLane .f32 mode (numExp2 neg m e, 0)

/-- VSCALEB of a lane (04 R137). Beyond ±1,000 the scale changes nothing further: every nonzero FP32 value is over or
under. -/
def scalebLane (mode : Mode1) (x : Word32) (n : Int) : Word32 × Flags :=
  match laneNum .f32 x with
  | .nan sig => (toLane (defaultNaN .f32), flagIf sig fNV)
  | .inf _ => (x, 0)
  | .fin neg m e =>
    if m = 0 then (x, 0) else roundLane .f32 mode (.fin neg m (e + max (-1000) (min 1000 n)), 0)

/-- VGETEXP of a lane (07 R213). -/
def getexpLane (x : Word32) : Word32 × Flags :=
  match laneNum .f32 x with
  | .nan sig => (toLane (defaultNaN .f32), flagIf sig fNV)
  | .inf _ => (toLane (packInf .f32 false), 0)
  | .fin _ m e =>
    if m = 0 then (toLane (packInf .f32 true), fDZ) else roundLane .f32 .rne (numOfInt (floorLog m e), 0)

/-- VGETMANT of a lane (07 R213). -/
def getmantLane (x : Word32) : Word32 × Flags :=
  match laneNum .f32 x with
  | .nan sig => (toLane (defaultNaN .f32), flagIf sig fNV)
  | .inf _ => (toLane (defaultNaN .f32), fNV)
  | .fin neg m _ => if m = 0 then (x, 0) else roundLane .f32 .rne (.fin neg m (-(Nat.log2 m : Int)), 0)

/-- VRCP of a lane (07 R213). -/
def rcpLane (mode : Mode1) (x : Word32) : Word32 × Flags :=
  match laneNum .f32 x with
  | .nan sig => (toLane (defaultNaN .f32), flagIf sig fNV)
  | .inf neg => (toLane (packFin .f32 neg 0 0), 0)
  | .fin neg m e =>
    if m = 0 then (toLane (packInf .f32 neg), fDZ) else roundLane .f32 mode (recip neg m e, 0)

/-- VRSQ of a lane (07 R213). -/
def rsqLane (mode : Mode1) (x : Word32) : Word32 × Flags :=
  match laneNum .f32 x with
  | .nan sig => (toLane (defaultNaN .f32), flagIf sig fNV)
  | .inf neg => if neg then (toLane (defaultNaN .f32), fNV) else (0, 0)
  | .fin neg m e =>
    if m = 0 then (toLane (packInf .f32 neg), fDZ)
    else if neg then (toLane (defaultNaN .f32), fNV)
    else roundLane .f32 mode (rsqrt m e, 0)

/-- VLOG2 of a lane (07 R213). -/
def log2Lane (mode : Mode1) (x : Word32) : Word32 × Flags :=
  match laneNum .f32 x with
  | .nan sig => (toLane (defaultNaN .f32), flagIf sig fNV)
  | .inf neg => if neg then (toLane (defaultNaN .f32), fNV) else (x, 0)
  | .fin neg m e =>
    if m = 0 then (toLane (packInf .f32 true), fDZ)
    else if neg then (toLane (defaultNaN .f32), fNV)
    else roundLane .f32 mode (numLog2 m e, 0)

/-- The class bit of a lane (07 R214). -/
def classLane (x : Word32) : Nat :=
  match laneNum .f32 x with
  | .nan sig => if sig then 8 else 9
  | .inf neg => if neg then 0 else 7
  | .fin neg m _ =>
    if m = 0 then (if neg then 3 else 4)
    else if x.toNat / 2 ^ 23 % 256 = 0 then (if neg then 2 else 5)
    else if neg then 1 else 6

/-- VROUNDI (07 R212). -/
def execVroundi (ty : Ty) (mask : MNo) (rm : Rm) (vd va : VNo) (s : State) : Result :=
  s.lanes (.vroundi ty mask rm vd va) mask vd 4 fun c i => roundiLane ty (c.mode1 rm) (c.lane va i)

/-- VFEXP2 (07 R212). -/
def execVfexp2 (mask : MNo) (rm : Rm) (vd va : VNo) (s : State) : Result :=
  s.lanes (.vfexp2 mask rm vd va) mask vd 6 fun c i => exp2Lane (c.mode1 rm) (c.lane va i)

/-- VSCALEB (07 R212). -/
def execVscaleb (mask : MNo) (rm : Rm) (vd va vb : VNo) (s : State) : Result :=
  s.lanes (.vscaleb mask rm vd va vb) mask vd 4 fun c i => scalebLane (c.mode1 rm) (c.lane va i) (laneInt .i32 (c.lane vb i))

/-- VGETEXP (07 R213). -/
def execVgetexp (mask : MNo) (rm : Rm) (vd va : VNo) (s : State) : Result :=
  s.lanes (.vgetexp mask rm vd va) mask vd 4 fun c i => getexpLane (c.lane va i)

/-- VGETMANT (07 R213). -/
def execVgetmant (mask : MNo) (rm : Rm) (vd va : VNo) (s : State) : Result :=
  s.lanes (.vgetmant mask rm vd va) mask vd 4 fun c i => getmantLane (c.lane va i)

/-- VRCP (07 R213). -/
def execVrcp (mask : MNo) (rm : Rm) (vd va : VNo) (s : State) : Result :=
  s.lanes (.vrcp mask rm vd va) mask vd 6 fun c i => rcpLane (c.mode1 rm) (c.lane va i)

/-- VRSQ (07 R213). -/
def execVrsq (mask : MNo) (rm : Rm) (vd va : VNo) (s : State) : Result :=
  s.lanes (.vrsq mask rm vd va) mask vd 6 fun c i => rsqLane (c.mode1 rm) (c.lane va i)

/-- VLOG2 (07 R213). -/
def execVlog2 (mask : MNo) (rm : Rm) (vd va : VNo) (s : State) : Result :=
  s.lanes (.vlog2 mask rm vd va) mask vd 6 fun c i => log2Lane (c.mode1 rm) (c.lane va i)

/-- VCLASS (07 R214). -/
def execVclass (mask : MNo) (vd va : VNo) (s : State) : Result :=
  s.lanes (.vclass mask vd va) mask vd 2 fun c i => (BitVec.ofNat 32 (2 ^ classLane (c.lane va i)), 0)

/-! ## Reductions, permutes and broadcasts (07 R215–R218, 04 R138) -/

/-- One level of the tree: neighbours combined, a lone valid child taken unchanged (04 R138). -/
def treeLevel (f : Word32 → Word32 → Word32 × Flags) : List (Option Word32) → List (Option Word32) × Flags
  | a :: b :: r =>
    let (rest, fl) := treeLevel f r
    match a, b with
    | some x, some y => let (z, g) := f x y; (some z :: rest, fl ||| g)
    | some x, none => (some x :: rest, fl)
    | none, y => (y :: rest, fl)
  | r => (r, 0)

/-- `n` levels of the tree. -/
def treeLevels (f : Word32 → Word32 → Word32 × Flags) : Nat → List (Option Word32) → List (Option Word32) × Flags
  | 0, xs => (xs, 0)
  | n + 1, xs =>
    let (ys, fl) := treeLevel f xs
    let (zs, gl) := treeLevels f n ys
    (zs, fl ||| gl)

/-- tree_reduce of the valid lanes (04 R138), the root with its flags; a NaN root is the default NaN and a signalling
lane sets NV (07 R215). -/
def treeReduce (ty : Ty) (f : Word32 → Word32 → Word32 × Flags) (identity : Word32) (lanes : List (Option Word32)) :
    Word32 × Flags :=
  let (zs, fl) := treeLevels f 7 lanes
  let root := (zs.head?.getD none).getD identity
  let sig := lanes.any fun l => match l with | some x => ty.fp && (laneNum ty x).isSig | none => false
  (if ty.fp && (laneNum ty root).isNaN then toLane (defaultNaN ty) else root, fl ||| flagIf sig fNV)

/-- A VRED (07 R215). -/
def State.vred (s : State) (i : Instr) (ty : Ty) (mask : MNo) (vd va : VNo)
    (f : Core → Word32 → Word32 → Word32 × Flags) (identity : Word32) : Result :=
  s.vWord i [3] fun s =>
    let c := s.core
    let en := c.readM mask
    let lanes := (List.range 128).map fun k => if en.getLsbD k then some (c.lane va k) else none
    let (root, fl) := treeReduce ty (f c) identity lanes
    .ok (s.landV vd en (vof 128 fun _ => root, fl) 7) .seq

/-- VRED.SUM (07 R215). -/
def execVredSum (ty : Ty) (mask : MNo) (rm : Rm) (vd va : VNo) (s : State) : Result :=
  s.vred (.vredSum ty mask rm vd va) ty mask vd va (fun c x y => addLane ty (c.mode1 rm) x y) 0

/-- VRED.MAX (07 R215). -/
def execVredMax (ty : Ty) (mask : MNo) (rm : Rm) (vd va : VNo) (s : State) : Result :=
  s.vred (.vredMax ty mask rm vd va) ty mask vd va (fun _ x y => minMaxLane ty true x y)
    (if ty.fp then toLane (packInf .f32 true) else 0x80000000)

/-- VRED.MIN (07 R215). -/
def execVredMin (ty : Ty) (mask : MNo) (rm : Rm) (vd va : VNo) (s : State) : Result :=
  s.vred (.vredMin ty mask rm vd va) ty mask vd va (fun _ x y => minMaxLane ty false x y)
    (if ty.fp then toLane (packInf .f32 false) else 0x7FFFFFFF)

/-- VPERM (07 R216). -/
def execVperm (mask : MNo) (vd va vb : VNo) (s : State) : Result :=
  s.lanes (.vperm mask vd va vb) mask vd 7 fun c i => (c.lane va (c.lane vb i).toNat, 0)

/-- VBCAST (07 R217). -/
def execVbcast (mask : MNo) (vd : VNo) (w : WNo) (keep : Bool) (stall : Stall) (s : State) : Result :=
  s.vWord (.vbcast mask vd w keep stall) [3] fun s =>
    s.takeWord .v w keep (stallBound stall) fun v s =>
      .ok (s.landV vd (s.core.readM mask) (vof 128 fun _ => v.setWidth 32, 0) 2) .seq

/-- VIOTA (07 R218). -/
def execViota (mask : MNo) (vd : VNo) (s : State) : Result :=
  s.lanes (.viota mask vd) mask vd 2 fun _ i => (BitVec.ofNat 32 i, 0)

/-! ## The west port (01 R41, R42; 07 R221) -/

/-- The west port after every vector of an index below `i` has taken effect, lane by lane (01 R41). -/
def Core.westMerge (c : Core) (i : Nat) : Core :=
  let old := c.vec.west.filter fun w => decide (w.index < i)
  { c with vec := { c.vec with
      vw := old.foldl (fun v w => mergeLanes v w.lanes w.enable) c.vec.vw
      west := c.vec.west.filter fun w => decide (i ≤ w.index) } }

/-- vw as a word of the core reads it: zero in logical column 0 and outside wave mode (01 R41, R42; 07 R221). -/
def Core.readVw (c : Core) : Vector Word32 128 :=
  match c.resident with
  | some r => if r.mode = .wave ∧ r.col ≠ 0 then (c.westMerge c.ev.index).vec.vw else zeroLanes
  | none => zeroLanes

/-- The logical coordinate of a core: column and row in wave mode, 0 elsewhere (01 R9, R16). -/
def Core.logical (c : Core) : Nat × Nat :=
  match c.resident with
  | some r => if r.mode = .wave then (r.col, r.row) else (0, 0)
  | none => (0, 0)

/-- Lane `i` of a source of VMOV (07 R218). -/
def Core.vsrc (c : Core) (src : VSrc) (i : Nat) : Word32 :=
  match src with
  | .reg v => c.lane v i
  | .vw => vget c.readVw i 0
  | .col => BitVec.ofNat 32 c.logical.1
  | .row => BitVec.ofNat 32 c.logical.2
  | .die => BitVec.ofNat 32 c.id.die
  | .ctx => BitVec.ofNat 32 (c.ctxId % 4096)

/-- VMOV (07 R218). -/
def execVmov (mask : MNo) (vd : VNo) (src : VSrc) (s : State) : Result :=
  s.lanes (.vmov mask vd src) mask vd 2 fun c i => (c.vsrc src i, 0)

/-- The core of the logical column to the east in the gang row. -/
def State.east (s : State) (c : Core) : Option CoreId :=
  match c.resident with
  | some r =>
    if r.mode = .wave ∧ r.col < r.lastCol then
      match s.dev.rows.find? fun w => decide (w.id = r.rowId) with
      | some w => w.members[r.col + 1]?
      | none => none
    else none
  | none => none

/-- VPUTE: in the eastmost column and in detached mode it has no effect (01 R42, 07 R221). -/
def execVpute (mask : MNo) (va : VNo) (s : State) : Result :=
  s.vWord (.vpute mask va) [3] fun s =>
    match s.east s.core with
    | none => .ok s .seq
    | some e =>
      let w : WestVec := ⟨s.core.ev.index, s.core.readM mask, s.core.vec.v[va]⟩
      .ok (s.modCore e fun c =>
        let c := c.westMerge c.ev.index
        { c with vec := { c.vec with west := c.vec.west ++ [w] } }) .seq

/-! ## Tiles and drains (07 R219, R220, R222) -/

/-- VPOP (07 R219). -/
def execVpop (mask : MNo) (vd : VNo) (tile : TileRef) (part : Fin 8) (keep : Bool) (stall : Stall) (s : State) : Result :=
  s.vWord (.vpop mask vd tile part keep stall) [1, 3] fun s =>
    match s.core.tileReadHold tile keep (stallBound stall) with
    | some h => .hold s h
    | none =>
      let data := s.core.tiles.t[s.core.tileFrom tile].data
      let s := s.modFocus fun c => c.tileTaken .v tile keep
      let lanes := vof 128 fun i => BitVec.ofNat 32 (readLE data (512 * part.val + 4 * i) 4)
      .ok (s.landV vd (s.core.readM mask) (lanes, 0) 2) .seq

/-- VPUSH: the data land at latency 2 (07 R220). -/
def execVpush (mask : MNo) (va : VNo) (tile : TileRef) (part : Fin 8) (partial_ : Bool) (stall : Stall) (s : State) :
    Result :=
  s.vWord (.vpush mask va tile part partial_ stall) [1, 3] fun s =>
    match s.core.tileWriteHold .v tile (stallBound stall) with
    | some h => .hold s h
    | none =>
      let d := Dest.tileRow (s.core.tileTo tile) part (s.core.readM mask) !partial_
      .ok (s.modFocus fun c => (c.tileWritten .v tile !partial_).land .v d (.lanes c.vec.v[va]) 2) .seq

/-- VAL of an accumulator entry (04 R128). -/
def Core.accVal (c : Core) (tile row col : Nat) : Nat := (spGet c.mem.acc (1024 * tile + 32 * row + col)).toNat % 2 ^ 56

/-- HUSK of an accumulator entry (04 R128). -/
def Core.accHusk (c : Core) (tile row col : Nat) : Bool := (spGet c.mem.acc (1024 * tile + 32 * row + col)).getLsbD 56

/-- Whether a claim covers a row of a tile for a lane group (08 R246). -/
def Claim.covers (k : Claim) (tile row : Fin 32) : Bool := decide (k.tile = tile ∧ k.frow ≤ row ∧ row ≤ k.lrow)

/-- Whether a lane group holds a claim that contains a row (07 R222). -/
def Core.claimed (c : Core) (tile row : Fin 32) (lg : Fin 4) : Bool :=
  c.mx.claims.toList.any fun k => k.valid && k.claim.covers tile row && decide (k.claim.lg = lg)

/-- One lane of a VDRAIN (07 R222). -/
def drainLane (ty : Ty) (mode : Mode1) (v : Nat) : Word32 × Flags :=
  if ty.fp then roundLane .f32 mode (a56Unpack v, 0) else (toLane (v % 2 ^ 32), 0)

/-- VDRAIN: holds until the lane group holds a claim that contains the row (07 R222). -/
def execVdrain (ty : Ty) (mask : MNo) (rm : Rm) (vd : VNo) (acc row : Fin 32) (lg : Fin 4) (stall : Stall) (s : State) :
    Result :=
  s.vWord (.vdrain ty mask rm vd acc row lg stall) [3, 23 + acc.val / 4] fun s =>
    let c := s.core
    if !c.claimed acc row lg then .hold s (mkHold 0xC1 (some .m) (stallBound stall))
    else
      let group : Mask := BitVec.ofNat 128 ((2 ^ 32 - 1) * 2 ^ (32 * lg.val))
      let en := c.readM mask &&& group
      let r := perLane en fun i => drainLane ty (c.mode1 rm) (c.accVal acc.val row.val (i % 32))
      .ok (s.landV vd en r 6) .seq

/-! ## Mask logic, loops and join (07 R223–R225) -/

/-- A mask word without flags. -/
def State.maskLogic (s : State) (i : Instr) (mask md : MNo) (f : Core → Mask) : Result :=
  s.maskWord i mask md 2 fun c n => ((f c).getLsbD n, 0)

/-- VMAND (07 R223). -/
def execVmand (mask md ma mb : MNo) (s : State) : Result :=
  s.maskLogic (.vmand mask md ma mb) mask md fun c => c.readM ma &&& c.readM mb

/-- VMOR (07 R223). -/
def execVmor (mask md ma mb : MNo) (s : State) : Result :=
  s.maskLogic (.vmor mask md ma mb) mask md fun c => c.readM ma ||| c.readM mb

/-- VMXOR (07 R223). -/
def execVmxor (mask md ma mb : MNo) (s : State) : Result :=
  s.maskLogic (.vmxor mask md ma mb) mask md fun c => c.readM ma ^^^ c.readM mb

/-- VMANDN (07 R223). -/
def execVmandn (mask md ma mb : MNo) (s : State) : Result :=
  s.maskLogic (.vmandn mask md ma mb) mask md fun c => c.readM ma &&& ~~~c.readM mb

/-- VMNOT (07 R223). -/
def execVmnot (mask md ma : MNo) (s : State) : Result :=
  s.maskLogic (.vmnot mask md ma) mask md fun c => ~~~c.readM ma

/-- VMMOV (07 R223). -/
def execVmmov (mask md ma : MNo) (s : State) : Result := s.maskLogic (.vmmov mask md ma) mask md fun c => c.readM ma

/-- VLOOP (07 R224). -/
def execVloop (lvl : Fin 4) (count : LoopCount) (len : BitVec 12) (s : State) : Result :=
  s.vWord (.vloop lvl count len) [3] fun s => s.loopWord .v lvl count len

/-- VJOIN (07 R225). -/
def execVjoin (s : State) : Result := s.vWord .vjoin [3] fun s => s.joinEngine .v

/-- VNOP (07 R225). -/
def execVnop (s : State) : Result := s.vWord .vnop [3] fun s => .ok s .seq

end Sys2Proof.Machine
end

