-- ==== Sys2Proof/Machine/MStream.lean ====
section
/-! DEFINITION. The words of the M stream and the steps of a loop nest (08 R227–R252, 04 R131–R135). -/

namespace Sys2Proof.Machine

/-! ## Tiles, banks and claims -/

/-- The domain of the accumulator bank of a tile (08 R229). -/
def accDom (tile : Nat) : Nat := 23 + tile / 4

/-- The tiles Σ i·SC mod 32 that levels visit, as a list of 32 bits (08 R231). -/
def visitFrom (ls : List Level) : List Bool :=
  ls.foldl (fun set l =>
    (List.range 32).map fun (t : Nat) =>
      (List.range (min l.trip.toNat 32)).any fun i =>
        set.getD ((((t : Int) - i * l.sc.toInt) % 32).toNat) false)
    ((List.range 32).map fun t => decide (t = 0))

/-- The tiles that a nest visits (08 R231). -/
def visited (levels : Vector Level 6) : List Nat :=
  let set := visitFrom levels.toList
  (List.range 32).filter fun t => set.getD t false

/-- The tiles the active nest visits. -/
def Core.busyTiles (c : Core) : List Nat := match c.mx.nest with | some n => visited n.levels | none => []

/-- The held claims. -/
def Core.claims (c : Core) : List Claim := (c.mx.claims.toList.filter ClaimEntry.valid).map ClaimEntry.claim

/-- A claim in the claim-entry layout, bits 16:0 (08 R233). -/
def Claim.pack (k : Claim) : Nat := k.tile.val + 32 * k.frow.val + 1024 * k.lrow.val + 2 ^ 15 * k.lg.val

/-- *Unallocated accumulator bank* for the lowest-numbered tile of a list in a bank that is not allocated (08 R232; which tile
DETAIL and ARG name when several are unallocated is a DESIGN CHOICE, log entry 37). -/
def Core.unallocated (c : Core) (tiles : List Nat) : Option FaultRec :=
  (tiles.find? fun t => !c.mx.alloc.getLsbD (t / 4)).map fun t => mkFault 0x0B (t / 4) t 0

/-- *Row-band conflict*, DETAIL 4, for the claim of the lowest entry that meets a condition (08 R233; which claim ARG holds when
several conflict is a DESIGN CHOICE, log entry 37). -/
def Core.bandHeld (c : Core) (p : Claim → Bool) : Option FaultRec :=
  (c.claims.find? p).map fun k => mkFault 0x0C 4 k.pack 0

/-- Whether a claim lies on one of some tiles. -/
def Claim.on (k : Claim) (tiles : List Nat) : Bool := decide (k.tile.val ∈ tiles)

/-- Whether a claim shares a row with a band. -/
def Claim.meets (k : Claim) (tile frow lrow : Fin 32) : Bool := decide (k.tile = tile ∧ k.frow ≤ lrow ∧ frow ≤ k.lrow)

/-! ## The shape of an M word -/

/-- An M word: its holds (08 R231), then its domains, then what it does. -/
def State.mWord (s : State) (i : Instr) (holds : Core → Bool) (doms : List Nat) (k : State → WordOut) : Result :=
  s.word .m i fun s =>
    if holds s.core then .hold s plainHold
    else
      match needDoms s.core doms with
      | some f => .fault s f
      | none => k s

/-- The matrix control state of the focus core changed. -/
def State.modMx (s : State) (f : Matrix → Matrix) : State := s.modFocus fun c => { c with mx := f c.mx }

/-- An M word whose only effect is on the matrix control state. -/
def State.mxWord (s : State) (i : Instr) (f : Matrix → Matrix) : Result :=
  s.mWord i (fun _ => false) [4] fun s => .ok (s.modMx f) .seq

/-! ## Setting up a nest (08 R235–R237) -/

/-- MSET (08 R235). -/
def execMset (lvl : Fin 6) (trip : Trip) (sa sb sc : BitVec 24) (s : State) : Result :=
  s.mWord (.mset lvl trip sa sb sc) (fun _ => false) [4] fun s =>
    let put := fun (n : BitVec 20) (s : State) =>
      WordOut.ok (s.modMx fun m => { m with shadow := vset m.shadow lvl ⟨n, sa, sb, sc⟩ }) .seq
    match trip with
    | .imm n => put n s
    | .word w stall => s.takeWord .m w false (stallBound stall) fun v s => put (v.setWidth 20) s

/-- MWIN (08 R236). -/
def execMwin (win : Fin 8) (s : State) : Result := s.mxWord (.mwin win) fun m => { m with win := win }

/-- MFMT (08 R236). -/
def execMfmt (fa fb : Fmt) (s : State) : Result := s.mxWord (.mfmt fa fb) fun m => { m with fa := fa, fb := fb }

/-- MSRC (08 R237). -/
def execMsrc (x : MSrc) (s : State) : Result := s.mxWord (.msrc x) fun m => { m with src := x }

end Sys2Proof.Machine

namespace Sys2Proof

open Machine

/-- The bits of a stored element of an operand format (08 R239). -/
def Fmt.bits : Fmt → Nat
  | .bf16 => 16
  | .mxfp4 => 4
  | _ => 8

/-- The products of a group (04 R132). -/
def Fmt.group : Fmt → Nat
  | .bf16 => 16
  | .mxfp4 => 64
  | _ => 32

/-- Whether a format has block scales. -/
def Fmt.mx : Fmt → Bool
  | .mxfp4 | .mxfp8 => true
  | _ => false

/-- The bytes of an operand block of 32 rows or columns of `k` elements (08 R239). -/
def Fmt.blockBytes (f : Fmt) (k : Nat) : Nat := 32 * (k * f.bits / 8) + (if f.mx then 32 * (k / 32) else 0)

/-- The bytes of metadata of a step (08 R241). -/
def Fmt.metaBytes : Fmt → Nat
  | .bf16 => 128
  | .mxfp4 => 512
  | _ => 256

/-- The value of an element code (04 R118, R123). -/
def Fmt.value (f : Fmt) (code : Nat) : Machine.Num :=
  match f with
  | .bf16 => decodeFp .bf16 code
  | .e4m3 | .mxfp8 => decodeFp .e4m3 code
  | .e5m2 => decodeFp .e5m2 code
  | .t8 => decodeFp .t8 code
  | .mxfp4 => decodeFp .e2m1 code
  | .int8 => numOfInt (signed 8 code)

end Sys2Proof

namespace Sys2Proof.Machine

/-! ## Running a nest (08 R238–R243) -/

/-- The span of an operand of a nest: its first byte relative to the base and its length (08 R238). -/
def span (levels : Vector Level 6) (stride : Level → BitVec 24) (size : Nat) : Int × Nat :=
  let lo := levels.toList.foldl (fun a l => a + min 0 (((l.trip.toNat : Int) - 1) * (stride l).toInt)) 0
  let hi := levels.toList.foldl (fun a l => a + max 0 (((l.trip.toNat : Int) - 1) * (stride l).toInt)) 0
  (lo, (hi - lo).toNat + size)

/-- The scratchpad banks of a span (08 R238). -/
def spanBanks (base : Nat) (lo : Int) (len : Nat) : List Nat :=
  if 2 ^ 21 ≤ len then List.range 16
  else
    let first := (((base : Int) + lo) % 2 ^ 21).toNat
    (List.range ((first % 2 ^ 17 + len - 1) / 2 ^ 17 + 1)).map fun i => (first / 2 ^ 17 + i) % 16

/-- The banks of the A and of the B operands of a nest (08 R238). -/
def operandBanks (levels : Vector Level 6) (fa fb : Fmt) (src : MSrc) (sparse : Bool) : List Nat × List Nat :=
  let (la, na) := span levels (fun l => l.sa) (fa.blockBytes fa.group)
  let (lb, nb) := span levels (fun l => l.sb) (fb.blockBytes (if sparse then 2 * fb.group else fb.group))
  (spanBanks src.abase.toNat la na, spanBanks src.bbase.toNat lb nb)

/-- The banks that the A and B operands of a nest lie in, each with its position (08 R238, R239). -/
def nestBanks (levels : Vector Level 6) (fa fb : Fmt) (src : MSrc) (sparse : Bool) : List (Nat × Nat) :=
  let bs := operandBanks levels fa fb src sparse
  bs.1.map (fun b => (src.apos.val, b)) ++ bs.2.map (fun b => (src.bpos.val, b))

/-- The banks that the A and B operands of a captured nest lie in, each with its core (08 R238, R239). -/
def Nest.banks (n : Nest) : List (CoreId × Nat) :=
  let bs := operandBanks n.levels n.fa n.fb n.src n.sparse
  bs.1.map (fun b => (n.acore, b)) ++ bs.2.map (fun b => (n.bcore, b))

/-- Whether some trip count is 0, so that the nest has no step (08 R238). -/
def emptyNest (levels : Vector Level 6) : Bool := levels.toList.any fun l => decide (l.trip = 0)

/-- What MGO and MGO.S capture (08 R227, R238, R241): META is 0 for MGO, whose word has no such field (DESIGN CHOICE, log entry
37). A nest without a step is captured too and has completed at once. `core` are the cores at the positions of the cluster (R239). -/
def Matrix.capture (m : Matrix) (core : Nat → CoreId) (id : Nat) (sparse : Option (BitVec 10)) : Matrix :=
  let n : Nest := {
    id := id, levels := m.shadow, win := m.win, fa := m.fa, fb := m.fb, src := m.src
    sparse := sparse.isSome, md := sparse.getD 0
    index := Vector.replicate 6 0, done := emptyNest m.shadow, ahead := []
    acore := core m.src.apos.val, bcore := core m.src.bpos.val }
  { m with table := n, active := !emptyNest m.shadow }

/-- MGO and MGO.S: the holds of R231, the faults of R232 for the whole nest, then the capture (08 R238, R241). *Sleeping resource*
names the lowest domain of the core's own first, then a peer's bank in the order of the spans, A before B; an MGO.S of an empty nest
touches d.m alone, as an MGO of one does, and not d.smd (DESIGN CHOICE, log entry 37). -/
def State.startNest (s : State) (i : Instr) (sparse : Option (BitVec 10)) : Result :=
  s.word .m i fun s =>
    let c := s.core
    let m := c.mx
    let empty := emptyNest m.shadow
    let tiles := if empty then [] else visited m.shadow
    if m.nest.isSome || c.claims.any (fun k => k.on tiles) then .hold s plainHold
    else if 6 ≤ m.win.val then .fault s (mkFault 0x16 m.win.val 0 0)
    else
      let banks := if empty then [] else nestBanks m.shadow m.fa m.fb m.src sparse.isSome
      let own := banks.filter fun b => decide (c.peerId b.1 = c.id)
      let smd := if sparse.isSome && !empty then [6] else []
      match needDoms c ([4] ++ smd ++ own.map (fun b => 7 + b.2) ++ tiles.map accDom) with
      | some f => .fault s f
      | none =>
        match banks.findSome? (fun b => s.touchSpad b.1 (b.2 * 2 ^ 17)) with
        | some f => .fault s f
        | none =>
          match c.unallocated tiles with
          | some f => .fault s f
          | none =>
            let (id, s) := if empty then (m.table.id, s) else s.freshId
            .ok (s.modMx fun m => m.capture c.peerId id sparse) .seq

/-- MGO (08 R238). -/
def execMgo (s : State) : Result := s.startNest .mgo none

/-- MGO.S (08 R241). -/
def execMgoS (md : BitVec 10) (s : State) : Result := s.startNest (.mgoS md) (some md)

/-- Σ iₗ × strideₗ over the levels (08 R238). -/
def Nest.offset (n : Nest) (stride : Level → BitVec 24) : Int :=
  (List.range 6).foldl (fun a l => a + ((vget n.index l 0 : Nat) : Int) * (stride (vget n.levels l Level.reset)).toInt) 0

/-- The tile of the next step (08 R238). -/
def Nest.tile (n : Nest) : Nat := (n.offset (fun l => l.sc) % 32).toNat

/-- The address of a block: its base and offset modulo 2^21 with bits 4:0 cleared (08 R238). -/
def blockAddr (base : Nat) (o : Int) : Nat := (((base : Int) + o) % 2 ^ 21).toNat / 32 * 32

/-- Byte `k` of a block, wrapping within the scratchpad (08 R239). -/
def blockByte (sp : Memory) (p k : Nat) : Nat := (readByte sp ((p + k) % 2 ^ 21)).toNat

/-- Element `j` of row or column `i` of a block of `k` elements a row (08 R239, 04 R132). -/
def blockElem (f : Fmt) (sp : Memory) (p k i j : Nat) : Num :=
  let row := k * f.bits / 8
  let bit := j * f.bits
  let at0 := row * i + bit / 8
  let code :=
    if f.bits = 16 then blockByte sp p at0 + 256 * blockByte sp p (at0 + 1)
    else if f.bits = 4 then blockByte sp p at0 / 2 ^ (bit % 8) % 16
    else blockByte sp p at0
  if f.mx then mxValue (f.value code) (blockByte sp p (32 * row + i * (k / 32) + j / 32)) else f.value code

/-- A row or column of a block as a list of values. -/
def blockRow (f : Fmt) (sp : Memory) (p k i : Nat) : List Num := (List.range k).map fun j => blockElem f sp p k i j

/-- The metadata of row `m` of a sparse step, read little-endian; every byte's offset is taken modulo 16,384, as the start's is (08 R241;
DESIGN CHOICE, log entry 37). -/
def sparseMeta (side : Memory) (start bytes m : Nat) : Nat :=
  leOf ((List.range (bytes / 32)).map fun k => readByte side ((start + m * (bytes / 32) + k) % 2 ^ 14))

/-- The selected B elements of a column for row metadata `x` (08 R241); dense takes them in order (R240). -/
def bSelect (sparse : Option Nat) (col : List Num) (g : Nat) : List Num :=
  match sparse with
  | none => col
  | some x => (List.range g).map fun j =>
    let idx := x / 2 ^ (4 * (j / 2) + 2 * (j % 2)) % 4
    col.getD (4 * (j / 2) + idx) (.fin false 0 0)

/-- The signed integer of an exact value that is one. -/
def Num.int : Num → Int
  | .fin neg m e => truncNum neg m e
  | _ => 0

/-- One entry after a group (08 R240): bits 55:0 VAL, bit 56 HUSK. -/
def entryStep (fa : Fmt) (w : Nat) (a b : List Num) (e : BitVec 57) : BitVec 57 :=
  let val := e.toNat % 2 ^ 56
  let husk := e.getLsbD 56
  let (v, h) := match fa with
    | .int8 => int8Group val (List.zipWith (fun (x y : Num) => x.int * y.int) a b) husk
    | _ => windowSum (List.zipWith (fun x y => (numMul x y).1) a b ++ [a56Unpack val]) w husk
  BitVec.ofNat 57 (v + if h then 2 ^ 56 else 0)

/-- A scratchpad with the operand bytes that a nest has read early for its next step (08 R242). -/
def Nest.seen (n : Nest) (second : Bool) (sp : Memory) : Memory :=
  (n.ahead.filter fun a => decide (a.steps = 0 ∧ a.second = second)).foldl (fun m a => writeByte m a.addr a.byte) sp

/-- One step over the 1,024 entries of its tile (08 R240, R241). -/
def State.stepTile (s : State) (n : Nest) : Sparse 57 :=
  let c := s.core
  let oa := n.offset (fun l => l.sa)
  let spA := n.seen false (s.coreAt n.acore).mem.spad
  let spB := n.seen true (s.coreAt n.bcore).mem.spad
  let pa := blockAddr n.src.abase.toNat oa
  let pb := blockAddr n.src.bbase.toNat (n.offset (fun l => l.sb))
  let g := n.fa.group
  let kb := if n.sparse then 2 * g else g
  let mb := n.fa.metaBytes
  let start := (((16 * n.md.toNat : Nat) + oa / 1024 * mb) % 2 ^ 14).toNat
  let rows := (List.range 32).map fun m => blockRow n.fa spA pa g m
  let cols := (List.range 32).map fun k => blockRow n.fb spB pb kb k
  let base := 1024 * n.tile
  (List.range 1024).foldl (fun acc i =>
    let m := i / 32
    let x := if n.sparse then some (sparseMeta c.mem.side start mb m) else none
    let e := entryStep n.fa (windowWidth n.win.val) (rows.getD m []) (bSelect x (cols.getD (i % 32) []) g)
      (spGet acc (base + i))
    spSet acc (base + i) e) c.mem.acc

/-- The index vector of the following step, level 0 innermost; none after the last (08 R238). -/
def nextIndex (levels : Vector Level 6) : Nat → List Nat → Option (List Nat)
  | _, [] => none
  | l, i :: r =>
    if i + 1 < (vget levels l Level.reset).trip.toNat then some ((i + 1) :: r)
    else (nextIndex levels (l + 1) r).map fun r => 0 :: r

/-- The nest behind its current step. -/
def Nest.advance (n : Nest) : Nest :=
  let later := n.ahead.filter fun a => decide (a.steps ≠ 0)
  let one := fun a : NestRead => { a with steps := a.steps - 1 }
  let n := { n with ahead := later.map one }
  match nextIndex n.levels 0 n.index.toList with
  | some l => { n with index := vof 6 fun i => l.getD i 0 }
  | none => { n with done := true }

/-- Whether the nest of the focus core may take its next step: not before earlier drains have performed (08 R250), and
not while the core is stopped (R233) or saved (17 R410). -/
def State.canStep (s : State) : Bool :=
  match s.core.mx.nest with
  | some n => !n.done && decide (s.core.flt.stop = .run) && !vget s.core.flt.drained Engine.m.num false &&
      !(s.core.accesses.any fun a => match a.op with | .drain => decide (a.id < n.id) | _ => false)
  | none => false

/-- One step that passed its residue check at the first or, with `rerun`, at the second attempt (08 R243). -/
def State.takeStep (s : State) (rerun : Bool) : State :=
  match s.core.mx.nest with
  | none => s
  | some n =>
    let acc := s.stepTile n
    s.modFocus fun c =>
      let m := c.mx
      let m := if rerun then { m with reruns := min (m.reruns + 1) 65535, rtile := Fin.ofNat 32 n.tile } else m
      { c with mem := { c.mem with acc := acc }, mx := { m with table := n.advance } }

/-- `n` steps on, at most to the last. -/
def Nest.skip : Nat → Nest → Nest
  | 0, n => n
  | k + 1, n => Nest.skip k n.advance

/-- The running nest of the focus core reads `n` bytes of an operand block, from byte `off` on, of the step that lies `steps`
behind its next one: each byte of an operand is read at its own time (08 R242, 10 R299). -/
def State.readAhead (s : State) (steps : Nat) (second : Bool) (off n : Nat) : State :=
  if !s.canStep then s
  else
    match s.core.mx.nest with
    | none => s
    | some x =>
      let y := Nest.skip steps x
      if y.done then s
      else
        let sp := (s.coreAt (if second then x.bcore else x.acore)).mem.spad
        let p := if second then blockAddr x.src.bbase.toNat (y.offset fun l => l.sb)
          else blockAddr x.src.abase.toNat (y.offset fun l => l.sa)
        let read := fun k : Nat =>
          let a := (p + off + k) % 2 ^ 21
          (⟨steps, second, a, readByte sp a⟩ : NestRead)
        let one := fun a : NestRead => !x.ahead.any fun b => decide (b.steps = a.steps ∧ b.second = a.second ∧ b.addr = a.addr)
        let new := ((List.range n).map read).filter one
        s.modMx fun m => { m with table := { x with ahead := x.ahead ++ new } }

/-- NEST_COMPLETE: after the last step ACTIVE = 0 (08 R238). -/
def execNestComplete (s : State) : Result :=
  .next <|
    match s.core.mx.nest with
    | some n => if n.done then s.modMx fun m => { m with active := false } else s
    | none => s

/-! ## Accumulator banks (08 R244, R245) -/

/-- The banks of a mask. -/
def banksOf (mask : BitVec 8) : List Nat := (List.range 8).filter fun b => mask.getLsbD b

/-- The entries of a bank cleared. -/
def clearBank (acc : Sparse 57) (b : Nat) : Sparse 57 := spClear acc (4096 * b) (4096 * b + 4096)

/-- MALLOC (08 R244). -/
def execMalloc (banks : BitVec 8) (s : State) : Result :=
  s.mWord (.malloc banks) (fun _ => false) (4 :: (banksOf banks).map (23 + ·)) fun s =>
    let fresh := (banksOf banks).filter fun b => !s.core.mx.alloc.getLsbD b
    .ok (s.modFocus fun c => { c with
      mem := { c.mem with acc := fresh.foldl clearBank c.mem.acc }
      mx := { c.mx with alloc := c.mx.alloc ||| banks } }) .seq

/-- MFREE; of several unallocated banks DETAIL names the lowest (08 R244; DESIGN CHOICE, log entry 37). -/
def execMfree (banks : BitVec 8) (s : State) : Result :=
  s.mWord (.mfree banks) (fun c => c.busyTiles.any fun t => banks.getLsbD (t / 4))
    (4 :: (banksOf banks).map (23 + ·)) fun s =>
    match (banksOf banks).find? fun b => !s.core.mx.alloc.getLsbD b with
    | some b => .fault s (mkFault 0x0B b 0xFFFFFF 0)
    | none =>
      match s.core.bandHeld fun k => banks.getLsbD (k.tile.val / 4) with
      | some f => .fault s f
      | none => .ok (s.modMx fun m => { m with alloc := m.alloc &&& ~~~banks }) .seq

/-- The tiles of a mask. -/
def tilesOf (mask : BitVec 32) : List Nat := (List.range 32).filter fun t => mask.getLsbD t

/-- The entries of a tile cleared. -/
def clearTile (acc : Sparse 57) (t : Nat) : Sparse 57 := spClear acc (1024 * t) (1024 * t + 1024)

/-- MZERO (08 R245). -/
def execMzero (tiles : BitVec 32) (s : State) : Result :=
  s.mWord (.mzero tiles) (fun c => c.busyTiles.any fun t => tiles.getLsbD t) (4 :: (tilesOf tiles).map accDom) fun s =>
    match s.core.unallocated (tilesOf tiles) with
    | some f => .fault s f
    | none =>
      match s.core.bandHeld fun k => k.on (tilesOf tiles) with
      | some f => .fault s f
      | none => .ok (s.modFocus fun c =>
          { c with mem := { c.mem with acc := (tilesOf tiles).foldl clearTile c.mem.acc } }) .seq

/-! ## Claims (08 R246) -/

/-- A claim put into the lowest invalid entry. -/
def putClaim (k : Claim) : List ClaimEntry → List ClaimEntry
  | [] => []
  | x :: r => if x.valid then x :: putClaim k r else ⟨true, k⟩ :: r

/-- An entry of the claim table invalidated if it holds a claim; its fields keep their values. -/
def ClaimEntry.drop (x : ClaimEntry) (k : Claim) : ClaimEntry := if x.claim = k then { x with valid := false } else x

/-- MCLAIM; of several claims in the way ARG holds that of the lowest entry (08 R246; DESIGN CHOICE, log entry 37). -/
def execMclaim (tile frow lrow : Fin 32) (lg : Fin 4) (s : State) : Result :=
  s.mWord (.mclaim tile frow lrow lg) (fun c => c.busyTiles.any fun t => decide (t = tile.val)) [4, accDom tile.val] fun s =>
    match s.core.unallocated [tile.val] with
    | some f => .fault s f
    | none =>
      match s.core.claims.find? fun k => k.meets tile frow lrow with
      | some k => .fault s (mkFault 0x0C 1 k.pack 0)
      | none =>
        if s.core.claims.length = 16 then .fault s (mkFault 0x0C 2 0 0)
        else .ok (s.modMx fun m =>
          let k0 : Claim := ⟨tile, frow, lrow, lg⟩
          let l := putClaim k0 m.claims.toList
          { m with claims := vof 16 fun i => l.getD i ⟨false, k0⟩ }) .seq

/-- MRELEASE; it uses no state of the accumulator bank (08 R246, 01 R51). -/
def execMrelease (tile frow lrow : Fin 32) (lg : Fin 4) (s : State) : Result :=
  s.mWord (.mrelease tile frow lrow lg) (fun _ => false) [4] fun s =>
    let k : Claim := ⟨tile, frow, lrow, lg⟩
    match s.core.unallocated [tile.val] with
    | some f => .fault s f
    | none =>
      if s.core.claims.any (fun x => decide (x = k)) then
        .ok (s.modMx fun m => { m with claims := m.claims.map fun x => x.drop k }) .seq
      else .fault s (mkFault 0x0C 3 0 0)

/-! ## Drains (08 R247–R249) -/

/-- Whether 15 writes of earlier M words have not completed (08 R231). -/
def Core.writesFull (c : Core) : Bool := decide (15 ≤ c.mx.writes.length)

/-- A drained element: its code and flags (08 R247). -/
def drainElem (fmt : Ty) (mode : Mode1) (v : Nat) : Nat × Flags :=
  match fmt with
  | .i32 | .i16 | .i8 => (wrap fmt.width (satInt fmt.width (signed 32 v)), 0)
  | .f32 | .f16 | .bf16 => roundFp fmt mode (a56Unpack v)
  | _ => convertFp fmt mode true (a56Unpack v)

/-- The elements of a drain in order, their flags OF, UF and NX together, and the drain converter's generator after it
(08 R247, 04 R139). -/
def Core.drained (c : Core) (tile frow lrow : Fin 32) (fmt : Ty) (rm : Rm) : List Nat × Flags × Word32 :=
  let n := 32 * (lrow.val - frow.val + 1)
  let gens := (List.range ((n + 127) / 128)).foldl (fun gs _ => gs ++ [lfsrStep (gs.getLastD c.csr.genM)]) []
  let mode := fun e => if rm = .sr then srMode (gens.getD (e / 128) 0) e fmt else c.mode1 rm
  let rs := (List.range n).map fun e =>
    drainElem fmt (mode e) (c.accVal tile.val (frow.val + e / 32) (e % 32))
  let fl := rs.foldl (fun a r => a ||| r.2) 0 &&& (fOF ||| fUF ||| fNX)
  (rs.map fun r => r.1, fl, if rm = .sr then gens.getLastD c.csr.genM else c.csr.genM)

/-- The scratchpad banks of a drain. -/
def drainBanks (a n : Nat) : List Nat :=
  (List.range ((a + n - 1) / 2 ^ 17 - a / 2 ^ 17 + 1)).map fun i => 7 + a / 2 ^ 17 + i

/-- The hold and the domains of a tile destination, before the word's other checks; `first` is the fault that the word would raise
if it did not hold, which a passed stall bound leaves in its place (08 R232). -/
def State.tileDest (s : State) (top : TileRef) (stall : Stall) (first : Option FaultRec) (k : WordOut) : WordOut :=
  match needDoms s.core [1, 4] with
  | some f => .fault s f
  | none =>
    match s.core.tileWriteHold .m top (stallBound stall) with
    | some h => .hold s { h with first := first }
    | none => k

/-- An M write that has issued. -/
def State.mWrite (s : State) (d : MDest) (fl : Flags) : State :=
  s.modMx fun m => { m with writes := m.writes ++ [⟨d, fl⟩] }

/-- The fault of a word that reads a tile of the accumulator, in the order of R232: a domain that is not Awake, an unallocated
bank, a claim in the way. -/
def Core.accFault (c : Core) (doms : List Nat) (tile : Fin 32) (held : Claim → Bool) : Option FaultRec :=
  (needDoms c (doms ++ [4, accDom tile.val])).or ((c.unallocated [tile.val]).or (c.bandHeld held))

/-- A drain of rows of a tile, its faults found in the order of R232 (08 R247). -/
def State.drain (s : State) (tile frow lrow : Fin 32) (fmt : Ty) (rm : Rm) (doms : List Nat)
    (k : List Nat → Flags → State → WordOut) : WordOut :=
  match s.core.accFault doms tile (fun c => c.meets tile frow lrow) with
  | some f => .fault s f
  | none =>
    let (xs, fl, g) := s.core.drained tile frow lrow fmt rm
    k xs fl (s.modFocus fun c => { c with csr := { c.csr with genM := g } })

/-- MDRAIN (08 R247). While it holds for a nest or for the limit of outstanding writes, nothing counts toward the bound of its
destination (17 R398 is silent; DESIGN CHOICE, log entry 44). -/
def execMdrain (tile frow lrow : Fin 32) (dst : DrainDst) (fmt : Ty) (rm : Rm) (s : State) : Result :=
  s.word .m (.mdrain tile frow lrow dst fmt rm) fun s =>
    if s.core.writesFull || s.core.busyTiles.any (fun t => decide (t = tile.val)) then .hold s plainHold
    else
      let size := fmt.size
      match dst with
      | .spad a =>
        let n := 32 * size * (lrow.val - frow.val + 1)
        s.drain tile frow lrow fmt rm (drainBanks a.toNat n) fun xs fl s =>
          let (id, s) := s.freshId
          let own := s.core.id
          let us := (List.range xs.length).map fun e =>
            let off := a.toNat + e * size
            unitAt (.spad own off) off size (xs.getD e 0)
          let s := s.enqueue ⟨id, .m, 0, 0, .drain, us, 0, false, []⟩
          .ok (s.mWrite (.spad id) fl) .seq
      | .tile top stall =>
        s.tileDest top stall (s.core.accFault [1] tile fun c => c.meets tile frow lrow) <|
          s.drain tile frow lrow fmt rm [1] fun xs fl s =>
            let t := s.core.tileTo top
            let s := s.modFocus fun c => c.tileWritten .m top true
            .ok (s.mWrite (.tile t ((xs.map fun x => bytesOf size x).flatten)) fl) .seq

/-- The husk bitmap of a tile: 128 bytes, and zeros to the end of the tile register (08 R248). -/
def Core.huskBytes (c : Core) (tile : Nat) : List Byte :=
  (List.range 4096).map fun q =>
    if q < 128 then
      BitVec.ofNat 8 ((List.range 8).foldl (fun v i =>
        if (spGet c.mem.acc (1024 * tile + 8 * q + i)).getLsbD 56 then v + 2 ^ i else v) 0)
    else 0

/-- HUSK of every entry of a tile cleared (08 R248). -/
def clearHusk (acc : Sparse 57) (tile : Nat) : Sparse 57 :=
  (List.range 1024).foldl (fun acc i =>
    let e := spGet acc (1024 * tile + i)
    spSet acc (1024 * tile + i) (BitVec.ofNat 57 (e.toNat % 2 ^ 56))) acc

/-- MFLAGS and MFLAGS.C (08 R248). Their bound counts as that of MDRAIN does (DESIGN CHOICE, log entry 44). -/
def State.readFlags (s : State) (i : Instr) (tile : Fin 32) (dst : TileRef) (stall : Stall) (clear : Bool) : Result :=
  s.word .m i fun s =>
    if s.core.writesFull || s.core.busyTiles.any (fun t => decide (t = tile.val)) then .hold s plainHold
    else
      let fault := s.core.accFault [1] tile fun k => clear && k.on [tile.val]
      s.tileDest dst stall fault <|
        match fault with
        | some f => .fault s f
        | none =>
          let t := s.core.tileTo dst
          let bytes := s.core.huskBytes tile.val
          let s := s.modFocus fun c =>
            let c := c.tileWritten .m dst true
            if clear then { c with mem := { c.mem with acc := clearHusk c.mem.acc tile.val } } else c
          .ok (s.mWrite (.tile t bytes) 0) .seq

/-- MFLAGS (08 R248). -/
def execMflags (tile : Fin 32) (dst : TileRef) (stall : Stall) (s : State) : Result :=
  s.readFlags (.mflags tile dst stall) tile dst stall false

/-- MFLAGS.C (08 R248). -/
def execMflagsC (tile : Fin 32) (dst : TileRef) (stall : Stall) (s : State) : Result :=
  s.readFlags (.mflagsC tile dst stall) tile dst stall true

/-- MCHK (08 R249). Its bound counts as that of MDRAIN does (DESIGN CHOICE, log entry 44). -/
def execMchk (w : WNo) (stall : Stall) (s : State) : Result :=
  s.mWord (.mchk w stall) (fun c => c.mx.nest.isSome || c.writesFull) [4] fun s =>
    let r := s.core.regs.w[w]
    if !r.canWrite .m then .hold s (mkHold (0x40 + w.val) (r.writeProducer .m) (stallBound stall))
    else
      let v : Dword := BitVec.ofNat 64 (s.core.mx.reruns + s.core.mx.rtile.val * 2 ^ 16)
      let s := s.modFocus fun c => c.modW w fun r => r.beginWrite .m
      .ok ((s.mWrite (.word w v) 0).modMx fun m => { m with reruns := 0 }) .seq

/-- Whether the data of an M write may land now: a drain to the scratchpad has performed first (08 R250), and a stopped
core's writes wait for its return (R233, 17 R392) but complete in a save (17 R410). -/
def Core.writeReady (c : Core) (w : MWrite) : Bool :=
  (decide (c.flt.stop = .run ∨ c.flt.stop = .draining) || vget c.flt.drained Engine.m.num false) &&
  match w.dest with
  | .spad id => !c.accesses.any fun a => decide (a.id = id)
  | _ => true

/-- The data of an M write land (08 R247, R248, R249). -/
def Core.landWrite (c : Core) (w : MWrite) : Core :=
  let c := c.orFlags w.flags
  match w.dest with
  | .spad _ => c
  | .word n v => c.modW n fun r => { r with data := v }.complete
  | .tile t bytes => c.modT t fun r => { r with data := writeBytes r.data 0 bytes }.complete

/-- M_WRITE_COMPLETE: the data of the `k`-th outstanding M write land (08 R250). -/
def execMWriteComplete (k : Nat) (s : State) : Result :=
  .next <|
    match s.core.mx.writes[k]? with
    | some w =>
      if s.core.writeReady w then
        s.modFocus fun c =>
          let c := c.landWrite w
          { c with mx := { c.mx with writes := c.mx.writes.eraseIdx k } }
      else s
    | none => s

/-! ## Waits, loops and join (08 R251) -/

/-- Whether a nest runs or a write of an earlier M word has not completed. -/
def Core.matrixBusy (c : Core) : Bool := c.mx.nest.isSome || !c.mx.writes.isEmpty

/-- MWAIT (08 R251). -/
def execMwait (s : State) : Result := s.mWord .mwait Core.matrixBusy [4] fun s => .ok s .seq

/-- MLOOP (08 R251). -/
def execMloop (lvl : Fin 4) (count : LoopCount) (len : BitVec 12) (s : State) : Result :=
  s.mWord (.mloop lvl count len) (fun _ => false) [4] fun s => s.loopWord .m lvl count len

/-- MJOIN (08 R251). -/
def execMjoin (s : State) : Result := s.mWord .mjoin (fun _ => false) [4] fun s => s.joinEngine .m

/-- MNOP (08 R251). -/
def execMnop (s : State) : Result := s.mWord .mnop (fun _ => false) [4] fun s => .ok s .seq

end Sys2Proof.Machine
end

