-- ==== Sys2Proof/Machine/XDesc.lean ====
section
/-! DEFINITION. Copy descriptors: their layouts, limits and issue checks, and the position-by-position meaning of a
copy (09 R257–R273). -/

namespace Sys2Proof.Machine

/-! ## Fields -/

/-- A field of a descriptor: `n` bytes from byte `off` on, little-endian (09 R260). -/
def fld (d : List Byte) (off n : Nat) : Nat := leOf ((d.drop off).take n)

/-- A signed field. -/
def sfld (d : List Byte) (off n : Nat) : Int := signed (8 * n) (fld d off n)

/-- An address field. -/
def afld (d : List Byte) (off : Nat) : Dword := BitVec.ofNat 64 (fld d off 8)

/-- The size in bytes of a source type of XRED (09 R270). -/
def redSize (code : Nat) : Nat :=
  match code with
  | 0 | 8 => 4
  | 2 => 2
  | _ => 1

/-- A limit of a field: byte offset, bytes, least and greatest value (09 R260). -/
abbrev Limit := Nat × Nat × Nat × Nat

/-- The limits of each copy word's descriptor, by opcode (09 R262–R274). -/
def limits (op : Nat) : List Limit :=
  match op with
  | 1 => [(16, 2, 1, 65535), (18, 2, 1, 65535), (20, 2, 1, 65535), (22, 2, 1, 65535)]
  | 2 => [(20, 2, 1, 65535), (22, 2, 1, 65535), (24, 2, 1, 65535), (26, 2, 1, 65535), (28, 2, 1, 65535),
      (30, 2, 1, 65535), (32, 2, 1, 65535), (34, 1, 1, 255), (35, 1, 1, 255), (36, 1, 1, 255), (37, 1, 1, 255)]
  | 3 => [(16, 4, 1, 2 ^ 21), (32, 1, 0, 31)]
  | 4 => [(52, 4, 1, 2 ^ 24)]
  | 5 | 6 => [(24, 4, 1, 2 ^ 20), (28, 4, 1, 65535)]
  | 7 => [(8, 2, 0, 16368), (10, 2, 16, 16384)]
  | 8 => [(16, 4, 1, 2 ^ 20), (20, 1, 0, 2)]
  | 9 => [(24, 8, 0, 2 ^ 21 - 8), (32, 1, 0, 11), (33, 1, 0, 1)]
  | 11 => [(24, 4, 1, 2 ^ 32 - 1)]
  | _ => []

/-- The bytes a table names, as ranges with the bits named in each byte (09 R260). -/
def named (op : Nat) : List (Nat × Nat × Nat) :=
  match op with
  | 1 => [(0, 56, 255), (56, 1, 3), (60, 4, 255)]
  | 2 => [(0, 42, 255), (44, 12, 255), (56, 1, 3), (60, 4, 255)]
  | 3 => [(0, 20, 255), (24, 9, 255)]
  | 4 => [(0, 48, 255), (48, 1, 3), (52, 4, 255)]
  | 5 | 6 => [(0, 44, 255)]
  | 7 => [(0, 12, 255)]
  | 8 => [(0, 23, 255)]
  | 9 => [(0, 34, 255)]
  | 10 => [(0, 14, 255), (14, 1, 0x19)]
  | 11 => [(0, 32, 255)]
  | _ => [(0, 8, 255)]

/-- The named bits of byte `k`. -/
def namedBits (op k : Nat) : Nat :=
  match (named op).find? fun r => decide (r.1 ≤ k ∧ k < r.1 + r.2.1) with
  | some r => r.2.2
  | none => 0

/-- The nominal bytes of a copy and the offset that names them in a fault (09 R261). -/
def nominal (op : Nat) (d : List Byte) : Nat × Nat :=
  let esz : Nat := 2 ^ (fld d 56 1 % 4)
  match op with
  | 1 => (fld d 16 2 * fld d 18 2 * fld d 20 2 * fld d 22 2 * esz, 16)
  | 2 => (fld d 20 2 * fld d 22 2 * esz, 20)
  | 3 => (fld d 16 4, 16)
  | 4 => (fld d 52 4 * (4 + 2 ^ (fld d 48 1 % 4)), 48)
  | 5 | 6 => (fld d 24 4 * fld d 28 4, 24)
  | 7 => (fld d 10 2, 10)
  | 8 => (4 * fld d 16 4, 16)
  | 9 => (8, 0)
  | _ => (0, 0)

/-- The offset of a field whose value breaks a limit that joins fields (09 R267, R269–R271, R273, R274; DEDUCED, log entry
32 for XAMO). -/
def joinedLimit (op : Nat) (d : List Byte) : Option Nat :=
  match op with
  | 4 => if fld d 44 4 < fld d 40 4 then some 40 else none
  | 7 =>
    if fld d 8 2 % 16 ≠ 0 then some 8
    else if fld d 10 2 % 16 ≠ 0 then some 10
    else if 16384 < fld d 8 2 + fld d 10 2 then some 10 else none
  | 8 =>
    let sty := fld d 21 1
    let dty := fld d 22 1
    if dty ≠ 0 ∧ dty ≠ 8 then some 22
    else if dty = 8 then (if sty = 8 then none else some 21)
    else if sty = 0 ∨ sty = 2 ∨ sty = 3 ∨ sty = 5 then none else some 21
  | 9 =>
    if fld d 24 8 % 8 ≠ 0 then some 24
    else if (fld d 32 1 = 9 ∨ fld d 32 1 = 10) ∧ fld d 33 1 = 1 then some 33 else none
  | 11 => if fld d 0 8 % 32 ≠ 0 then some 0 else none
  | 12 => if fld d 0 8 % 128 ≠ 0 then some 0 else none
  | _ => none

/-- Whether an address is a scratchpad address with PEER not 0. -/
def peerField (ea : Dword) : Bool := match classify ea with | .spad p _ => decide (p ≠ 0) | _ => false

/-- The destination fields written at COORD when CV = 1, and XMCAST's DST (10 R290, 09 R257). -/
def remoteFields (op : Nat) (cv : Bool) : List Nat :=
  match op with
  | 1 | 2 => if cv then [8] else []
  | 3 => [8]
  | 4 => if cv then [24, 32] else []
  | 5 => if cv then [16] else []
  | _ => []

/-- Orders 2: *illegal encoding* or *reserved field nonzero* from the descriptor (09 R260, R285; 10 R290). Of several illegal fields
DETAIL names the first in this order: the limits of the table by offset, the joint ones, PEER, the nominal size, the reserved bits; an
OFF + LEN of XSMD beyond side memory names LEN, and a pair of types that is not allowed names STY (DESIGN CHOICE, log entry 43). -/
def descFault (op : Nat) (d : List Byte) (cv : Bool) (desc : Nat) : Option FaultRec :=
  let ill := fun off => some (mkFault 0x01 (0x40 + off) desc 0)
  match (limits op).find? fun l => decide (fld d l.1 l.2.1 < l.2.2.1 ∨ l.2.2.2 < fld d l.1 l.2.1) with
  | some l => ill l.1
  | none =>
    match joinedLimit op d with
    | some off => ill off
    | none =>
      match (remoteFields op cv).find? fun off => peerField (afld d off) with
      | some off => ill off
      | none =>
        let (n, off) := nominal op d
        if 2 ^ 32 ≤ n then ill off
        else
          match (List.range 64).find? fun k => decide (fld d k 1 &&& namedBits op k ≠ fld d k 1) with
          | some k => some (mkFault 0x02 (0x40 + k) desc 0)
          | none => none

/-! ## Partition members (09 R265, R266) -/

/-- The launch a core runs. -/
def State.launchOf (s : State) (c : Core) : Option Launch :=
  match c.resident with
  | some r => s.dev.launches.find? fun l => decide (l.key = r.launch)
  | none => none

/-- The launch whose members are the partition of the focus core: of a task unit, that of its pool (14 R348). -/
def State.partition (s : State) : Option Launch :=
  match s.launchOf s.core with
  | some l =>
    match l.root with
    | some k => s.dev.launches.find? fun o => decide (o.key = k)
    | none => some l
  | none => none

/-- The logical columns of a launch (14 R332). -/
def Launch.cols (l : Launch) : Nat := (vget l.record.pv l.variant 0).toNat / 2 ^ 55 % 16 + 1

/-- The member cores of the partition of the focus core's launch, in partition order. -/
def State.members (s : State) : List CoreId :=
  match s.partition with
  | some l => l.members
  | none => []

/-- The member at a partition row and logical column. -/
def State.memberAt (s : State) (row col : Nat) : Option CoreId :=
  match s.partition with
  | some l => if col < l.cols then l.members[row * l.cols + col]? else none
  | none => none

end Sys2Proof.Machine

namespace Sys2Proof

/-- The core of a coordinate field, in the layout of COREID (03 R101, 01 R15). -/
def CoreId.ofField (v : BitVec 10) : CoreId := ⟨v.toNat / 256 % 4, v.toNat / 32 % 8, v.toNat % 32⟩

end Sys2Proof

namespace Sys2Proof.Machine

/-- Order 3: *partition violation*: COORD, or the first bit of DMASK outside the partition (09 R265, R266, R285). -/
def State.partitionFault (s : State) (op : Nat) (d : List Byte) (coord : Option (BitVec 10)) : Option FaultRec :=
  match coord with
  | some v =>
    if v.toNat % 32 ≤ 17 ∧ CoreId.ofField v ∈ s.members then none else some (mkFault 0x0D 0 v.toNat 0)
  | none =>
    if op = 3 then
      ((List.range 64).find? fun i =>
        (fld d 24 8).testBit i && (s.memberAt (fld d 32 1 + i / 16) (i % 16)).isNone).map fun i => mkFault 0x0D 1 i 0
    else none

/-- The destinations of an XMCAST, in the order of its mask (09 R265). -/
def State.mcastDests (s : State) (d : List Byte) : List CoreId :=
  (List.range 64).filterMap fun i =>
    if (fld d 24 8).testBit i then s.memberAt (fld d 32 1 + i / 16) (i % 16) else none

/-! ## Alignment (09 R262, R264, R267, R268, R270, R271) -/

/-- The unit of a row (09 R268). -/
def rowUnit (n : Nat) : Nat := if n % 8 = 0 then 8 else if n % 4 = 0 then 4 else if n % 2 = 0 then 2 else 1

/-- The values that must be multiples of a size, each with the address of the fault: of a stride or pitch it is the address that it is
added to. Of several that fail the first of the list is recorded (DESIGN CHOICE, log entry 43). -/
def alignments (op : Nat) (d : List Byte) : List (Int × Nat × Dword) :=
  let a := fun off (n : Nat) => ((fld d off 8 : Int), n, afld d off)
  let esz : Nat := 2 ^ (fld d 56 1 % 4)
  match op with
  | 1 =>
    let stride := fun (k : Nat) =>
      if 1 < fld d (16 + 2 * k) 2 then
        [(sfld d (20 + 4 * k) 4, esz, afld d 0), (sfld d (32 + 4 * k) 4, esz, afld d 8)]
      else []
    [a 0 esz, a 8 esz] ++ stride 1 ++ stride 2 ++ stride 3
  | 2 => [a 0 esz, a 8 esz, ((fld d 44 4 : Int), esz, afld d 8), ((fld d 48 4 : Int), esz, afld d 0),
      ((fld d 52 4 : Int), esz, afld d 0)]
  | 4 =>
    let vsz : Nat := 2 ^ (fld d 48 1 % 4)
    [a 0 4, a 8 4, a 16 vsz, a 24 4, a 32 vsz]
  | 5 | 6 =>
    let u := rowUnit (fld d 28 4)
    [a 0 u, a 16 u, (sfld d 32 4, u, afld d 0), a 8 4]
  | 8 => [a 0 (redSize (fld d 21 1)), a 8 4]
  | 9 => [a 0 (if fld d 33 1 = 1 then 8 else 4)]
  | _ => []

/-- Order 4: *misaligned*. -/
def misalignedCopy (op : Nat) (d : List Byte) : Option FaultRec :=
  ((alignments op d).find? fun x => decide (x.1 % (x.2.1 : Int) ≠ 0)).map fun x => mkFault 0x0F x.2.1 0 x.2.2

/-! ## The bytes a copy can touch (09 R258) -/

/-- A range of bytes a copy can touch: base address, first and last byte relative to it, whether it is a destination
field of another core, and whether only the base's class is known at issue. -/
structure Reach where
  base : Dword
  lo : Int
  hi : Int
  remote : Bool
  loose : Bool
  deriving DecidableEq, Repr

/-- Offsets of a strided run: least and greatest over counts and strides (08 R238). -/
def strided (base : Dword) (lo hi : Int) (dims : List (Nat × Int)) (size : Nat) (remote : Bool) : Reach :=
  let least := dims.foldl (fun a p => a + min 0 (((p.1 : Int) - 1) * p.2)) lo
  let most := dims.foldl (fun a p => a + max 0 (((p.1 : Int) - 1) * p.2)) hi
  ⟨base, least, most + size - 1, remote, false⟩

/-- The in-bounds part of `n` places from origin `o` on under extent `l`: first place and count (09 R262). -/
def inBounds (o : Int) (n l : Nat) : Int × Nat :=
  let first := max o 0
  let last := if l = 0 then o + n - 1 else min (o + n - 1) ((l : Int) - 1)
  (first, (last - first + 1).toNat)

/-- The reach of a source run of an XCOPY and its destination (09 R262). -/
def xcopyReach (d : List Byte) (fill : Bool) : List Reach :=
  let esz : Nat := 2 ^ (fld d 56 1 % 4)
  let (a0, k0) := inBounds (sfld d 48 2) (fld d 16 2) (fld d 52 2)
  let (a1, k1) := inBounds (sfld d 50 2) (fld d 18 2) (fld d 54 2)
  let n2 := fld d 20 2
  let n3 := fld d 22 2
  let src := a0 * esz + a1 * sfld d 24 4
  let inb := decide (k0 ≠ 0 ∧ k1 ≠ 0)
  let dst0 := (a0 - sfld d 48 2) * esz + (a1 - sfld d 50 2) * sfld d 36 4
  let outer := [(n2, sfld d 40 4), (n3, sfld d 44 4)]
  (if inb then
    [strided (afld d 0) src src [(k0, esz), (k1, sfld d 24 4), (n2, sfld d 28 4), (n3, sfld d 32 4)] esz false]
   else []) ++
  (if fill then
    [strided (afld d 8) 0 0 ([(fld d 16 2, (esz : Int)), (fld d 18 2, sfld d 36 4)] ++ outer) esz true]
   else if inb then [strided (afld d 8) dst0 dst0 ([(k0, (esz : Int)), (k1, sfld d 36 4)] ++ outer) esz true]
   else [])

/-- The pixel of position `q` of an XCONV: its byte offset in the image, if it lies in bounds (09 R264). -/
def convPixel (d : List Byte) (q : Nat) : Option Int :=
  let esz : Nat := 2 ^ (fld d 56 1 % 4)
  let p := fld d 16 4 + q
  let h := fld d 24 2
  let w := fld d 26 2
  let oh := fld d 28 2
  let ow := fld d 30 2
  let b := p / (oh * ow)
  let iy : Int := ((p / ow % oh * fld d 34 1 + fld d 38 1 * fld d 36 1 : Nat) : Int) - fld d 40 1
  let ix : Int := ((p % ow * fld d 35 1 + fld d 39 1 * fld d 37 1 : Nat) : Int) - fld d 41 1
  if b < fld d 32 2 ∧ 0 ≤ iy ∧ iy < h ∧ 0 ≤ ix ∧ ix < w then
    some ((b : Int) * fld d 52 4 + iy * fld d 48 4 + ix * (fld d 22 2 * esz : Nat))
  else none

/-- The reach of an XCONV over its positions (09 R264). -/
def xconvReach (d : List Byte) (fill : Bool) : List Reach :=
  let esz : Nat := 2 ^ (fld d 56 1 % 4)
  let row := fld d 22 2 * esz
  let qs := List.range (fld d 20 2)
  let src := (qs.filterMap fun q => convPixel d q)
  let dst := (qs.filter fun q => fill || (convPixel d q).isSome).map fun q => ((q * fld d 44 4 : Nat) : Int)
  let hull := fun (base : Dword) (os : List Int) (remote : Bool) =>
    match os with
    | [] => []
    | o :: r => [(⟨base, r.foldl min o, r.foldl max o + row - 1, remote, false⟩ : Reach)]
  hull (afld d 0) src false ++ hull (afld d 8) dst true

/-- A run of `n` bytes from a base on. -/
def flat (base : Dword) (n : Nat) (remote : Bool) : Reach := ⟨base, 0, (n : Int) - 1, remote, false⟩

/-- What the word and its descriptor alone fix of what a copy can touch (09 R258); that of an XLINK follows from its program. -/
def reaches (op : Nat) (d : List Byte) (fill : Bool) : List Reach :=
  let loose := fun off => (⟨afld d off, 0, 0, false, true⟩ : Reach)
  match op with
  | 1 => xcopyReach d fill
  | 2 => xconvReach d fill
  | 3 => [flat (afld d 0) (fld d 16 4) false, flat (afld d 8) (fld d 16 4) true]
  | 4 =>
    let at4 := fun k => (⟨afld d 0, 4 * (k : Nat), 4 * (k : Nat) + 3, false, false⟩ : Reach)
    [at4 (fld d 40 4), at4 (fld d 44 4), loose 8, loose 16, flat (afld d 24) (4 * fld d 52 4) true,
      flat (afld d 32) (2 ^ (fld d 48 1 % 4) * fld d 52 4) true]
  | 5 => [flat (afld d 8) (4 * fld d 24 4) false, loose 0, flat (afld d 16) (fld d 24 4 * fld d 28 4) true]
  | 6 => [flat (afld d 8) (4 * fld d 24 4) false, loose 0, flat (afld d 16) (fld d 24 4 * fld d 28 4) false]
  | 7 => [flat (afld d 0) (fld d 10 2) false]
  | 8 => [flat (afld d 0) (redSize (fld d 21 1) * fld d 16 4) false, flat (afld d 8) (4 * fld d 16 4) false]
  | 9 => [flat (afld d 0) (if fld d 33 1 = 1 then 8 else 4) false]
  | 10 => [loose 0]
  | 11 => []
  | _ => [loose 0]

/-- The fields that accept virtual addresses alone (09 R270, R272, R274; 21 R457), or scratchpad addresses alone (R265). -/
def classWrong (op : Nat) (d : List Byte) : Option Dword :=
  let virt := fun off => match classify (afld d off) with | .virt _ => none | _ => some (afld d off)
  let spad := fun off => match classify (afld d off) with | .spad _ _ => none | _ => some (afld d off)
  match op with
  | 3 => spad 8
  | 8 => virt 8
  | 10 | 11 | 12 => virt 0
  | _ => none

/-- A byte of a reach. -/
def Reach.addr (r : Reach) (o : Int) : Dword := r.base + BitVec.ofInt 64 o

/-- Whether a reach leaves its class (09 R257, 10 R288). -/
def Reach.bad (r : Reach) : Bool :=
  if r.loose then decide (classify r.base = .bad)
  else
    match classify (r.addr r.lo), classify (r.addr r.hi) with
    | .virt a, .virt b => decide ((b : Int) - a ≠ r.hi - r.lo)
    | .spad p a, .spad q b => decide (p ≠ q ∨ (b : Int) - a ≠ r.hi - r.lo)
    | _, _ => true

/-- Order 5: *protection* of an address class (09 R285). -/
def classFaultCopy (op : Nat) (d : List Byte) (fill : Bool) : Option FaultRec :=
  match classWrong op d with
  | some a => some (mkFault 0x0A 1 0 a)
  | none => ((reaches op d fill).find? Reach.bad).map fun r => mkFault 0x0A 1 0 r.base

/-- The scratchpad banks of a reach: the cores that hold them and an offset in each (09 R258). -/
def State.reachBanks (s : State) (targets : List CoreId) (r : Reach) : List (CoreId × Nat) :=
  if r.loose then []
  else
    match classify (r.addr r.lo) with
    | .spad peer off =>
      let cores := if r.remote && !targets.isEmpty then targets else [s.core.peerId peer]
      let n := (off % 2 ^ 17 + (r.hi - r.lo).toNat) / 2 ^ 17 + 1
      (cores.map fun c => (List.range n).map fun i => (c, (off / 2 ^ 17 + i) * 2 ^ 17)).flatten
    | _ => []

/-- The banks a copy can touch, RES of an XAMO among them (09 R258, R271). -/
def State.copyBanks (s : State) (op : Nat) (d : List Byte) (fill : Bool) (targets : List CoreId) : List (CoreId × Nat) :=
  -- an XMCAST without a destination touches nothing (09 R265)
  if op = 3 ∧ targets.isEmpty then []
  else ((reaches op d fill).map (s.reachBanks targets)).flatten ++ (if op = 9 then [(s.core.id, fld d 24 8)] else [])

/-- Order 6: an operand bank, or d.smd for XSMD (09 R269, R285): the lowest-numbered of the core's own first. -/
def State.bankFault (s : State) (op : Nat) (banks : List (CoreId × Nat)) : Option FaultRec :=
  let own := banks.filter fun b => decide (b.1 = s.core.id)
  match needDoms s.core ((if op = 7 then [6] else []) ++ own.map fun b => bankDom b.2) with
  | some f => some f
  | none => banks.findSome? fun b => s.touchAt b.1 b.2

/-! ## What a copy does at each position (09 R262–R272) -/

/-- A place that a copy reads or writes. -/
inductive Spot where
  /-- An effective address of the copy's core. -/
  | here (ea : Dword)
  /-- A destination field: in the scratchpad of the `k`-th destination where it is a scratchpad address. -/
  | dest (ea : Dword) (k : Nat)
  /-- A byte of the local side memory. -/
  | side (off : Nat)
  /-- A byte of XMIG's new frame. -/
  | frame (off : Nat)
  deriving DecidableEq, Repr

/-- What a copy does at a position. -/
inductive XStep where
  /-- Every access has performed. -/
  | done
  /-- Nothing lies here. -/
  | skip
  /-- A fill pattern is written. -/
  | fill (d : Spot) (size v : Nat)
  /-- Bytes are read and then written; `keep`: the next destination takes the same value. -/
  | move (src d : Spot) (size : Nat) (keep : Bool)
  /-- A table entry of 4 bytes is read into the first or the second value. -/
  | index (ea : Dword) (second : Bool)
  /-- An element is read and then reduced at its bank. -/
  | reduce (src : Dword) (sty : Nat) (d : Dword) (dty op : Nat)
  /-- The operation of an XAMO at its home. -/
  | atomic (ea : Dword) (fn size : Nat) (operand compare : Dword)
  /-- The old value of an XAMO is written to RES. -/
  | result (off size : Nat)
  deriving DecidableEq, Repr

/-- fill(esz) (09 R263). -/
def fillValue (pattern esz : Nat) : Nat := if esz ≤ 4 then pattern % 2 ^ (8 * esz) else pattern + pattern * 2 ^ 32

/-- The address `o` bytes from a base. -/
def offAddr (base : Dword) (o : Int) : Dword := base + BitVec.ofInt 64 o

/-- Position `p` of an XCOPY, j0 innermost (09 R262). -/
def xcopyStep (d : List Byte) (fill : Bool) (p : Nat) : XStep :=
  let esz : Nat := 2 ^ (fld d 56 1 % 4)
  let n0 := fld d 16 2
  let n1 := fld d 18 2
  let n2 := fld d 20 2
  let n3 := fld d 22 2
  if n0 * n1 * n2 * n3 ≤ p then .done
  else
    let j0 := p % n0
    let j1 := p / n0 % n1
    let j2 := p / (n0 * n1) % n2
    let j3 := p / (n0 * n1 * n2)
    let x0 := sfld d 48 2 + j0
    let x1 := sfld d 50 2 + j1
    let l0 := fld d 52 2
    let l1 := fld d 54 2
    let dst := offAddr (afld d 8) ((j0 * esz : Nat) + j1 * sfld d 36 4 + j2 * sfld d 40 4 + j3 * sfld d 44 4)
    if 0 ≤ x0 ∧ (l0 = 0 ∨ x0 < l0) ∧ 0 ≤ x1 ∧ (l1 = 0 ∨ x1 < l1) then
      let src := offAddr (afld d 0) (x0 * (esz : Int) + x1 * sfld d 24 4 + j2 * sfld d 28 4 + j3 * sfld d 32 4)
      .move (.here src) (.dest dst 0) esz false
    else if fill then .fill (.dest dst 0) esz (fillValue (fld d 60 4) esz)
    else .skip

/-- Position `p` of an XCONV: channel `p mod C` of position `p div C` (09 R264). -/
def xconvStep (d : List Byte) (fill : Bool) (p : Nat) : XStep :=
  let esz : Nat := 2 ^ (fld d 56 1 % 4)
  let c := fld d 22 2
  let q := p / c
  if fld d 20 2 ≤ q then .done
  else
    let dst := offAddr (afld d 8) ((q * fld d 44 4 + p % c * esz : Nat) : Int)
    match convPixel d q with
    | some o => .move (.here (offAddr (afld d 0) (o + (p % c * esz : Nat)))) (.dest dst 0) esz false
    | none => if fill then .fill (.dest dst 0) esz (fillValue (fld d 60 4) esz) else .skip

/-- Position `p` of an XMCAST to `k` destinations (09 R265). -/
def xmcastStep (d : List Byte) (k p : Nat) : XStep :=
  let len := fld d 16 4
  let u := if len % 8 = 0 ∧ fld d 0 8 % 8 = 0 ∧ fld d 8 8 % 8 = 0 then 8 else 1
  if k = 0 ∨ len ≤ p / k * u then .done
  else
    let o : Int := (p / k * u : Nat)
    .move (.here (offAddr (afld d 0) o)) (.dest (offAddr (afld d 8) o) (p % k)) u (decide (p % k + 1 < k))

/-- Position `p` of an XCSR: the two row pointers, then index and value of each entry (09 R267). -/
def xcsrStep (d : List Byte) (aux : Nat × Nat) (p : Nat) : XStep :=
  let vsz : Nat := 2 ^ (fld d 48 1 % 4)
  match p with
  | 0 => .index (offAddr (afld d 0) (4 * fld d 40 4 : Nat)) false
  | 1 => .index (offAddr (afld d 0) (4 * fld d 44 4 : Nat)) true
  | p + 2 =>
    let n := min (aux.2 - aux.1) (fld d 52 4)
    let e := p / 2
    if n ≤ e then .done
    else if p % 2 = 0 then
      .move (.here (offAddr (afld d 8) (4 * (aux.1 + e) : Nat))) (.dest (offAddr (afld d 24) (4 * e : Nat)) 0) 4 false
    else
      .move (.here (offAddr (afld d 16) (vsz * (aux.1 + e) : Nat))) (.dest (offAddr (afld d 32) (vsz * e : Nat)) 0) vsz
        false

/-- Position `p` of an XGATHER or XSCATTER: the index of a row, then its units (09 R268). -/
def xrowStep (d : List Byte) (scatter fill : Bool) (aux : Nat × Nat) (p : Nat) : XStep :=
  let rowb := fld d 28 4
  let u := rowUnit rowb
  let per := 1 + rowb / u
  let i := p / per
  if fld d 24 4 ≤ i then .done
  else if p % per = 0 then .index (offAddr (afld d 8) (4 * i : Nat)) false
  else
    let k := (p % per - 1) * u
    let x := signed 32 aux.1
    let lim := fld d 36 4
    let tbl := offAddr (afld d 0) (x * sfld d 32 4 + (k : Int))
    let dns := offAddr (afld d 16) ((i * rowb + k : Nat) : Int)
    if 0 ≤ x ∧ (lim = 0 ∨ x < lim) then
      if scatter then .move (.here dns) (.here tbl) u false else .move (.here tbl) (.dest dns 0) u false
    else if fill && !scatter then .fill (.dest dns 0) u (fillValue (fld d 40 4) u)
    else .skip

/-- Position `p` of an XMIG of a page of `n` bytes, 0 while no leaf has given its size (09 R272). An access unit is 8 bytes, which
divide every page and frame: 09 R257 gives XMIG no element (DESIGN CHOICE, log entry 39). -/
def xmigStep (d : List Byte) (n p : Nat) : XStep :=
  if n ≠ 0 ∧ n ≤ 8 * p then .done
  else .move (.here (offAddr (afld d 0) ((8 * p : Nat) : Int))) (.frame (8 * p)) 8 false

/-- What a copy does at its position. An access unit of XSMD is one byte: 09 R257 gives it no element (DESIGN CHOICE, log entry 39). -/
def Copy.step (c : Copy) : XStep :=
  let d := c.desc
  match c.op with
  | 1 => xcopyStep d c.fill c.pos
  | 2 => xconvStep d c.fill c.pos
  | 3 => xmcastStep d c.dests.length c.pos
  | 4 => xcsrStep d c.aux c.pos
  | 5 => xrowStep d false c.fill c.aux c.pos
  | 6 => xrowStep d true false c.aux c.pos
  | 7 => if fld d 10 2 ≤ c.pos then .done
    else .move (.here (offAddr (afld d 0) c.pos)) (.side (fld d 8 2 + c.pos)) 1 false
  | 8 => if fld d 16 4 ≤ c.pos then .done
    else
      let sz := redSize (fld d 21 1)
      .reduce (offAddr (afld d 0) (sz * c.pos : Nat)) (fld d 21 1) (offAddr (afld d 8) (4 * c.pos : Nat)) (fld d 22 1)
        (fld d 20 1)
  | 9 =>
    let size := if fld d 33 1 = 1 then 8 else 4
    match c.pos with
    | 0 => .atomic (afld d 0) (if fld d 32 1 = 11 then casFn else fld d 32 1) size (afld d 8) (afld d 16)
    | 1 => .result (fld d 24 8) size
    | _ => .done
  | 10 => xmigStep d c.aux.1 c.pos
  | _ => .done

end Sys2Proof.Machine
end

