-- ==== Sys2Proof/Machine/Copies.lean ====
section
/-! DEFINITION. Copies in flight: how a copy reaches its places, makes its accesses, stops, credits its casks and
completes, and chain walks (09 R253–R258, R262–R275, R278–R281; 21 R455–R457). -/

namespace Sys2Proof.Machine

/-- One copy of the focus core changed. -/
def State.modCopy (s : State) (id : Nat) (f : Copy → Copy) : State :=
  s.modFocus fun c => c.modXc fun x => { x with copies := x.copies.map fun k => if k.id = id then f k else k }

/-- A copy in flight of the focus core. -/
def Core.copy? (c : Core) (id : Nat) : Option Copy := c.xc.copies.find? fun k => decide (k.id = id)

/-! ## Reaching a place (09 R257, R258) -/

/-- What reaching a place gives: its home, the side memory, a wait at a sleeping SBM bank (15 R361), or a stop. -/
inductive Reached where
  | home (h : Home)
  | side (off : Nat)
  | wait
  | stop (parked : Bool) (code va : Nat)
  deriving DecidableEq, Repr

/-- The place of an effective address whose scratchpad addresses name the scratchpad of `owner`. An address computed after issue
that is of neither class stops the copy with code 0x0A, and one that crosses PEER reaches the other scratchpad (DESIGN CHOICE, log
entry 39). -/
def State.reachEa (s : State) (ea : Dword) (owner : Option CoreId) (kind : Kind) : Reached × State :=
  match classify ea with
  | .virt va =>
    let (t, s') := s.translate .x va kind
    match t with
    | .ok h _ => (if s'.dev.homeReady h then .home h else .wait, s')
    | .invalid => (.stop false 0x09 va, s')
    | .forbidden _ => (.stop false 0x0A va, s')
    | .parked => (.stop true 0x0A va, s')
  | .spad p off =>
    let id := owner.getD (s.core.peerId p)
    match s.touchAt id off with
    | none => (.home (.spad id off), s)
    | some _ => (.stop false 0x04 ea.toNat, s)
  | .bad => (.stop false 0x0A ea.toNat, s)

/-- The physical frame that XMIG names: LOC in bits 52:51, the address in bits 48:0 (19 R425). -/
def frameHome (d : List Byte) (off : Nat) : Home :=
  homeOf (fld d 8 8 / 2 ^ 51 % 4) (fld d 8 8 % 2 ^ 49 + off) false

/-- The place of a copy's spot. -/
def State.reachSpot (s : State) (c : Copy) (sp : Spot) (kind : Kind) : Reached × State :=
  match sp with
  | .here ea => s.reachEa ea none kind
  | .dest ea k => s.reachEa ea c.dests[k]? kind
  | .side off => (.side off, s)
  | .frame off =>
    let h := frameHome c.desc off
    (if s.dev.homeReady h then .home h else .wait, s)

/-- The leaf that the issuing context's tree gives for an address through the X engine's TLB (19 R430, R437). -/
def State.peekX (s : State) (va : Nat) : Found :=
  match s.ctx with
  | none => .invalid
  | some c => lookup s.dev.hbm c.ptroot c.id s.core.tlbX va

/-- The bytes of the page that XMIG moves, where the leaf for its byte `off` lets it move: MWP = 1, VA the first byte of the page, and
FRAME a frame of its size (09 R272, 19 R437). -/
def State.migLeaf (s : State) (d : List Byte) (off : Nat) : Option Nat :=
  let frame := fld d 8 8 % 2 ^ 49
  match s.peekX (fld d 0 8 + off) with
  | .leaf e pb _ =>
    if ebits e 4 1 = 1 ∧ fld d 0 8 % 2 ^ pb = 0 ∧ frame % 2 ^ pb = 0 ∧ physBacked (fld d 8 8 / 2 ^ 51 % 4) frame then some (2 ^ pb)
    else none
  | _ => none

/-! ## Reductions (09 R270, 10 R298) -/

/-- One step of an XRED: OP 0 add, 1 multiply, 2 max; DTY f32 or i32 (09 R270). -/
def redNew (op sty dty old x : Nat) : Nat :=
  if dty = 8 then
    let a := signed 32 old
    let b := signed 32 x
    wrap 32 (match op with | 0 => a + b | 1 => a * b | _ => max a b)
  else
    let st : Ty := match sty with | 2 => .bf16 | 3 => .e4m3 | 5 => .t8 | _ => .f32
    let a := decodeFp .f32 old
    let b := (decodeFp st x).quiet
    match op with
    | 0 => (roundFp .f32 .rne (numAdd false a b).1).1
    | 1 => (roundFp .f32 .rne (numMul a b).1).1
    | _ =>
      if a.isNaN || b.isNaN then defaultNaN .f32
      else if numLt a b then (roundFp .f32 .rne b).1 else old

/-! ## Accesses -/

/-- The copy stops at its access; the X engine issues no word while a copy is stopped (09 R258). -/
def State.stopCopy (s : State) (id : Nat) (parked : Bool) (code acc va : Nat) : State :=
  s.modCopy id fun k => { k with stop := some ⟨none, parked, code, acc, va, s.pageBits .x va⟩ }

/-- Whether a copy is idempotent (09 R261, R284). -/
def Copy.idempotent (k : Copy) : Bool := decide (k.op ≠ 8 ∧ k.op ≠ 9 ∧ k.op ≠ 11)

/-- Whether a deep save of the focus core's context is under way (17 R410). -/
def State.saving (s : State) : Bool := match s.ctx with | some c => c.saveBy.isSome | none => false

/-- Whether one of these copies is in flight; a copy that a deep save cancels still is, until its replay has completed (17 R411,
R414). -/
def CopyEng.awaits (x : CopyEng) (ids : List Nat) : Bool := x.copies.any fun o => ids.contains o.id

/-- Whether a copy may make its next access: it has entered the queue logic, every copy it waits for has completed,
and it is not stopped (09 R253, R255, R258, R281). -/
def CopyEng.mayAccess (x : CopyEng) (k : Copy) : Bool :=
  k.entered && !k.sent && k.stop.isNone && !x.awaits k.after

/-- Bytes written at a reached place. -/
def State.putReached (s : State) (r : Reached) (size v : Nat) : State :=
  match r with
  | .home h => s.writeHome s.core.ctxId h size v
  | .side off => s.modFocus fun c => { c with mem := { c.mem with side := writeLE c.mem.side off size v } }
  | _ => s

/-- The write of a value at a spot; what follows changes the copy. -/
def State.copyWrite (s : State) (c : Copy) (sp : Spot) (size v : Nat) (next : Copy → Copy) : State :=
  let (r, s) := s.reachSpot c sp .write
  match r with
  | .wait => s
  | .stop parked code va => s.stopCopy c.id parked code 1 va
  | r => (s.putReached r size v).modCopy c.id next

/-- The stored lengths of the blocks go with their bytes from a compressed page to an HBM frame (19 R437): the code of
the block at the new frame becomes that of the block read. -/
def State.carryMeta (s : State) (c : Copy) (off : Nat) : State :=
  if c.op = 10 then
    match s.peekX (fld c.desc 0 8 + off), frameHome c.desc off with
    | .leaf e pb _, .hbm a _ =>
      match leafHome e pb (fld c.desc 0 8 + off) with
      | .hbm b true => s.modDev fun d => { d with meta_ := spSet d.meta_ (a / 256) (spGet d.meta_ (b / 256)) }
      | _ => s
    | _, _ => s
  else s

/-- XMIG reads 8 bytes through a leaf; the first one that it reads through fixes the bytes of its page. A leaf that has come to be after
the checks at issue and lets no page move stops it as an entry that forbids the access (09 R258, R272, 19 R437; DESIGN CHOICE, log entry
39). -/
def State.migRead (s : State) (c : Copy) (h : Home) : State :=
  match s.migLeaf c.desc (8 * c.pos) with
  | none => s.stopCopy c.id false 0x0A 0 (fld c.desc 0 8 + 8 * c.pos)
  | some n =>
    s.modCopy c.id fun k => { k with
      buf := some (s.readHome s.core.ctxId h 8)
      aux := if k.aux.1 = 0 then (n, 0) else k.aux }

/-- The next place of a copy: its position goes on and the bytes it wrote are counted. -/
def Copy.wrote (k : Copy) (size : Nat) (buf : Option Nat) : Copy :=
  { k with pos := k.pos + 1, actual := k.actual + size, buf := buf }

/-- One access of a copy performs (09 R257, R258, R262–R272). An atomic whose location turns out, behind the checks at issue, to be one
that cannot perform it stops with code 0x0A (DESIGN CHOICE, log entry 39). -/
def State.copyStep (s : State) (c : Copy) : State :=
  match c.step with
  | .done => s
  | .skip => s.modCopy c.id fun k => { k with pos := k.pos + 1 }
  | .fill d size v => s.copyWrite c d size v fun k => k.wrote size none
  | .move src d size keep =>
    match c.buf with
    | none =>
      let (r, s) := s.reachSpot c src .read
      match r with
      | .home h => if c.op = 10 then s.migRead c h else s.modCopy c.id fun k => { k with buf := some (s.readHome s.core.ctxId h size) }
      | .stop parked code va => s.stopCopy c.id parked code 0 va
      | _ => s
    | some v =>
      let s' := s.copyWrite c d size v fun k => k.wrote size (if keep then some v else none)
      if c.op = 10 then s'.carryMeta c (8 * c.pos) else s'
  | .index ea second =>
    let (r, s) := s.reachSpot c (.here ea) .read
    match r with
    | .home h =>
      let v := s.readHome s.core.ctxId h 4
      s.modCopy c.id fun k => { k with pos := k.pos + 1, aux := if second then (k.aux.1, v) else (v, k.aux.2) }
    | .stop parked code va => s.stopCopy c.id parked code 0 va
    | _ => s
  | .reduce src sty d dty op =>
    match c.buf with
    | none =>
      let (r, s) := s.reachSpot c (.here src) .read
      match r with
      | .home h => s.modCopy c.id fun k => { k with buf := some (s.readHome s.core.ctxId h (redSize sty)) }
      | .stop parked code va => s.stopCopy c.id parked code 0 va
      | _ => s
    | some x =>
      let (r, s) := s.reachSpot c (.here d) .atomic
      match r with
      | .home (.sbm a) =>
        let v := redNew op sty dty (readLE s.dev.sbm a 4) x
        (s.writeHome s.core.ctxId (.sbm a) 4 v).modCopy c.id fun k => k.wrote 4 none
      | .home _ => s.stopCopy c.id false 0x0A 2 (d.toNat % 2 ^ 49)
      | .stop parked code va => s.stopCopy c.id parked code 2 va
      | _ => s
  | .atomic ea fn size operand compare =>
    let (r, s) := s.reachSpot c (.here ea) .atomic
    match r with
    | .home h =>
      if s.dev.amoSupported h fn then
        let (old, s) := s.atomicAt s.core.ctxId h fn size operand compare
        s.modCopy c.id fun k => { k with pos := 1, aux := ((extend (decide (size = 4)) size old).toNat, 0) }
      else s.stopCopy c.id false 0x0A 2 (ea.toNat % 2 ^ 49)
    | .stop parked code va => s.stopCopy c.id parked code 2 va
    | _ => s
  | .result off _ =>
    (s.writeHome s.core.ctxId (.spad s.core.id off) 8 c.aux.1).modCopy c.id fun k => k.wrote 8 none

/-! ## Credits and completion (09 R254, R261, R279) -/

/-- The credits of a copy whose accesses have all performed (09 R261). -/
def Copy.credits (k : Copy) (own : CoreId) : List Credit :=
  match k.cask with
  | none => []
  | some ck =>
    let (nom, _) := nominal k.op k.desc
    let act := if k.op = 3 then fld k.desc 16 4 else k.actual
    let dests := if k.op = 3 then k.dests else [k.dst.getD own]
    dests.map fun id => ⟨id, ck.val, nom, act, own, k.id⟩

/-- Every access of a copy has performed: its credits set out (09 R254, R279). -/
def State.sendCredits (s : State) (k : Copy) : State :=
  let cs := k.credits s.core.id
  let s := s.modCopy k.id fun k => { k with sent := true, left := cs.length }
  s.modDev fun d => { d with credits := d.credits ++ cs }

/-- The next access of a copy, and after its last one its credits. -/
def State.copyAccess (s : State) (id : Nat) : State :=
  match s.core.copy? id with
  | none => s
  | some k =>
    if !s.core.xc.mayAccess k then s
    else
      let s := s.copyStep k
      match s.core.copy? id with
      | none => s
      | some k => if k.stop.isNone && decide (k.step = .done) then s.sendCredits k else s

/-- The credits that reached a core in this ref cycle apply, those of XSIG first, then held credits that fit (09 R279,
R280): the core, and the credits that wait no more. -/
def Core.settleCasks (c : Core) : Core × List Credit :=
  if !c.awake 5 then ({ c with xc := { c.xc with arrived := [] } }, c.xc.arrived)
  else
    let own := fun k : Credit => decide (k.src = c.id) && c.xc.sigs.any fun g => decide (g.id = k.id)
    let order := c.xc.arrived.filter own ++ c.xc.arrived.filter fun k => !own k
    let (x, done) := order.foldl (fun (y : CopyEng × List Credit) k =>
      let (x, free) := y.1.credit k
      (x, if free then y.2 ++ [k] else y.2)) ({ c.xc with arrived := [] }, [])
    let (x, freed) := x.drainHeld
    ({ c with xc := x }, done ++ freed)

/-- A credit has applied or was discarded: its copy waits for one less, its XSIG is over. -/
def Core.creditDone (c : Core) (k : Credit) : Core :=
  if c.id ≠ k.src then c
  else
    c.modXc fun x => { x with
      copies := x.copies.map fun o => if o.id = k.id then { o with left := o.left - 1 } else o
      sigs := x.sigs.filter fun g => decide (g.id ≠ k.id) }

/-! ## Entering the queue logic (09 R253, R255, R281) -/

/-- The copies that a copy entering a queue waits for. -/
def CopyEng.behind (x : CopyEng) (queue : Nat) : List Nat :=
  ((x.copies.filter fun k => k.entered && decide (k.queue = queue)).map Copy.id)
    ++ ((x.joins.filter fun j => j.queues.getLsbD queue).map XJoin.before).flatten

/-- A walk starts at a record; records whose copies still run stay to be written back (09 R274). -/
def CopyEng.startWalk (x : CopyEng) (head queue : Nat) (cls : Fin 16) : CopyEng :=
  { x with walk := ⟨decide (head ≠ 0), false, 0, head, queue, cls, x.walk.open_, none⟩ }

/-- Whether a walk runs, or the XCHAIN of one has issued and has not entered the queue logic (09 R253, R274). -/
def CopyEng.walkBusy (x : CopyEng) : Bool :=
  x.walk.active || (x.entries ++ x.waiting).any fun e => match e.kind with | .walk _ _ _ => true | _ => false

/-- What has waited out its 4 X cycles enters the queue logic. -/
def CopyEng.enter (x : CopyEng) (e : XEntry) : CopyEng :=
  match e.kind with
  | .copy id =>
    let ids := x.copies.map fun k => if k.id = id then { k with entered := true, after := x.behind k.queue } else k
    { x with copies := ids }
  | .sig id => { x with sigs := x.sigs.map fun g => if g.id = id then { g with entered := true } else g }
  | .walk head queue cls => x.startWalk head queue cls
  | .join qs =>
    let before := (x.copies.filter fun k => k.entered && qs.getLsbD k.queue).map Copy.id
    { x with joins := x.joins.filter (fun j => j.before.any fun i => x.copies.any fun k => decide (k.id = i)) ++ [⟨qs, before⟩] }

/-- Whether what waits to enter the queue logic must run to completion at a deep save: an XSIG or a copy that is not idempotent
(09 R284, 17 R410, R411). -/
def CopyEng.mustDrain (x : CopyEng) (e : XEntry) : Bool :=
  match e.kind with
  | .copy id => x.copies.any fun k => decide (k.id = id) && !k.idempotent
  | .sig _ => true
  | .join _ | .walk _ _ _ => false

/-- An X cycle less for what waits to enter the queue logic: all of it while the engine's results land, and while a stopped engine
is saved as much as what must run to completion needs, in issue order (09 R253, R284). -/
def CopyEng.tickEntries (x : CopyEng) (lands saving : Bool) : CopyEng :=
  let kept := if lands then 0 else if saving then (x.entries.reverse.takeWhile fun e => !x.mustDrain e).length else x.entries.length
  let n := x.entries.length - kept
  let step := fun e : XEntry => { e with rem := e.rem - 1 }
  { x with entries := (x.entries.take n).map step ++ x.entries.drop n }

/-- Every entry whose time has come enters, in issue order. -/
def CopyEng.enterDue (x : CopyEng) : CopyEng :=
  let due := x.entries.filter fun e => decide (e.rem = 0)
  due.foldl CopyEng.enter { x with entries := x.entries.filter fun e => decide (e.rem ≠ 0) }

/-! ## The checks of a copy word or chain record (09 R285) -/

/-- The fields of a copy word or a chain record that its checks read; `desc` is the ARG of a descriptor's fault. -/
structure CopyReq where
  op : Nat
  cls : Fin 16
  queue : Nat
  cask : Option CkNo
  fill : Bool
  coord : Option (BitVec 10)
  d : List Byte
  desc : Nat
  whence : Nat
  deriving DecidableEq, Repr

/-- *Illegal encoding* of an XMIG whose VA is no page start, which is outside its field's limits (09 R260, R272, R285 order 2;
DEDUCED, log entry 30). -/
def State.migStart (s : State) (r : CopyReq) : Option FaultRec :=
  match classify (afld r.d 0) with
  | .virt va =>
    match s.peekX va with
    | .leaf _ pb _ => if va % 2 ^ pb ≠ 0 then some (mkFault 0x01 0x40 r.desc 0) else none
    | _ => none
  | _ => none

/-- *Protection* of an XMIG (09 R272, 19 R437): DETAIL 4 in a user context, without migration write-protect, or with a
FRAME that is no frame of the page's size. DETAIL 7 behind a malformed entry; behind one that is not valid the word issues and stops at
its first access (09 R258; 09 R272 names neither: DESIGN CHOICE, log entry 39). -/
def State.migFault (s : State) (r : CopyReq) : Option FaultRec :=
  let va := fld r.d 0 8
  if !s.systemCtx then some (mkFault 0x0A 4 0 (afld r.d 0))
  else
    match s.peekX va with
    | .invalid => none
    | .malformed => some (mkFault 0x0A 7 0 (afld r.d 0))
    | .leaf _ _ _ => if (s.migLeaf r.d 0).isNone then some (mkFault 0x0A 4 0 (afld r.d 0)) else none

/-! ### Link programs (21 R455–R457) -/

/-- What reading a link program gives. -/
inductive LinkRead where
  | ok (bytes : List Byte)
  | wait
  | missing (va : Nat)
  | fault (f : FaultRec)
  deriving DecidableEq, Repr

/-- `n` records of 32 bytes read through the X engine's translation, each whole at one instant (DESIGN CHOICE, log entry 44). -/
def State.readLink (s : State) (va : Nat) : Nat → LinkRead × State
  | 0 => (.ok [], s)
  | n + 1 =>
    let (t, s) := s.translate .x va .read
    match t with
    | .ok h _ =>
      if !s.dev.homeReady h then (.wait, s)
      else
        let bs := bytesOf 32 (s.readHome s.core.ctxId h 32)
        match s.readLink (va + 32) n with
        | (.ok r, s) => (.ok (bs ++ r), s)
        | x => x
    | .invalid => (.missing va, s)
    | .forbidden k => (.fault (mkFault 0x0A k 0 (BitVec.ofNat 64 va)), s)
    | .parked => (.wait, s)

/-- The size of an element type of a hop (21 R455). -/
def hopSize (code : Nat) : Nat := redSize code

/-- Whether a code names an element type of a hop. -/
def hopType (code : Nat) : Bool := decide (code = 0 ∨ code = 2 ∨ code = 3 ∨ code = 5)

/-- Hop `i` of a program, if its fields keep their limits (21 R455). -/
def hopOf (p : List Byte) (i : Nat) : Option Hop :=
  let o := 32 + 32 * i
  let inp := fld p (o + 2) 1
  let out := fld p (o + 3) 1
  let rm := fld p (o + 7) 1
  let ok := decide (fld p o 2 < 512 ∧ (inp ≤ 17 ∨ inp = 31) ∧ (out ≤ 17 ∨ out = 30 ∨ out = 31) ∧ fld p (o + 4) 1 ≤ 1)
    && hopType (fld p (o + 5) 1) && hopType (fld p (o + 6) 1) && decide ((rm = 1 ∨ rm = 5) ∧ fld p (o + 15) 17 = 0)
  if ok then
    some ⟨fld p o 2, inp, out, fld p (o + 4) 1, fld p (o + 5) 1, fld p (o + 6) 1, rm, fld p (o + 8) 4, fld p (o + 12) 2,
      fld p (o + 14) 1, none, none⟩
  else none

/-- The first slot of a hop and the slots it takes (21 R456). -/
def Hop.slots (h : Hop) (len slot : Nat) : Nat × Nat :=
  let bytes := len / hopSize h.fin * hopSize h.fout
  (slot + h.soff, if h.out ≤ 17 then (bytes + 6143) / 6144 else 1)

/-- Whether two hops send on one port in one slot. -/
def sendsClash (h1 : Hop) (s1 : Nat × Nat) (h2 : Hop) (s2 : Nat × Nat) : Bool :=
  decide (h1.out ≤ 17 ∧ h1.out = h2.out ∧ s1.1 < s2.1 + s2.2 ∧ s2.1 < s1.1 + s1.2)

/-- The slot in which the block that a hop takes is sent out: the last slot of the hop of the program that the device at the other end of
the port IN performs with that end as its port OUT (21 R453, R455, R456). Of several, the last that comes in time, or else the
first; none where the program has no such hop (DESIGN CHOICE, log entry 27). -/
def Device.senderOf (d : Device) (hops : List Hop) (len slot : Nat) (h : Hop) : Option Nat :=
  let p := vget d.ports h.inp ⟨false, true, 0, 0⟩
  let lasts := (hops.filter fun g => decide (h.inp ≤ 17 ∧ g.dev = p.peer.toNat ∧ g.out = p.pport.toNat)).map fun g =>
    (g.slots len slot).1 + (g.slots len slot).2 - 1
  (lasts.filter fun k => decide (k + 2 ≤ (h.slots len slot).1)).max?.or lasts.head?

/-- The hops of this device, each with its sender, if every check of 21 R457 passes. -/
def State.linkHops (s : State) (p d : List Byte) : Option (List Hop) :=
  let len := fld d 24 4
  let slot := fld d 28 4
  let n := fld p 0 1
  let all := (List.range n).map (hopOf p)
  let (ports, step, key) : BitVec 18 × Nat × Nat := match s.launchOf s.core with
    | some l => (l.record.ports, l.record.step, l.key)
    | none => (0, 0, 0)
  if n < 1 ∨ 16 < n ∨ fld p 1 31 ≠ 0 ∨ all.any Option.isNone then none
  else
    let hops := all.filterMap id
    let mine := hops.filter fun h => decide (h.dev = s.dev.devnum.toNat)
    let declared := fun k : Nat => decide (17 < k) || ports.getLsbD k
    let clash := fun h : Hop => s.dev.transfers.any fun t => decide (t.launch = key) && !t.carried &&
      t.hops.any fun o => sendsClash h (h.slots len slot) o (o.slots t.len t.slot)
    if hops.any (fun h => decide (len % hopSize h.fin ≠ 0)) || mine.isEmpty
        || mine.any (fun h => !declared h.inp || !declared h.out)
        || hops.any (fun h => decide (step < (h.slots len slot).1 + (h.slots len slot).2))
        || mine.any clash then none
    else some (mine.map fun h => { h with sender := s.dev.senderOf hops len slot h })

/-- The hops of a program that this device performs, as far as they are well formed. -/
def State.ownHops (s : State) (p : List Byte) : List Hop :=
  ((List.range (fld p 0 1)).filterMap (hopOf p)).filter fun h => decide (h.dev = s.dev.devnum.toNat)

/-- The bytes that a hop writes at DST (21 R456). -/
def Hop.outBytes (h : Hop) (len : Nat) : Nat := len / hopSize h.fin * hopSize h.fout

/-- What the hops of a transfer touch on their own core: SRC where one of them reads it, DST where one writes it (09 R258, 21 R456,
R457). -/
def linkReaches (hops : List Hop) (d : List Byte) : List Reach :=
  let len := fld d 24 4
  (if hops.any fun h => decide (h.inp = 31 ∨ h.act = 1) then [flat (afld d 8) len false] else []) ++
    (hops.filter fun h => decide (h.out = 31)).map fun h => flat (afld d 16) (h.outBytes len) false

/-- *Protection* of SRC or DST of a transfer. A DST that a hop with OUT 30 writes in other cores is a scratchpad address (21 R456;
DEDUCED, log entry 27). -/
def linkClass (hops : List Hop) (d : List Byte) : Option FaultRec :=
  let spread := hops.filter fun h => decide (h.out = 30)
  let wide := spread.any fun h =>
    (match classify (afld d 16) with | .spad _ _ => false | _ => true) || (flat (afld d 16) (h.outBytes (fld d 24 4)) true).bad
  if wide then some (mkFault 0x0A 1 0 (afld d 16))
  else ((linkReaches hops d).find? Reach.bad).map fun r => mkFault 0x0A 1 0 r.base

/-- *Illegal encoding* of a DST that a hop with OUT 30 writes in other cores, with PEER not 0 (10 R290). -/
def linkPeer (hops : List Hop) (d : List Byte) (desc : Nat) : Option FaultRec :=
  if hops.any (fun h => decide (h.out = 30)) && peerField (afld d 16) then some (mkFault 0x01 (0x40 + 16) desc 0) else none

/-! ### All checks -/

/-- Orders 2 to 4 of 09 R285. -/
def State.copyFaultEarly (s : State) (r : CopyReq) : Option FaultRec :=
  match [descFault r.op r.d r.coord.isSome r.desc, if r.op = 10 then s.migStart r else none].findSome? fun x => x with
  | some f => some f
  | none =>
    match s.partitionFault r.op r.d r.coord with
    | some f => some f
    | none => misalignedCopy r.op r.d

/-- The cores whose scratchpads the destination fields name. -/
def State.copyDests (s : State) (r : CopyReq) : List CoreId :=
  match r.coord with
  | some v => [CoreId.ofField v]
  | none => if r.op = 3 then s.mcastDests r.d else []

/-- Orders 6 and 7 of 09 R285; `hops` are those of an XLINK on this device. -/
def State.copyFaultLate (s : State) (r : CopyReq) (hops : List Hop) : Option FaultRec :=
  let link := if r.op = 11 then ((linkReaches hops r.d).map (s.reachBanks [])).flatten else []
  match s.bankFault r.op (s.copyBanks r.op r.d r.fill (s.copyDests r) ++ link) with
  | some f => some f
  | none =>
    match r.cask with
    | some ck =>
      if r.op ≠ 3 ∧ r.coord.isNone ∧ !(s.core.xc.cask ck.val).valid then some (caskFault ck.val 0) else none
    | none => none

/-- What the checks of a copy come to. -/
inductive Checked where
  | ok (hops : List Hop)
  | fault (f : FaultRec)
  | wait
  | missing (acc va : Nat)
  deriving DecidableEq, Repr

/-- Order 5 of 09 R285: address classes, XMIG, and XLINK's program. -/
def State.checkClass (s : State) (r : CopyReq) : Checked × State :=
  match classFaultCopy r.op r.d r.fill with
  | some f => (.fault f, s)
  | none =>
    if r.op = 10 then
      match s.migFault r with
      | some f => (.fault f, s)
      | none => (.ok [], s)
    else if r.op = 11 then
      let va := fld r.d 0 8
      match s.readLink va 1 with
      | (.ok h, s) =>
        match s.readLink (va + 32) (if fld h 0 1 ≤ 16 then fld h 0 1 else 0) with
        | (.ok p, s) =>
          match linkPeer (s.ownHops (h ++ p)) r.d r.desc, s.linkHops (h ++ p) r.d with
          | some f, _ => (.fault f, s)
          | none, some hops => (match linkClass hops r.d with | some f => .fault f | none => .ok hops, s)
          | none, none => (.fault (mkFault 0x0A 5 0 (afld r.d 0)), s)
        | (.missing va, s) => (.missing 0 va, s)
        | (.fault f, s) => (.fault f, s)
        | (.wait, s) => (.wait, s)
      | (.missing va, s) => (.missing 0 va, s)
      | (.fault f, s) => (.fault f, s)
      | (.wait, s) => (.wait, s)
    else (.ok [], s)

/-- Order 8 of 09 R285: whether the location of an XAMO can perform it, once its translation is known (09 R271), also where its entry
forbids or parks the access. -/
def State.checkAmo (s : State) (r : CopyReq) : Checked × State :=
  if r.op ≠ 9 then (.ok [], s)
  else
    let op := fld r.d 32 1
    match classify (afld r.d 0) with
    | .virt va =>
      let (t, s) := s.translate .x va .atomic
      match t, s.peekX va with
      | .invalid, _ => (.missing 2 va, s)
      | _, .leaf e pb _ =>
        if s.dev.amoSupported (leafHome e pb va) (if op = 11 then casFn else op) then (.ok [], s)
        else (.fault (mkFault 0x0E op 0 (afld r.d 0)), s)
      | _, _ => (.ok [], s)
    | _ => (.ok [], s)

/-- The checks of a copy at issue, in the order of 09 R285, with the translations they make. -/
def State.copyChecks (s : State) (r : CopyReq) : Checked × State :=
  match s.copyFaultEarly r with
  | some f => (.fault f, s)
  | none =>
    match s.checkClass r with
    | (.ok hops, s) =>
      match s.copyFaultLate r hops with
      | some f => (.fault f, s)
      | none =>
        match s.checkAmo r with
        | (.ok _, s) => (.ok hops, s)
        | x => x
    | x => x

/-- Every check of a copy at issue; one that faults has no effect, on the translation table neither (01 R55). -/
def State.checkCopy (s : State) (r : CopyReq) : Checked × State :=
  match s.copyChecks r with
  | (.fault f, _) => (.fault f, s)
  | x => x

/-- The fault that a copy word would raise if it did not hold; code 0x09 stands for a page without a valid entry (09 R258, R285). -/
def Checked.first : Checked → Option FaultRec
  | .fault f => some f
  | .missing acc va => some (mkFault 0x09 0 acc (BitVec.ofNat 64 va))
  | _ => none

/-! ## Starting a copy -/

/-- A copy of a checked request, not yet in the queue logic. An XLINK has performed all its accesses, none, once it enters: it completes
then, and its transfer goes on by itself (21 R457; DESIGN CHOICE, log entry 43). -/
def State.newCopy (s : State) (r : CopyReq) (id : Nat) (walked : Bool) : Copy where
  id := id
  op := r.op
  queue := r.queue
  cls := r.cls
  desc := r.d
  fill := r.fill
  cask := r.cask
  dst := r.coord.map CoreId.ofField
  dests := s.copyDests r
  entered := walked
  after := if walked then s.core.xc.behind r.queue else []
  pos := 0
  buf := none
  aux := (if r.op = 10 then (s.migLeaf r.d 0).getD 0 else 0, 0)
  actual := 0
  sent := decide (r.op = 11)
  left := 0
  whence := r.whence
  walked := walked
  stop := none

/-- A copy put in flight; an XLINK registers its transfer for the next communication step (21 R457). A copy without an
access has performed all of them. -/
def State.startCopy (s : State) (r : CopyReq) (hops : List Hop) (walked : Bool) : Nat × State :=
  let (id, s) := s.freshId
  let k := s.newCopy r id walked
  let s := s.modFocus fun c => c.modXc fun x => { x with copies := x.copies ++ [k] }
  if r.op = 11 then
    let key := match s.core.resident with | some x => x.launch | none => 0
    let t : Transfer := ⟨key, s.core.id, s.core.ctxId, hops, afld r.d 8, afld r.d 16, fld r.d 24 4, fld r.d 28 4, false, false⟩
    (id, s.modDev fun d => { d with transfers := d.transfers ++ [t] })
  else (id, s)

/-! ## Walks (09 R274, R275) -/

/-- The walk of the focus core changed. -/
def State.modWalk (s : State) (f : Walk → Walk) : State :=
  s.modFocus fun c => c.modXc fun x => { x with walk := f x.walk }

/-- A walk of a core starts (09 R274). -/
def Core.startWalk (c : Core) (head queue : Nat) (cls : Fin 16) : Core := c.modXc fun x => x.startWalk head queue cls

/-- The request of a chain record, or the code of the check that its fields fail (09 R261, R274; 03 R97). -/
def recordReq (p : List Byte) (addr queue : Nat) (sys : Bool) : Except Nat CopyReq :=
  let ctl := fld p 8 2
  let op := ctl / 2 % 64
  let fill := ctl.testBit 7
  let cke := ctl.testBit 8
  let ck := ctl / 2 ^ 9 % 64
  let cv := ctl.testBit 15
  let coord := fld p 10 2
  let cls := fld p 12 1
  let oobOk := decide (op = 1 ∨ op = 2 ∨ op = 5)
  let cvOk := decide (op = 1 ∨ op = 2 ∨ op = 4 ∨ op = 5)
  let ckOk := decide (op ≤ 9)
  if op < 1 ∨ 11 < op ∨ (fill && !oobOk) ∨ (cke && !ckOk) ∨ (cv && !cvOk) ∨ fld p 0 8 % 128 ≠ 0 ∨ 2 ^ 49 ≤ fld p 0 8
      ∨ (cls % 16 = 15 ∧ !sys) then .error 0x01
  else if (!cke && decide (ck ≠ 0)) ∨ (!cv && decide (coord % 1024 ≠ 0)) ∨ 1024 ≤ coord ∨ 16 ≤ cls ∨ fld p 13 51 ≠ 0 then
    .error 0x02
  else
    .ok ⟨op, Fin.ofNat 16 cls, queue, if cke then some (Fin.ofNat 64 ck) else none, fill,
      if cv then some (BitVec.ofNat 10 coord) else none, (p.drop 64).take 64, 0, addr⟩

/-- The walk stops at a record that fails its checks; the record keeps OWN = 1. -/
def State.failWalk (s : State) (code : Nat) : State :=
  s.modWalk fun w => { w with active := false, err := true, code := code }

/-- The walk stops at a read or write-back until a reply (09 R258, R274). -/
def State.stopWalk (s : State) (parked : Bool) (code acc va : Nat) : State :=
  s.modWalk fun w => { w with stop := some ⟨none, parked, code, acc, va, s.pageBits .x va⟩ }

/-- One record of the walk is read, whole at one instant (DESIGN CHOICE, log entry 44), checked and started (09 R274), the next one without a wait for its copy; ACTIVE clears once the last
one's copy has started (DESIGN CHOICE, log entry 43). A deep save leaves the walk at its next record (17 R411). A record
with CLS = 15 fails as an illegal one in a user context, but not while the core is in handler mode, whose words have system access
(DESIGN CHOICE, log entry 15: 03 R97 speaks of words). -/
def State.readRecord (s : State) : State :=
  let w := s.core.xc.walk
  if !w.active || w.stop.isSome || s.saving || decide (1024 ≤ s.core.xc.copies.length) then s
  else
    let (t, s) := s.translate .x w.addr .read
    match t with
    | .invalid => s.stopWalk false 0x09 0 w.addr
    | .forbidden _ => s.stopWalk false 0x0A 0 w.addr
    | .parked => s
    | .ok h _ =>
      if !s.dev.homeReady h then s
      else
        let p := bytesOf 128 (s.readHome s.core.ctxId h 128)
        if !(fld p 8 1).testBit 0 then s.modWalk fun w => { w with active := false }
        else
          match recordReq p w.addr w.queue s.sysAccess with
          | .error code => s.failWalk code
          | .ok r =>
            match s.checkCopy r with
            | (.fault f, s) => s.failWalk f.code
            | (.wait, s) => s
            | (.missing acc va, s) => s.stopWalk false 0x09 acc va
            | (.ok hops, s) =>
              let (id, s) := s.startCopy r hops true
              let next := fld p 0 8
              s.modWalk fun w => { w with active := decide (next ≠ 0), addr := next, open_ := w.open_ ++ [(id, w.addr)] }

/-- The OWN bits of completed records are cleared in walk order (09 R274); `n` bounds the records. -/
def State.writeBack : Nat → State → State
  | 0, s => s
  | n + 1, s =>
    match s.core.xc.walk.open_ with
    | [] => s
    | (id, addr) :: rest =>
      if s.core.xc.copies.any (fun k => decide (k.id = id)) || s.core.xc.walk.stop.isSome then s
      else
        let (t, s) := s.translate .x (addr + 8) .write
        match t with
        | .invalid => s.stopWalk false 0x09 1 (addr + 8)
        | .forbidden _ => s.stopWalk false 0x0A 1 (addr + 8)
        | .parked => s.stopWalk true 0x0A 1 (addr + 8)
        | .ok h _ =>
          if !s.dev.homeReady h then s
          else
            let ctl := s.readHome s.core.ctxId h 2
            let s := s.writeHome s.core.ctxId h 2 (ctl / 2 * 2)
            State.writeBack n (s.modWalk fun w => { w with open_ := rest })

/-- A copy with nothing left to do leaves the copies in flight, and its chain record is written back (09 R254,
R274). -/
def State.completeCopy (s : State) (id : Nat) : State :=
  match s.core.copy? id with
  | none => s
  | some k =>
    if k.sent && decide (k.left = 0) && k.entered then
      let s := s.modFocus fun c => c.modXc fun x => { x with copies := x.copies.filter fun o => decide (o.id ≠ id) }
      State.writeBack s.core.xc.walk.open_.length s
    else s

end Sys2Proof.Machine
end

