-- ==== Sys2Proof/Machine/XStream.lean ====
section
/-! DEFINITION. The words of the X stream, and the steps of copies, credits and walks that are no words
(09 R253–R285). -/

namespace Sys2Proof.Machine

/-- An X word: it issues only while no copy of the core is stopped and no word of the engine waits for a reply (09
R258), and it touches d.x (R253). A stop of a walk's own access stops the walk alone (09 R274; DESIGN CHOICE, log entry 43). A word whose count runs in the X engine's own cycles keeps its count meanwhile (17 R398). -/
def State.xWord (s : State) (i : Instr) (k : State → WordOut) : Result :=
  s.word .x i fun s =>
    if s.core.xHalt.isSome || s.core.xc.copies.any (fun k => k.stop.isSome) then
      .hold s (match s.core.ex.hold with | some h => if h.obj = 0xC2 ∨ h.obj = chainHold then h else plainHold | none => plainHold)
    else
      match needDoms s.core [5] with
      | some f => .fault s f
      | none => k s

/-- One more cycle of the X engine counted at a word that holds with 1,024 copies in flight (17 R398), or at an XCHAIN that holds
while a walk is active, whose producer is the X engine too (09 R274, R285 order 9; DEDUCED, log entry 15). -/
def Core.countFullHold (c : Core) : Core :=
  c.modEng .x fun x =>
    { x with hold := x.hold.map fun h => if h.obj = 0xC2 ∨ h.obj = chainHold then { h with count := h.count + 1 } else h }

/-- An entry of the queue logic, 4 X cycles after issue (09 R253). -/
def Core.xEntry (c : Core) (k : XKind) : Core := c.modXc fun x => { x with entries := x.entries ++ [⟨k, 4⟩] }

end Sys2Proof.Machine

namespace Sys2Proof

open Machine

/-- The request of a copy word whose descriptor holds `d` (09 R254, R260). -/
def XD.req (x : XD) (op : Nat) (d : List Byte) : CopyReq where
  op := op
  cls := x.cls
  queue := x.queue.val
  cask := x.cask
  fill := x.fill
  coord := x.coord
  d := d
  desc := x.desc.val
  whence := 2 ^ 64 - 2 ^ 24 + 64 * x.desc.val

end Sys2Proof

namespace Sys2Proof.Machine

/-- The fault that a copy word would raise if it did not hold: orders 1 to 8 of 09 R285. -/
def State.copyFirst (s : State) (op : Nat) (x : XD) : Option FaultRec :=
  (needDoms s.core [bankDom (64 * x.desc.val)]).or
    (s.checkCopy (x.req op (readBytes s.core.mem.spad (64 * x.desc.val) 64))).1.first

/-- The word halts at a page without a valid entry; COPY_STOP takes its number and reports it (09 R258). -/
def State.haltX (s : State) (acc va : Nat) : WordOut :=
  .hold (s.modFocus fun c => { c with xHalt := some ⟨none, false, 0x09, acc, va, 0⟩ }) plainHold

/-- What a copy word does: it holds with 1,024 copies in flight, reads its descriptor, makes the checks of 09 R285 and
puts its copy in flight (09 R253, R254, R258). -/
def State.copyBody (s : State) (op : Nat) (x : XD) (start : CopyReq → List Hop → State → WordOut) : WordOut :=
  if 1024 ≤ s.core.xc.copies.length then
    .hold (s.modFocus Core.countFullHold) (mkHold 0xC2 (some .x) (stallBound x.stall) (s.copyFirst op x))
  else
    match needDoms s.core [bankDom (64 * x.desc.val)] with
    | some f => .fault s f
    | none =>
      let r := x.req op (readBytes s.core.mem.spad (64 * x.desc.val) 64)
      match s.checkCopy r with
      | (.fault f, s) => .fault s f
      | (.wait, s) => .hold s plainHold
      | (.missing acc va, s) =>
        s.haltX acc va
      | (.ok hops, s) => start r hops s

/-- A copy word that puts a copy in flight. -/
def State.copyWord (s : State) (i : Instr) (op : Nat) (x : XD) : Result :=
  s.xWord i fun s => s.copyBody op x fun r hops s =>
    let (id, s) := s.startCopy r hops false
    .ok (s.modFocus fun c => c.xEntry (.copy id)) .seq

/-- XCOPY (09 R262, R263). -/
def execXcopy (x : XD) (s : State) : Result := s.copyWord (.xcopy x) 1 x

/-- XCONV (09 R264). -/
def execXconv (x : XD) (s : State) : Result := s.copyWord (.xconv x) 2 x

/-- XMCAST; with DMASK = 0 it completes at issue (09 R265). -/
def execXmcast (x : XD) (s : State) : Result :=
  s.xWord (.xmcast x) fun s => s.copyBody 3 x fun r hops s =>
    if fld r.d 24 8 = 0 then .ok s .seq
    else
      let (id, s) := s.startCopy r hops false
      .ok (s.modFocus fun c => c.xEntry (.copy id)) .seq

/-- XCSR (09 R267). -/
def execXcsr (x : XD) (s : State) : Result := s.copyWord (.xcsr x) 4 x

/-- XGATHER (09 R268). -/
def execXgather (x : XD) (s : State) : Result := s.copyWord (.xgather x) 5 x

/-- XSCATTER (09 R268). -/
def execXscatter (x : XD) (s : State) : Result := s.copyWord (.xscatter x) 6 x

/-- XSMD (09 R269). -/
def execXsmd (x : XD) (s : State) : Result := s.copyWord (.xsmd x) 7 x

/-- XRED (09 R270). -/
def execXred (x : XD) (s : State) : Result := s.copyWord (.xred x) 8 x

/-- XAMO (09 R271). -/
def execXamo (x : XD) (s : State) : Result := s.copyWord (.xamo x) 9 x

/-- XMIG (09 R272, 19 R437). -/
def execXmig (x : XD) (s : State) : Result := s.copyWord (.xmig x) 10 x

/-- XLINK (09 R273, 21 R457). -/
def execXlink (x : XD) (s : State) : Result := s.copyWord (.xlink x) 11 x

/-- XCHAIN: it holds within STALL while a walk is active; its walk starts when the word enters the queue logic (09 R253, R274). -/
def execXchain (x : XD) (s : State) : Result :=
  s.xWord (.xchain x) fun s =>
    if s.core.xc.walkBusy then .hold (s.modFocus Core.countFullHold) (mkHold chainHold (some .x) (stallBound x.stall) (s.copyFirst 12 x))
    else
      s.copyBody 12 x fun r _ s =>
        .ok (s.modFocus fun c => c.xEntry (.walk (fld r.d 0 8) x.queue.val x.cls)) .seq

/-- XCASK defines a cask; with a count or a held credit in it the word faults and changes nothing (09 R277). -/
def execXcask (ck : CkNo) (slots : Fin 64) (bytes : BitVec 32) (s : State) : Result :=
  s.xWord (.xcask ck slots bytes) fun s =>
    if s.core.xc.busy ck.val then .fault s (caskFault ck.val 1)
    else .ok (s.modFocus fun c => c.modXc fun x => x.define ck.val (slots.val + 1) bytes.toNat) .seq

/-- XSIG: a credit to a local cask once every earlier copy has completed, those that a walk has started among them (09 R278; DESIGN
CHOICE, log entry 43). -/
def execXsig (ck : CkNo) (bytes : BitVec 32) (s : State) : Result :=
  s.xWord (.xsig ck bytes) fun s =>
    if !(s.core.xc.cask ck.val).valid then .fault s (caskFault ck.val 0)
    else
      let (n, s) := s.freshId
      let put := fun c : Core =>
        let g : XSig := ⟨n, ck, bytes.toNat, c.xc.copies.map Copy.id, false, false⟩
        (c.modXc fun x => { x with sigs := x.sigs ++ [g] }).xEntry (.sig n)
      .ok (s.modFocus put) .seq

/-- XJOIN: it issues without holding (09 R281). -/
def execXjoin (queues : BitVec 8) (s : State) : Result :=
  s.xWord (.xjoin queues) fun s => .ok (s.modFocus fun c => c.xEntry (.join queues)) .seq

/-- XFENCE: it holds until every earlier copy of a masked class has completed, and while it holds also for those that a walk starts (09
R281; DESIGN CHOICE, log entry 43). -/
def execXfence (mask : BitVec 16) (s : State) : Result :=
  s.xWord (.xfence mask) fun s =>
    if s.core.xc.copies.any fun k => mask.getLsbD k.cls.val then .hold s plainHold else .ok s .seq

/-- XLOOP (09 R282). -/
def execXloop (lvl : Fin 4) (count : LoopCount) (len : BitVec 12) (s : State) : Result :=
  s.xWord (.xloop lvl count len) fun s => s.loopWord .x lvl count len

/-- XHALT: the engine becomes Joined at issue (09 R282). -/
def execXhalt (s : State) : Result :=
  s.xWord .xhalt fun s =>
    .ok (s.modFocus fun c => c.modEng .x fun x => { x with state := .joined, index := x.index + 1 }) .stay

/-- XNOP (09 R282). -/
def execXnop (s : State) : Result := s.xWord .xnop fun s => .ok s .seq

/-! ## Steps that are no words -/

/-- ACCESS_PERFORM: the next unit of the `k`-th pending access of the focus core performs, if its order allows it
(11 R303, R308–R310); from the number of these on, the copies in flight are counted, and a copy makes its next access
(09 R257). -/
def execAccessPerform (k : Nat) (s : State) : Result :=
  .next <|
    if k < s.core.accesses.length then (if s.canPerform k then s.performAt k else s)
    else
      match s.core.xc.copies[k - s.core.accesses.length]? with
      | some x => s.copyAccess x.id
      | none => s

/-- X_QUEUE_ENTRY: what issued 4 X cycles ago enters the queue logic (09 R253). -/
def execXQueueEntry (s : State) : Result := .next (s.modFocus fun c => c.modXc CopyEng.enterDue)

/-- COPY_COMPLETE: a copy whose accesses have performed and whose credits have applied is no longer in flight (09
R254). -/
def execCopyComplete (id : Nat) (s : State) : Result := .next (s.completeCopy id)

/-- CASK_CREDIT_ARRIVE: the `k`-th credit on its way reaches its core; it applies with the cask events of this ref cycle
(09 R279, R280). -/
def execCaskCreditArrive (k : Nat) (s : State) : Result :=
  .next <|
    match s.dev.credits[k]? with
    | none => s
    | some x =>
      let s := s.modDev fun d => { d with credits := d.credits.eraseIdx k }
      s.modCore x.core fun c => c.modXc fun y => { y with arrived := y.arrived ++ [x] }

/-- XSIG_CREDIT_APPLY: the credit of the `k`-th XSIG, once it has entered the queue logic and every copy before it has
completed (09 R278). -/
def execXsigCreditApply (k : Nat) (s : State) : Result :=
  .next <|
    match s.core.xc.sigs[k]? with
    | none => s
    | some g =>
      if g.entered && !g.sent && !s.core.xc.awaits g.after then
        s.modFocus fun c => c.modXc fun x => { x with
          sigs := x.sigs.map fun h => if h.id = g.id then { h with sent := true } else h
          arrived := x.arrived ++ [⟨c.id, g.ck.val, g.bytes, g.bytes, c.id, g.id⟩] }
      else s

/-- CHAIN_RECORD_READ: the walk reads its next record, checks it and starts its copy (09 R274). -/
def execChainRecordRead (s : State) : Result := .next s.readRecord

end Sys2Proof.Machine
end

