-- ==== Sys2Proof/Machine/Power.lean ====
section
/-! DEFINITION. Power domains and their words (01 R46–R53, 05 R171, R172), engine clocks, rails and boost (15
R362–R370), the power limit and forced skipping (15 R371–R374), SBM banks and cluster gating (15 R359–R361, R379–R382;
16 R383–R386). -/

namespace Sys2Proof.Machine

/-! ## Domains -/

/-- The C cycles of a wake (01 R46). -/
def wakeCycles (d : Nat) (fromRetained : Bool) : Nat :=
  match d with
  | 0 => 64
  | 1 | 2 => 16
  | 3 => 48
  | 4 => 128
  | 5 => 32
  | 6 => 24
  | _ => if fromRetained then 24 else 1048

/-- The inrush weight of a domain (01 R46). -/
def inrush (d : Nat) : Nat :=
  match d with
  | 3 => 2
  | 4 => 4
  | _ => 1

/-- The sum of the inrush weights of some domains. -/
def inrushOf (ds : List Nat) : Nat := (ds.map inrush).sum

/-- The domains of a mask (01 R46). -/
def domsOf (set : BitVec 31) : List Nat := (List.range 31).filter fun d => set.getLsbD d

/-- Whether a domain is Waking. -/
def Dom.isWaking : Dom → Bool
  | .waking _ _ => true
  | _ => false

/-- The domains of the core that are Waking. -/
def Core.wakingDoms (c : Core) : List Nat := (List.range 31).filter fun d => (c.dom d).isWaking

/-- A domain after a STEEP, KILN.R or KILN.L (01 R48). -/
def Dom.after (x : Dom) (d : Nat) (act : DomAct) : Dom :=
  match act, x with
  | .steep, .off => .waking false (wakeCycles d false)
  | .steep, .retained => .waking true (wakeCycles d true)
  | .steep, x => x
  | .kilnR, .waking true _ => .retained
  | .kilnR, .waking false _ => .off
  | .kilnR, .awake => .retained
  | .kilnR, x => x
  | .kilnL, _ => .off

end Sys2Proof.Machine

namespace Sys2Proof

/-- The set that a DSET field names (03 R100). -/
def DSet.mask (x : DSet) : BitVec 31 :=
  let ind := x.dind.toNat
  let sp := match x.sp with | some (f, l) => (2 ^ (l.val + 1) - 2 ^ f.val) * 2 ^ 7 | none => 0
  let ac := match x.ac with | some (f, l) => (2 ^ (l.val + 1) - 2 ^ f.val) * 2 ^ 23 | none => 0
  BitVec.ofNat 31 (ind ||| sp ||| ac)

end Sys2Proof

namespace Sys2Proof.Machine

/-- The domains a STEEP or KILN acts on: d.f has no effect in wave mode, and a KILN ignores it in detached mode (01
R45). -/
def Core.actedOn (c : Core) (set : BitVec 31) (act : DomAct) : BitVec 31 :=
  if c.mode = .wave ∨ act ≠ .steep then set &&& ~~~1#31 else set

/-- Whether an access of a core lies in the scratchpad bank `d` of core `id`. -/
def Access.inBank (a : Access) (id : CoreId) (d : Nat) : Bool :=
  a.units.any fun u => match u.home with | .spad c off => decide (c = id ∧ bankDom off = d) | _ => false

/-- The nest of a core while it has steps to go. -/
def Core.nestAtWork (c : Core) : Option Nest := c.mx.nest.filter fun n => !n.done

/-- Whether a core's nest reads the scratchpad bank `d` of core `id` (08 R242): it counts every bank of its operands' spans, one that no
block of a strided step touches among them (08 R238; DESIGN CHOICE, log entry 43). -/
def Core.nestReads (c : Core) (id : CoreId) (d : Nat) : Bool :=
  match c.nestAtWork with
  | none => false
  | some n => n.banks.any fun b => decide (b.1 = id ∧ 7 + b.2 = d)

/-- Whether a copy of a core with accesses to go can touch the scratchpad bank `d` of core `id` (09 R258). -/
def State.copyReads (s : State) (c : Core) (id : CoreId) (d : Nat) : Bool :=
  c.xc.copies.any fun k => !k.sent && (({ s with core := c } : State).copyBanks k.op k.desc k.fill k.dests).any fun b =>
    decide (b.1 = id ∧ bankDom b.2 = d)

/-- A core without the accesses, the nest and the copies that were issued in this ref cycle. -/
def Device.before (d : Device) (c : Core) : Core :=
  { c with
    accesses := c.accesses.filter fun a => decide (a.id < d.freshAt)
    mx := { c.mx with active := c.mx.active && decide (c.mx.table.id < d.freshAt) }
    xc := { c.xc with copies := c.xc.copies.filter fun k => decide (k.id < d.freshAt) } }

/-- Whether the copy engine has work in its queues (01 R36, R52). -/
def CopyEng.atWork (x : CopyEng) : Bool :=
  !x.copies.isEmpty || !x.sigs.isEmpty || !x.entries.isEmpty || x.walk.active || !x.walk.open_.isEmpty

/-- Whether a domain of the focus core has work outstanding (01 R52): an access issued and not performed, or its engine
at work. A word that a cluster peer issues in the same ref cycle is not seen yet: were it, a KILN in one column of a gang row and a store
in another would each keep the other from issuing (01 R40; DESIGN CHOICE, log entry 43). -/
def State.outstanding (s : State) (d : Nat) : Bool :=
  let c := s.core
  let engBusy := fun e : Engine => decide ((c.eng e).state ≠ .idle) || c.accesses.any fun a => decide (a.eng = e)
  if d = 0 then false
  else if d = 1 then
    c.accesses.any (fun a => match a.op with | .tileLoad _ _ | .tileStore => true | _ => false)
      || c.tiles.t.toList.any (fun t => t.outstanding)
      || c.mx.writes.any (fun w => match w.dest with | .tile _ _ => true | _ => false)
      || (c.ev.held ++ c.ev.landing).any (fun l => match l.dest with | .tileRow _ _ _ _ => true | _ => false)
  else if d = 2 then engBusy .a
  else if d = 3 then engBusy .v
  else if d = 4 then engBusy .m || c.matrixBusy
  else if d = 5 then engBusy .x || c.xc.atWork
  else if d = 6 then
    c.xc.copies.any (fun k => !k.sent && decide (k.op = 7)) || (match c.nestAtWork with | some n => n.sparse | none => false)
  else if d < 23 then
    (s.cores.map s.dev.before).any fun o => o.accesses.any (fun a => a.inBank c.id d) || o.nestReads c.id d || s.copyReads o c.id d
  else c.busyTiles.any fun t => decide (accDom t = d)

/-- STEEP of a set (05 R171): *inrush overcommit* above a total weight of 6 (01 R50). -/
def State.steepWord (s : State) (i : Instr) (set : BitVec 31) : Result :=
  s.word .c i fun s =>
    let c := s.core
    let set := c.actedOn set .steep
    let new := (domsOf set).filter fun d => decide (c.dom d = .off ∨ c.dom d = .retained)
    let w := inrushOf new
    let was := inrushOf c.wakingDoms
    if 6 < was + w then .fault s (mkFault 0x05 w was 0)
    else .ok (s.modFocus fun c => { c with ctl := { c.ctl with atEnd := c.ctl.atEnd ++ [.dom set .steep] } }) .seq

/-- KILN of a set: it holds while a named domain has work outstanding (05 R171, 01 R52). -/
def State.kilnWord (s : State) (i : Instr) (set : BitVec 31) (act : DomAct) : Result :=
  s.word .c i fun s =>
    let set := s.core.actedOn set act
    if (domsOf set).any s.outstanding then .hold s plainHold
    else .ok (s.modFocus fun c => { c with ctl := { c.ctl with atEnd := c.ctl.atEnd ++ [.dom set act] } }) .seq

/-- STEEP (05 R171). -/
def execSteep (set : DSet) (s : State) : Result := s.steepWord (.steep set) set.mask

/-- KILN.R (05 R171). -/
def execKilnR (set : DSet) (s : State) : Result := s.kilnWord (.kilnR set) set.mask .kilnR

/-- KILN.L (05 R171). -/
def execKilnL (set : DSet) (s : State) : Result := s.kilnWord (.kilnL set) set.mask .kilnL

/-- STEEP of the set in bits 30:0 of a register (05 R171). -/
def execSteepReg (a : SReg) (s : State) : Result := s.steepWord (.steepReg a) ((s.core.readS a).truncate 31)

/-- KILN.R of the set in a register (05 R171). -/
def execKilnRReg (a : SReg) (s : State) : Result := s.kilnWord (.kilnRReg a) ((s.core.readS a).truncate 31) .kilnR

/-- KILN.L of the set in a register (05 R171). -/
def execKilnLReg (a : SReg) (s : State) : Result := s.kilnWord (.kilnLReg a) ((s.core.readS a).truncate 31) .kilnL

/-- The remaining C cycles of a waking domain; 0 for any other. -/
def Dom.remain : Dom → Nat
  | .waking _ r => r
  | _ => 0

/-- The number of a state (05 R172). -/
def Dom.code : Dom → Nat
  | .off => 0
  | .retained => 1
  | .waking _ _ => 2
  | .awake => 3

/-- DOMQ, latency 2 (05 R172). -/
def execDomq (d : SReg) (dom : Fin 31) (s : State) : Result :=
  s.word .c (.domq d dom) fun s =>
    let x := s.core.dom dom.val
    .ok (s.landS d (BitVec.ofNat 64 (4 * x.remain + x.code)) 2) .seq

/-- What a domain holds after it wakes from Off (01 R53). -/
def Core.zeroFill (c : Core) (d : Nat) : Core :=
  let noLoops := Vector.replicate 4 Loop.reset
  if d = 1 then
    -- the last writer and reader of the launch are no state of the domain (17 R398)
    let empty := fun t : Coupled Memory => { Coupled.reset ([] : Memory) with writer := t.writer, reader := t.reader }
    { c with tiles := { c.tiles with t := c.tiles.t.map empty } }
  else if d = 2 then { c with regs := { c.regs with a := Vector.replicate 16 0 }, ea := { c.ea with loops := noLoops } }
  else if d = 3 then
    { c with
      vec := { VecRegs.reset with west := c.vec.west.filter fun w => decide (c.ev.index ≤ w.index) }
      ev := { c.ev with loops := noLoops } }
  else if d = 5 then
    { c with
      xc := { c.xc with casks := Vector.replicate 64 ⟨false, 0, 0, 0, 0⟩, slots := [], held := [], fresh := [] }
      ex := { c.ex with loops := noLoops } }
  else if d = 6 then { c with mem := { c.mem with side := [] } }
  else if 7 ≤ d ∧ d < 23 then
    let spad : Memory := spClear (n := 8) c.mem.spad (2 ^ 17 * (d - 7)) (2 ^ 17 * (d - 6))
    { c with mem := { c.mem with spad := spad } }
  else if 23 ≤ d then { c with mem := { c.mem with acc := clearBank c.mem.acc (d - 23) } }
  else c

/-- A state of a domain set. -/
def Core.setDom (c : Core) (d : Nat) (x : Dom) : Core := { c with doms := vput c.doms d x }

/-- A wake whose count has run ends: the domain is Awake (01 R49, R53). -/
def Core.endWake (c : Core) (d : Nat) : Core :=
  match c.dom d with
  | .waking fromRetained 0 => (if fromRetained then c else c.zeroFill d).setDom d .awake
  | _ => c

/-- DOMAIN_AWAKE (01 R49). -/
def execDomainAwake (d : Fin 31) (s : State) : Result := .next (s.modFocus fun c => c.endWake d.val)

/-- The credits that a KILN.L of d.x discards (09 R276). -/
def Core.lostCredits (c : Core) (set : BitVec 31) (act : DomAct) : List Credit :=
  if act = .kilnL ∧ set.getLsbD 5 then c.xc.held else []

/-- The effect of a STEEP or KILN at the end of its ref cycle (05 R171). -/
def State.applyDoms (s : State) (set : BitVec 31) (act : DomAct) : State :=
  let lost := s.core.lostCredits set act
  let s := s.modFocus fun c =>
    let c := (domsOf set).foldl (fun c d => c.setDom d ((c.dom d).after d act)) c
    if lost.isEmpty then c else c.modXc fun x => { x with held := [] }
  lost.foldl (fun (s : State) k => s.modCore k.src fun c => c.creditDone k) s

/-! ## Engine clocks (15 R362–R367) -/

/-- The rail voltage of a divisor in units of 5 mV (15 R363). -/
def voltsFor (d : Nat) : Nat :=
  match d with
  | 2 => 160
  | 3 => 135
  | 4 => 125
  | _ => 120

/-- The gang row a core belongs to in a wave launch. -/
def State.rowOf (s : State) (c : Core) : Option Row :=
  match c.resident with
  | some r => if r.mode = .wave then s.dev.rows.find? fun w => decide (w.id = r.rowId) else none
  | none => none

/-- The clusters that hold a member or relay of a row (15 R365). -/
def Row.clusters (r : Row) : List Nat :=
  match r.members with
  | [] => []
  | m :: rest =>
    let lo := rest.foldl (fun a k => min a k.col) m.col
    let hi := rest.foldl (fun a k => max a k.col) m.col
    (List.range (hi / 3 + 1 - lo / 3)).map fun k => 6 * m.packageRow + lo / 3 + k

/-- The clusters whose rails or skipping go together with one cluster (15 R365, R374). -/
def Device.linked (d : Device) (n : Nat) : List Nat :=
  n :: ((d.rows.filter fun r => r.clusters.contains n).map Row.clusters).flatten

/-- A cluster by number. -/
def Device.cluster (d : Device) (n : Nat) : Cluster := vget d.clusters n Cluster.reset

/-- A cluster changed. -/
def Device.modCluster (d : Device) (n : Nat) (f : Cluster → Cluster) : Device :=
  { d with clusters := vput d.clusters n (f (d.cluster n)) }

/-- The cores of a cluster. -/
def State.clusterCores (s : State) (n : Nat) : List Core := s.cores.filter fun c => decide (c.id.cluster = n)

/-- The highest voltage that an engine of a core needs: for its divisor, unless only requests count, and for a pending request,
those for divisor 2 only with `boost`; at least `v` (15 R363, R368). -/
def Core.needs (c : Core) (boost requests : Bool) (v : Nat) : Nat :=
  engines.foldl (fun v e =>
    let x := c.eng e
    let v := if requests then v else max v (voltsFor x.divisor)
    match x.request with
    | some r => if boost || decide (r ≠ 2) then max v (voltsFor r) else v
    | none => v) v

/-- The highest voltage that a divisor, current or pending, of the three cores of a cluster needs, and the pending requests of the
gang rows of which it holds a member or relay, which wait for its rail too (15 R363, R365). -/
def State.needVolts (s : State) (n : Nat) (boost : Bool) : Nat :=
  let ids := ((s.dev.rows.filter fun r => r.clusters.contains n).map Row.members).flatten
  let own := (s.clusterCores n).foldl (fun v c => c.needs boost false v) 120
  ids.foldl (fun v id => (s.coreAt id).needs boost true v) own

/-- Where the rail is heading now: while LIMITED = 1 a ramp for boost alone holds at its step (15 R364, R368). -/
def State.railAim (s : State) (n : Nat) : Nat :=
  let x := s.dev.cluster n
  if x.limited then min (s.needVolts n true) (max (s.needVolts n false) x.rail) else s.needVolts n true

/-- The target of a cluster's rail as its divisors stand, and the next step of its ramp (15 R363, R364). -/
def State.retarget (s : State) (n : Nat) : State :=
  let aim := s.railAim n
  let target := s.needVolts n true
  let gated := decide ((s.dev.cluster n).gate = .railoff ∨ (s.dev.cluster n).gate = .waking)
  if gated then s else
  s.modDev fun d => d.modCluster n fun x =>
    let timer := if x.rail = aim then none else some (x.railTimer.getD 3000)
    { x with target := target, railTimer := timer }

/-- The clusters whose rails a core's divisors concern (15 R363, R365). -/
def State.railsOf (s : State) (id : CoreId) : List Nat :=
  match s.rowOf (s.coreAt id) with | some r => r.clusters | none => [id.cluster]

/-- The targets of those rails as the divisors stand. -/
def State.retargetFor (s : State) (id : CoreId) : State := (s.railsOf id).foldl State.retarget s

/-- A new divisor of an engine: its next cycle begins in the following ref cycle (15 R362). -/
def State.setDivisor (s : State) (id : CoreId) (e : Engine) (d : Nat) : State :=
  (s.modCore id fun c => c.modEng e fun x => { x with divisor := d, request := none, grantAt := none, phase := 1 }).retargetFor id

/-- Whether a request for a divisor can take effect: the rails stand at its voltage, and boost is not limited (15 R364,
R365, R368). -/
def State.divisorReady (s : State) (id : CoreId) (d : Nat) : Bool :=
  (s.railsOf id).all fun n =>
    decide (voltsFor d ≤ (s.dev.cluster n).rail) && !(decide (d = 2) && (s.dev.cluster n).limited)

/-- The stream index of an engine's point (01 R39, 17 R388). -/
def Eng.point (x : Eng) : Nat := x.index + x.skip

/-- Whether the C words of a core are those of a handler: until its row has returned (17 R392, R393). -/
def Core.handles (c : Core) : Bool := decide (c.flt.stop = .handler ∨ c.flt.stop = .returned)

/-- Whether a core has reached an index of its C stream, one of a handler's words or not; a handler that is over has passed all of
its own. -/
def Core.reached (c : Core) (handler : Bool) (index : Nat) : Bool :=
  if handler then !c.handles || decide (index ≤ c.ec.point) else !c.handles && decide (index ≤ c.ec.point)

/-- How a CLKDIV of the focus core is decided (15 R364, R368). -/
def State.clkHow (s : State) (e : Engine) (d : Nat) : ClkHow :=
  let cur := (s.core.eng e).divisor
  let tokens := match s.ctx with | some c => c.tokens | none => 0
  if d = 2 ∧ tokens = 0 then .ignored
  else if d = cur then .cancelled
  else if cur < d ∨ s.divisorReady s.core.id d then .now
  else .pending

/-- A granted request of an engine takes effect once its core has reached the index of the grant (15 R365). -/
def State.fireGrant (s : State) (id : CoreId) (e : Engine) : State :=
  let c := s.coreAt id
  match (c.eng e).grantAt, (c.eng e).request with
  | some g, some d => if c.reached g.1 g.2 then s.setDivisor id e d else s
  | some _, none => s.modCore id fun c => c.modEng e fun x => { x with grantAt := none }
  | none, _ => s

/-- What a decided CLKDIV does to its engine. -/
def State.clkApply (s : State) (e : Engine) (d : Nat) (how : ClkHow) : State :=
  let id := s.core.id
  let ask := fun (r : Option Nat) (g : Option (Bool × Nat)) =>
    (s.modFocus fun c => c.modEng e fun x => { x with request := r, grantAt := g }).retargetFor id
  match how with
  | .ignored => s
  | .cancelled => ask none none
  | .now => s.setDivisor id e d
  | .pending => ask (some d) none
  | .granted h m => (ask (some d) (some (h, m))).fireGrant id e

/-- A CLKDIV of column 0, remembered until every column has passed it. -/
def State.noteClk (s : State) (r : Row) (k : ClkNote) : State :=
  let waits := fun k : ClkNote => r.members.any fun id =>
    let c := s.coreAt id
    decide (c.handles ≠ k.handler ∨ c.ec.point ≤ k.index)
  s.modFocus fun c => { c with ctl := { c.ctl with clk := k :: c.ctl.clk.filter waits } }

/-- A CLKDIV of the focus core at the end of its ref cycle (05 R173, 15 R364, R368). In a gang row column 0 decides it, and the
other columns follow at their own word: what it changes takes effect at the same index of the C stream in every column (01 R44,
15 R365; DEDUCED, log entry 9). -/
def State.applyClkdiv (s : State) (e : Engine) (d : Nat) : State :=
  match s.rowOf s.core with
  | none => s.clkApply e d (s.clkHow e d)
  | some r =>
    let c := s.core
    let m := r.members.head?.getD c.id
    let index := c.ec.index - 1
    if m = c.id then
      let how := s.clkHow e d
      (s.noteClk r ⟨index, c.handles, e, d, how⟩).clkApply e d how
    else
      match (s.coreAt m).ctl.clk.find? fun k => decide (k.index = index ∧ k.handler = c.handles ∧ k.eng = e) with
      | some k => s.clkApply e k.d k.how
      | none => s.clkApply e d (s.clkHow e d)

/-- CLKDIV (05 R173). -/
def execClkdiv (eng : Engine) (dv : Fin 16) (s : State) : Result :=
  s.word .c (.clkdiv eng dv) fun s =>
    .ok (s.modFocus fun c => { c with ctl := { c.ctl with atEnd := c.ctl.atEnd ++ [.clkdiv eng dv.val] } }) .seq

/-- CLKWAIT: it holds while a divisor request of the core is pending (05 R174). -/
def execClkwait (s : State) : Result :=
  s.word .c .clkwait fun s =>
    if engines.any fun e => (s.core.eng e).request.isSome then .hold s plainHold else .ok s .seq

/-- PWRACK: it stops the timer of a limit that has not been acknowledged and grants 100 µs (05 R174, 15 R372). -/
def execPwrack (s : State) : Result :=
  s.word .c .pwrack fun s =>
    let n := s.core.id.cluster
    .ok (s.modDev fun d => d.modCluster n fun x =>
      if x.limited && !x.acked && !x.skip then { x with acked := true, ackTimer := none, grant := some 300000 } else x) .seq

/-- The CLKDIVs of column 0 that wait for a grant of an engine have it, at an index of the C stream. -/
def ClkNote.grant (k : ClkNote) (e : Engine) (handler : Bool) (index : Nat) : ClkNote :=
  if k.eng = e ∧ k.how = .pending then { k with how := .granted handler index } else k

/-- A pending request takes effect: in a gang row that of column 0 does, at the index of its next C word, and in every column at
that index (15 R365, 01 R39, R44; DEDUCED, log entry 9). -/
def State.grantTo (s : State) (id : CoreId) (e : Engine) (d : Nat) : State :=
  match s.rowOf (s.coreAt id) with
  | none => s.setDivisor id e d
  | some r =>
    if r.members.head? = some id then
      let c0 := s.coreAt id
      let at_ := (c0.handles, c0.ec.point)
      let s := s.modCore id fun c => { c with ctl := { c.ctl with clk := c.ctl.clk.map fun k => k.grant e at_.1 at_.2 } }
      r.members.foldl (fun (s : State) m =>
        if ((s.coreAt m).eng e).request = some d then
          (s.modCore m fun c => c.modEng e fun x => { x with grantAt := some at_ }).fireGrant m e
        else s) s
    else s

/-- Pending requests of the linked clusters that can take effect now (15 R364, R365). -/
def State.grantRequests (s : State) (n : Nat) : State :=
  let ids := ((s.dev.linked n).map fun m => (s.clusterCores m).map Core.id).flatten
  ids.foldl (fun (s : State) id => engines.foldl (fun (s : State) e =>
    match ((s.coreAt id).eng e).request with
    | some r => if ((s.coreAt id).eng e).grantAt.isNone && s.divisorReady id r then s.grantTo id e r else s
    | none => s) s) s

/-- The requests of a column that has reached the index of their grant (15 R365). -/
def State.endGrants (s : State) : State :=
  let id := s.core.id
  engines.foldl (fun (s : State) e => s.fireGrant id e) s

/-- RAIL_STEP: the rail of a cluster moves by 5 mV (15 R364). -/
def execRailStep (cluster : Fin 192) (s : State) : Result :=
  .next <|
    let n := cluster.val
    let x := s.dev.cluster n
    if x.railTimer = some 0 then
      let aim := s.railAim n
      let rail := if x.rail < aim then x.rail + 1 else if aim < x.rail then x.rail - 1 else x.rail
      let s := s.modDev fun d => d.modCluster n fun x => { x with rail := rail, railTimer := none }
      (s.grantRequests n).retarget n
    else s

/-! ## Boost (15 R368–R370) -/

/-- Whether a core of a cluster runs an engine at divisor 2. -/
def Core.boosting (c : Core) : Bool := engines.any fun e => decide ((c.eng e).divisor = 2)

/-- The clusters in which a context has an engine at divisor 2. -/
def State.boostClusters (s : State) (ctx : Nat) : List Nat :=
  ((s.cores.filter fun c => decide (c.ctxId = ctx) && c.boosting).map fun c => c.id.cluster).dedup

/-- A CLKDIV for divisor 2 of column 0 once boost has been dropped: a column that has yet to pass it gets the 3 of column 0, or no
request. -/
def ClkNote.drop (k : ClkNote) : ClkNote :=
  if k.d = 2 then
    match k.how with
    | .pending => { k with how := .cancelled }
    | _ => { k with d := 3 }
  else k

/-- The engines of a context leave divisor 2, and requests for it are discarded (15 R369); a column whose granted request has yet
to take effect gets the 3 of column 0 at its index. -/
def State.dropBoost (s : State) (ctx : Nat) : State :=
  let ids := (s.cores.filter fun c => decide (c.ctxId = ctx)).map Core.id
  ids.foldl (fun (s : State) id =>
    let s := s.modCore id fun c => { c with ctl := { c.ctl with clk := c.ctl.clk.map ClkNote.drop } }
    engines.foldl (fun (s : State) e =>
      let x := (s.coreAt id).eng e
      let s := if x.divisor = 2 then s.setDivisor id e 3 else s
      let s := if x.request = some 2 then
          s.modCore id fun c => c.modEng e fun y =>
            if x.grantAt.isSome then { y with request := some 3, grantAt := x.grantAt } else { y with request := none, grantAt := none }
        else s
      s.retargetFor id) s) s

/-- The clusters that a context boosts in a ref cycle that begins: with the divisors in effect in it, an engine runs at divisor 2
there in this µs (15 R362, R369). -/
def State.noteBoost (s : State) : State :=
  s.modDev fun d => { d with ctxs := d.ctxs.map fun x => { x with boosted := (s.boostClusters x.id ++ x.boosted).dedup } }

/-- The end of a whole µs of GLOBAL_TIME for one context (15 R369). -/
def State.payBoost (s : State) (x : Ctx) : State :=
  if x.boosted.isEmpty then s
  else
    let tokens := x.tokens - x.boosted.length
    let s := s.modCtx x.id fun c => { c with tokens := tokens, boosted := [] }
    if tokens = 0 then s.dropBoost x.id else s

/-- The millionths of a ref cycle that GLOBAL_TIME counts in this one: a million, and the discipline of its rate (15 R376). -/
def Device.timeGain (d : Device) : Nat := (1000000 + d.rate).toNat

/-- Whether GLOBAL_TIME rises by 1 ns at the end of this ref cycle: three ref cycles to a nanosecond (15 R376). -/
def Device.timeAdvances (d : Device) : Bool := decide (3000000 ≤ d.timeFrac + d.timeGain)

/-- Whether this ref cycle is the last before GLOBAL_TIME reaches a multiple of `unit` ns (15 R369, R370, R376). -/
def Device.endOf (d : Device) (unit : Nat) : Bool :=
  d.timeAdvances && decide ((d.globalTime.toNat + 1) % unit = 0)

/-- System software steps GLOBAL_TIME, only while LOCKED = 0, and only forward, so that two reads in one engine's program order never
decrease (15 R376). -/
def Device.stepTime (d : Device) (v : Dword) : Device :=
  if d.locked || decide (v.toNat < d.globalTime.toNat) then d
  else { d with globalTime := v, timeFrac := 0, paid := false, refilled := false }

/-- The time base disciplines the rate of GLOBAL_TIME, within ±500 ppm and only while LOCKED = 1 (15 R376). -/
def Device.setRate (d : Device) (ppm : Int) : Device :=
  if d.locked then { d with rate := max (-500) (min 500 ppm) } else d

/-- BOOST_TOKEN_TICK, once at the end of each µs (15 R369). -/
def execBoostTokenTick (s : State) : Result :=
  .next <|
    if s.dev.endOf 1000 ∧ s.dev.paid = false then
      s.dev.ctxs.foldl State.payBoost (s.modDev fun d => { d with paid := true })
    else s

/-- BOOST_REFILL, once at each whole ms (15 R370). -/
def execBoostRefill (s : State) : Result :=
  .next <|
    if s.dev.endOf 1000000 ∧ s.dev.refilled = false then
      let quant := s.dev.boostQuant.toNat
      let cap := s.dev.boostCap.toNat
      s.modDev fun d => { d with
        refilled := true
        ctxs := d.ctxs.map fun x => { x with tokens := max x.tokens (min (x.tokens + x.weight * quant) cap) } }
    else s

/-! ## The power limit (15 R371–R374) -/

/-- The clusters that skip together with one, through the rows they hold in common (15 R374); `n` bounds the way. -/
def linkedAll (d : Device) : Nat → List Nat → List Nat
  | 0, ns => ns
  | k + 1, ns => linkedAll d k (ns.map d.linked).flatten.dedup

/-- Whether forced skipping is in effect in a cluster: its own, or that of a cluster linked to it by a gang row (15 R373,
R374). -/
def Device.skipping (d : Device) (n : Nat) : Bool :=
  if d.rows.isEmpty then (d.cluster n).skip else (linkedAll d 6 [n]).any fun m => (d.cluster m).skip

/-- POWER_LIMIT_SET: LIMITED becomes 1 at the end of the ref cycle (15 R371). -/
def execPowerLimitSet (cluster : Fin 192) (s : State) : Result :=
  .next (s.modDev fun d => d.modCluster cluster.val fun x => { x with limitNext := some true })

/-- POWER_LIMIT_CLEAR (15 R371). -/
def execPowerLimitClear (cluster : Fin 192) (s : State) : Result :=
  .next (s.modDev fun d => d.modCluster cluster.val fun x => { x with limitNext := some false })

/-- The change of LIMITED at the end of its ref cycle: the acknowledgement timer starts, or skipping ends (15 R371,
R372). -/
def Cluster.applyLimit (x : Cluster) : Cluster :=
  match x.limitNext with
  | none => x
  | some true =>
    if x.limited then { x with limitNext := none }
    else { x with limited := true, limitNext := none, acked := false, ackTimer := some 30000, grant := none }
  | some false =>
    { x with limited := false, limitNext := none, acked := false, ackTimer := none, grant := none, skip := false, withheldRun := 0 }

/-- ACK_TIMER_EXPIRE: no PWRACK came within 10 µs, and forced skipping starts (15 R372). -/
def execAckTimerExpire (cluster : Fin 192) (s : State) : Result :=
  .next (s.modDev fun d => d.modCluster cluster.val fun x =>
    if x.ackTimer = some 0 then { x with ackTimer := none, skip := x.limited } else x)

/-- ACK_GRANT_EXPIRE: the 100 µs of a PWRACK are over and the limit still binds (15 R372). -/
def execAckGrantExpire (cluster : Fin 192) (s : State) : Result :=
  .next (s.modDev fun d => d.modCluster cluster.val fun x =>
    if x.grant = some 0 then { x with grant := none, skip := x.limited } else x)

/-! ## SBM banks and cluster gating (15 R361, R379–R382; 16 R383–R386) -/

/-- The six SBM banks of a cluster as device bank numbers 288 × die + bank (16 R385). -/
def clusterBanks (n : Nat) : List Nat :=
  let prow := n / 6
  let r := prow % 8
  let c := 3 * (n % 6)
  let router := 12 * (2 * (r / 4) + c / 9) + 3 * (r % 4) + c % 9 / 3
  (List.range 6).map fun k => 288 * (prow / 8) + 6 * router + k

/-- A state of an SBM bank set: 0 Off, 1 Retained, 2 Awake. -/
def Device.setBank (d : Device) (bank state : Nat) : Device :=
  { d with sbmState := spSet d.sbmState bank (BitVec.ofNat 2 state) }

/-- Whether a placed launch holds a reference on an SBM bank (14 R347). -/
def Device.bankReferenced (d : Device) (bank : Nat) : Bool := d.launches.any fun l => l.banks.contains bank

/-- SBM_BANK_STATE_CHANGE: a bank that a resident launch references stays Awake (15 R361, 14 R347). -/
def execSbmBankStateChange (bank : Fin 1152) (state : Fin 3) (s : State) : Result :=
  .next <|
    if state.val ≠ 2 ∧ s.dev.bankReferenced bank.val then s
    else s.modDev fun d => d.setBank bank.val state.val

/-- CLSTAT.HELD: one bit per core that holds a context, relay duty or a bound task (16 R383). -/
def State.clusterHeld (s : State) (n : Nat) : Nat :=
  (s.clusterCores n).foldl (fun a c => if c.resident.isSome || c.relay || c.bound then a + 2 ^ c.id.clusterPos else a) 0

/-- CLSTAT.REFS (15 R379). -/
def Device.clusterRefs (d : Device) (n : Nat) : Bool := (clusterBanks n).any d.bankReferenced

/-- The cluster enters RUN: REQ and WAKE read 0, and the dispatcher's pointer starts again (16 R383, R386). -/
def Device.runCluster (d : Device) (n : Nat) : Device :=
  { d.modCluster n fun x => { x with gate := .run, vacant := false, busy := none, req := 0, wake := false } with idleVisits := 0 }

/-- A request of CLCTL for a cluster (15 R380). -/
def State.gateRequest (s : State) (n req : Nat) : State :=
  if 192 ≤ n then s
  else
    let x := s.dev.cluster n
    let reject := fun e : Nat => s.modDev fun d => d.modCluster n fun x => { x with err := e }
    let accept := fun f : Cluster → Cluster => s.modDev fun d => d.modCluster n fun x => { f x with err := 0, req := req }
    if x.busy.isSome then reject 3
    else
      match x.gate, req with
      | .run, 1 => accept fun x => { x with gate := .draining, vacant := false }
      | .draining, 0 | .quiesced, 0 =>
        (accept fun x => x).modDev fun d => d.runCluster n
      | .quiesced, 2 =>
        if s.dev.clusterRefs n then reject 2
        else (accept fun x => { x with gate := .retained, busy := some 3000 }).modDev fun d =>
          (clusterBanks n).foldl (fun d b => d.setBank b 1) d
      | .retained, 3 => accept fun x => { x with gate := .clockoff }
      | .clockoff, 4 => accept fun x => { x with gate := .railoff, rail := 0, railTimer := none }
      | _, _ => reject 1

/-- An event of the device that comes at the end of this ref cycle. -/
def State.pushDue (s : State) (i : DueEvent) : State := s.modDev fun d => { d with due := d.due ++ [i] }

/-- CLCTL with REQ = 0 (15 R380). The requests of a ref cycle are judged at its end, behind its placements and its wakes (R382). -/
def execClctlRun (s : State) : Result := .next (s.pushDue (.gate s.dev.clsel.toNat 0))

/-- CLCTL with REQ = 1 (15 R380). -/
def execClctlQuiesce (s : State) : Result := .next (s.pushDue (.gate s.dev.clsel.toNat 1))

/-- CLCTL with REQ = 2 (15 R380). -/
def execClctlRetain (s : State) : Result := .next (s.pushDue (.gate s.dev.clsel.toNat 2))

/-- CLCTL with REQ = 3 (15 R380). -/
def execClctlClockoff (s : State) : Result := .next (s.pushDue (.gate s.dev.clsel.toNat 3))

/-- CLCTL with REQ = 4 (15 R380). -/
def execClctlRailoff (s : State) : Result := .next (s.pushDue (.gate s.dev.clsel.toNat 4))

/-- A wake of a gated cluster starts: 1, 2 or 137 µs (15 R380). -/
def Cluster.startWake (x : Cluster) : Cluster :=
  let us := match x.gate with | .clockoff => 2 | .railoff => 137 | _ => 1
  { x with gate := .waking, wake := true, busy := some (3000 * us) }

/-- A wake of a cluster, which is never rejected (16 R384). -/
def State.wakeCluster (s : State) (n : Nat) : State :=
  match (s.dev.cluster n).gate with
  | .draining | .quiesced => s.modDev fun d => (d.modCluster n fun x => { x with err := 0 }).runCluster n
  | .retained =>
    s.modDev fun d => d.modCluster n fun x => if x.busy.isSome then { x with wake := true } else x.startWake
  | .clockoff | .railoff => s.modDev fun d => d.modCluster n Cluster.startWake
  | .run | .waking => s

/-- CLWAKE: a write of 1; it applies at the end of the ref cycle, ahead of its CLCTL (15 R382, 16 R384). -/
def execClwake (cluster : Fin 192) (s : State) : Result := .next (s.pushDue (.clwake cluster.val))

/-- CLUSTER_QUIESCED: the end of a ref cycle of DRAINING that began with HELD at 0 (15 R380). -/
def execClusterQuiesced (cluster : Fin 192) (s : State) : Result :=
  .next <|
    let n := cluster.val
    let x := s.dev.cluster n
    if x.gate = .draining ∧ x.vacant ∧ s.clusterHeld n = 0 then
      s.modDev fun d => d.modCluster n fun x => { x with gate := .quiesced, vacant := false }
    else s

/-- CLUSTER_RETAIN_DONE: the 1 µs of RETAINED is over; a wake written meanwhile starts (15 R380, 16 R384). -/
def execClusterRetainDone (cluster : Fin 192) (s : State) : Result :=
  .next <|
    let x := s.dev.cluster cluster.val
    if x.gate = .retained ∧ x.busy = some 0 then
      s.modDev fun d => d.modCluster cluster.val fun x => if x.wake then x.startWake else { x with busy := none }
    else s

/-- CLUSTER_WAKE_COMPLETE: RUN, the rail at 675 mV, the banks Awake with their contents, every divisor at 3 (15 R380,
R381). -/
def execClusterWakeComplete (cluster : Fin 192) (s : State) : Result :=
  .next <|
    let n := cluster.val
    let x := s.dev.cluster n
    if x.gate = .waking ∧ x.busy = some 0 then
      let s := s.modDev fun d => (clusterBanks n).foldl (fun d b => d.setBank b 2) (d.runCluster n)
      s.modDev fun d => d.modCluster n fun x => { x with rail := 135, target := 135, railTimer := none }
    else s

end Sys2Proof.Machine
end

