-- ==== Sys2Proof/Machine/Csr.lean ====
section
/-! DEFINITION. The control registers: what CSRR reads and what a CSRW does at the end of its ref cycle (01 R10–R17,
R47; 05 R175; 09 R275; 15 R367, R369, R377–R379; 17 R394; 19 R424, R432; 21 R452, R454). -/

namespace Sys2Proof.Machine

/-! ## Reading -/

/-- A bit as a number. -/
def bit (b : Bool) : Nat := if b then 1 else 0

/-- A mask of the domains that meet a condition (01 R47). -/
def Core.domMask (c : Core) (p : Dom → Bool) : Nat :=
  (List.range 31).foldl (fun a d => a + bit (p (c.dom d)) * 2 ^ d) 0

/-- PWRSTATE (01 R14). -/
def State.pwrstate (s : State) : Nat :=
  let x := s.cluster s.core
  bit x.limited + 2 * bit ((s.clusterCores s.core.id.cluster).any Core.boosting) + 4 * bit (s.dev.skipping s.core.id.cluster)

/-- CLKSTAT (15 R367). -/
def State.clkstat (s : State) : Nat :=
  let c := s.core
  let x := s.cluster c
  let divs := c.ec.divisor + 16 * c.ea.divisor + 256 * c.ev.divisor + 4096 * c.em.divisor + 65536 * c.ex.divisor
  let pend := engines.foldl (fun a e => a + bit (c.eng e).request.isSome * 2 ^ e.num) 0
  divs + pend * 2 ^ 20 + x.rail % 256 * 2 ^ 32 + x.target % 256 * 2 ^ 40

/-- The number of a gating state (15 R379). -/
def Gate.num : Gate → Nat
  | .run => 0
  | .quiesced => 1
  | .retained => 2
  | .clockoff => 3
  | .railoff => 4
  | .waking => 5
  | .draining => 6

/-- CLSTAT of the selected cluster (15 R379). -/
def State.clstat (s : State) : Nat :=
  let n := s.dev.clsel.toNat
  if 192 ≤ n then 0
  else
    let x := s.dev.cluster n
    x.gate.num + 8 * bit x.busy.isSome + 16 * x.err + 256 * bit (s.dev.clusterRefs n) + 512 * s.clusterHeld n

/-- CHAINCUR (09 R275). -/
def Walk.chaincur (w : Walk) : Nat :=
  w.addr % 2 ^ 49 + w.code % 256 * 2 ^ 54 + bit w.err * 2 ^ 62 + bit w.active * 2 ^ 63

/-- GYLESTAT (17 R394). -/
def Ctx.gylestat (c : Ctx) : Nat := c.used % 2 ^ 27 + bit c.unprot * 2 ^ 31 + c.seq % 2 ^ 32 * 2 ^ 32

/-- LINKMAP of a port (21 R454). -/
def Port.linkmap (p : Port) : Nat := bit p.up * 2 ^ 63 + p.peer.toNat * 2 ^ 17 + p.pport.toNat * 2 ^ 12

/-- The multicast entry that MCGSEL selects: its place in the table, if there is one (21 R452). -/
def Device.mcgIndex (d : Device) : Option Nat :=
  if d.mcgRouter < 48 ∧ d.mcgGroup ≠ 0 then some (256 * (48 * d.mcgDie + d.mcgRouter) + d.mcgGroup) else none

/-- MCGSEL (21 R452). -/
def Device.mcgselRead (d : Device) : Nat :=
  d.mcgGroup + 256 * d.mcgRouter + 2 ^ 16 * d.mcgDie + bit (d.mcgLoop.getLsbD d.mcgDie) * 2 ^ 63

/-- The value of a control register, reserved fields zero (01 R10, R11). -/
def State.csrValue (s : State) (n : Nat) : Dword :=
  let c := s.core
  let d := s.dev
  let of := fun f : Ctx → Dword => match s.ctx with | some x => f x | none => 0
  let nat := fun f : Ctx → Nat => match s.ctx with | some x => BitVec.ofNat 64 (f x) | none => 0
  if 0x10 ≤ n ∧ n ≤ 0x1F then vget c.csr.scale (n - 0x10) 0
  else if 0x220 ≤ n ∧ n ≤ 0x224 then vget c.csr.epc (n - 0x220) 0
  else if 0x252 ≤ n ∧ n ≤ 0x263 then BitVec.ofNat 64 (vget d.ports (n - 0x252) ⟨false, true, 0, 0⟩).linkmap
  else
    match n with
    | 0x000 => c.csr.fpstatus.zeroExtend 64
    | 0x001 => c.csr.srseed.zeroExtend 64
    | 0x002 => BitVec.ofNat 64 (c.domMask fun x => x.isWaking || decide (x = .awake))
    | 0x003 => BitVec.ofNat 64 (c.domMask fun x => decide (x = .retained))
    | 0x004 => c.capmask.zeroExtend 64
    | 0x005 => c.useMask.zeroExtend 64
    | 0x006 => BitVec.ofNat 64 s.pwrstate
    | 0x007 => BitVec.ofNat 64 c.id.code
    | 0x008 => BitVec.ofNat 64 (c.ctxId % 4096)
    | 0x009 => c.csr.launchrec
    | 0x00A => d.globalTime
    | 0x00B => c.csr.faultinfo
    | 0x00C => c.csr.faultpc
    | 0x00D => c.csr.faultaddr
    | 0x00E => BitVec.ofNat 64 (match c.resident with
        | some r => if r.mode = .wave then r.col + 16 * r.row else 0
        | none => 0)
    | 0x030 => BitVec.ofNat 64 c.xc.walk.chaincur
    | 0x040 => nat fun x => x.tokens % 2 ^ 32
    | 0x041 => BitVec.ofNat 64 (d.offset.toNat + 2 ^ 32 * bit d.locked)
    | 0x042 => BitVec.ofNat 64 s.clkstat
    | 0x050 => nat Ctx.gylestat
    | 0x051 => c.csr.rowfault
    | 0x060 => d.devnum.zeroExtend 64
    | 0x100 => of fun x => x.codebase
    | 0x101 => of fun x => x.codebound
    | 0x102 => of fun x => x.trapvec
    | 0x210 => c.xc.chainhead
    | 0x225 => of fun x => x.wdlimit.zeroExtend 64
    | 0x226 => of fun x => x.savebase
    | 0x227 => of fun x => x.logbase
    | 0x228 => of fun x => x.logsize.zeroExtend 64
    | 0x229 => of fun x => x.preemptdl
    | 0x22A => of fun x => x.frqbase
    | 0x22B => nat fun x => x.frqHead + 2 ^ 16 * x.frqTail
    | 0x22D => d.freezebase
    | 0x230 => d.clsel.zeroExtend 64
    | 0x231 => BitVec.ofNat 64 (if d.clsel.toNat < 192 then (d.cluster d.clsel.toNat).req else 0)
    | 0x232 => BitVec.ofNat 64 s.clstat
    | 0x233 => BitVec.ofNat 64 (if d.clsel.toNat < 192 then bit (d.cluster d.clsel.toNat).wake else 0)
    | 0x234 => BitVec.ofNat 64 (d.boostQuant.toNat + 2 ^ 16 * d.boostCap.toNat)
    | 0x240 => of fun x => x.ptroot
    | 0x242 => BitVec.ofNat 64 (bit d.inval.pend + 2 * bit d.inval.drop)
    | 0x250 => BitVec.ofNat 64 d.mcgselRead
    | 0x251 => match d.mcgIndex with
        | some k => (spGet d.mcg k).zeroExtend 64
        | none => 0
    | _ => 0

/-- CSRR, latency 2 (05 R175). -/
def execCsrr (d : SReg) (num : BitVec 12) (s : State) : Result :=
  s.word .c (.csrr d num) fun s => .ok (s.landS d (s.csrValue num.toNat) 2) .seq

/-! ## Writing -/

/-- Whether a system write of a register is stored; one to a register whose system access is RO is discarded (01
R11). -/
def csrStored (n : Nat) : Bool :=
  match csrAccess n with
  | some (_, .rw) | some (_, .wo) => true
  | _ => false

/-- CSRW: it takes effect at the end of its ref cycle; one of MCGENT holds while a packet of its group is in flight at
its router (05 R175, 21 R452). -/
def execCsrw (num : BitVec 12) (a : SReg) (s : State) : Result :=
  s.word .c (.csrw num a) fun s =>
    let n := num.toNat
    let d := s.dev
    if n = 0x251 ∧ d.packets.any (fun p => !p.fresh && decide (p.die = d.mcgDie ∧ p.router = d.mcgRouter ∧ p.group = d.mcgGroup)) then
      .hold s plainHold
    else if csrStored n then
      let v := s.core.readS a
      .ok (s.modFocus fun c => { c with ctl := { c.ctl with atEnd := c.ctl.atEnd ++ [.csr num v] } }) .seq
    else .ok s .seq

/-- The low `n` bits of a value, from bit `lo` on, in place. -/
def keepBits (v : Dword) (lo n : Nat) : Dword := BitVec.ofNat 64 (v.toNat / 2 ^ lo % 2 ^ n * 2 ^ lo)

/-- What CODEBASE or CODEBOUND stores: LOC and the address (19 R425). -/
def physStored (v : Dword) : Dword := keepBits v 0 49 ||| keepBits v 51 2

/-- What PTROOT stores: VALID and TOP (19 R424). -/
def ptrootStored (v : Dword) : Dword := keepBits v 63 1 ||| keepBits v 19 30

/-- The control registers of the focus core changed. -/
def State.modCsr (s : State) (f : CoreCsr → CoreCsr) : State := s.modFocus fun c => { c with csr := f c.csr }

/-- The context resident on the focus core changed. -/
def State.modOwnCtx (s : State) (f : Ctx → Ctx) : State := s.modCtx s.core.ctxId f

/-- A write of SRSEED: zero stores 1, and the three generators are loaded (01 R13, 04 R140). -/
def State.writeSeed (s : State) (v : Dword) : State :=
  let seed : Word32 := if v.truncate 32 = (0 : Word32) then 1 else v.truncate 32
  let s := s.modCsr fun x => { x with srseed := seed, genV := seed, genM := seed, genA := seed }
  s.modOwnCtx fun x => { x with srseed := seed }

/-- A write of CHAINHEAD starts a walk in queue 7 with class 0 and is ignored during a walk, also one that an XCHAIN has issued
and that has not entered the queue logic (09 R274; DEDUCED, log entry 15); a HEAD that is no multiple
of 128 fails its check at once, and a core whose d.x is not Awake starts none (DEDUCED, log entry 15). -/
def State.writeChainhead (s : State) (v : Dword) : State :=
  let head := v.toNat % 2 ^ 49
  if s.core.xc.walkBusy then s
  else
  let s := s.modFocus fun c => c.modXc fun x => { x with chainhead := BitVec.ofNat 64 head }
  if !s.core.awake 5 then s
  else
    let s := s.modFocus fun c => c.startWalk head 7 0
    if head % 128 = 0 then s else s.failWalk 0x01

/-- The stored LOGSIZE (17 R394). -/
def logSizeOf (v : Nat) : Nat := if v = 0 then 1 else min v 131072

/-- The request that a CLCTL write makes; it is judged at the end of its ref cycle (15 R379, R380). -/
def State.writeClctl (s : State) (v : Dword) : State := s.pushDue (.gate s.dev.clsel.toNat (v.toNat % 8))

/-- A CLWAKE write of 1 (15 R382). -/
def State.writeClwake (s : State) (v : Dword) : State :=
  let n := s.dev.clsel.toNat
  if v.getLsbD 0 ∧ n < 192 then s.pushDue (.clwake n) else s

/-- A TLBINV write (19 R432). -/
def State.writeTlbinv (s : State) (v : Dword) : State :=
  let ctx := v.toNat % 4096
  match v.toNat / 2 ^ 62 with
  | 0 => s.pushDue (.tlbinvPage ctx (v.toNat / 2 ^ 16 % 2 ^ 33))
  | 1 => s.pushDue (.tlbinvContext ctx)
  | 2 => s.pushDue .tlbinvDevice
  | _ => s

/-- An FREPLY write (17 R396). -/
def State.writeFreply (s : State) (v : Dword) : State :=
  let ctx := v.toNat % 4096
  let fseq := v.toNat / 2 ^ 16 % 2 ^ 32
  match v.toNat / 2 ^ 12 % 4 with
  | 0 => s.pushDue (.freply false ctx fseq)
  | 1 => s.pushDue (.freply true ctx fseq)
  | _ => s

/-- What a write of a control register stores (01 R11). -/
def State.writeCsr (s : State) (n : Nat) (v : Dword) : State :=
  if 0x10 ≤ n ∧ n ≤ 0x1F then
    let v := keepBits v 0 49 ||| keepBits v 52 12
    (s.modCsr fun x => { x with scale := vput x.scale (n - 0x10) v }).modOwnCtx fun x =>
      { x with scale := vput x.scale (n - 0x10) v }
  else if 0x220 ≤ n ∧ n ≤ 0x224 then
    let s := s.modCsr fun x => { x with epc := vput x.epc (n - 0x220) (keepBits v 0 49) }
    s.modFocus fun c => { c with
      flt := { c.flt with epcWritten := c.flt.epcWritten || decide (n = 0x220) }
      aHalt := if n = 0x221 then none else c.aHalt }
  else if 0x252 ≤ n ∧ n ≤ 0x263 then
    let was := vget s.dev.ports (n - 0x252) ⟨false, true, 0, 0⟩
    let new : Port := ⟨was.up, was.awake, BitVec.ofNat 9 (v.toNat / 2 ^ 17), BitVec.ofNat 5 (v.toNat / 2 ^ 12)⟩
    s.modDev fun d => { d with ports := vput d.ports (n - 0x252) new }
  else
    match n with
    | 0x000 =>
      let s := s.modCsr fun x => { x with fpstatus := v.truncate 7 ||| x.landed.zeroExtend 7 }
      s.modOwnCtx fun x => { x with fpstatus := v.truncate 7 }
    | 0x001 => s.writeSeed v
    | 0x00B => (s.modCsr fun x => { x with faultinfo := keepBits v 0 48 }).modOwnCtx fun x =>
        { x with lastFault := (keepBits v 0 48, x.lastFault.2) }
    | 0x00C => (s.modCsr fun x => { x with faultpc := v }).modOwnCtx fun x =>
        { x with lastFault := (x.lastFault.1, v, x.lastFault.2.2) }
    | 0x00D => (s.modCsr fun x => { x with faultaddr := v }).modOwnCtx fun x =>
        { x with lastFault := (x.lastFault.1, x.lastFault.2.1, v) }
    | 0x100 => s.modOwnCtx fun x => { x with codebase := physStored v }
    | 0x101 => s.modOwnCtx fun x => { x with codebound := physStored v }
    | 0x102 => s.modOwnCtx fun x => { x with trapvec := keepBits v 0 49 }
    | 0x210 => s.writeChainhead v
    | 0x225 => s.modOwnCtx fun x => { x with wdlimit := v.truncate 32 }
    | 0x226 => s.modOwnCtx fun x => { x with savebase := keepBits v 0 49 }
    | 0x227 => s.modOwnCtx fun x => { x with logbase := keepBits v 16 33 }
    | 0x228 => s.modOwnCtx fun x => { x with logsize := BitVec.ofNat 18 (logSizeOf (v.toNat % 2 ^ 18)) }
    | 0x229 => s.modOwnCtx fun x => { x with preemptdl := keepBits v 0 48 }
    | 0x22A => s.modOwnCtx fun x => { x with frqbase := keepBits v 0 49 }
    | 0x22B => s.modOwnCtx fun x => { x with frqHead := v.toNat % 4096 }
    | 0x22C => s.writeFreply v
    | 0x22D => s.modDev fun d => { d with freezebase := keepBits v 0 49 }
    | 0x230 => s.modDev fun d => { d with clsel := v.truncate 8 }
    | 0x231 => s.writeClctl v
    | 0x233 => s.writeClwake v
    | 0x234 => s.modDev fun d => { d with boostQuant := v.truncate 16, boostCap := BitVec.ofNat 32 (v.toNat / 2 ^ 16) }
    | 0x240 => s.modOwnCtx fun x => { x with ptroot := ptrootStored v }
    | 0x241 => s.writeTlbinv v
    | 0x250 => s.pushDue (.mcgsel v)
    | 0x251 => s.pushDue (.mcgent v)
    | _ => s

/-- CSR_WRITE: a write of a control register takes effect (01 R11, 05 R175). -/
def execCsrWrite (num : BitVec 12) (v : Dword) (s : State) : Result :=
  .next (if csrStored num.toNat then s.writeCsr num.toNat v else s)

/-- SRSEED: a write of the seed takes effect (04 R140). -/
def execSrseed (v : Dword) (s : State) : Result := .next (s.writeSeed v)

/-- CHAINHEAD: a write starts a walk (09 R274). -/
def execChainhead (v : Dword) (s : State) : Result := .next (s.writeChainhead v)

/-! ## Multicast tables (21 R452) -/

/-- MCGSEL: the selection changes and LOOP of the die it names is cleared. -/
def execMcgsel (v : Dword) (s : State) : Result :=
  .next (s.modDev fun d =>
    let die := v.toNat / 2 ^ 16 % 4
    { d with
      mcgDie := die
      mcgRouter := v.toNat / 2 ^ 8 % 64
      mcgGroup := v.toNat % 256
      mcgLoop := d.mcgLoop &&& ~~~(BitVec.ofNat 4 (2 ^ die)) })

/-- MCGENT: the selected entry is written; reserved bits read zero. -/
def execMcgent (v : Dword) (s : State) : Result :=
  .next (s.modDev fun d =>
    match d.mcgIndex with
    | some k => { d with mcg := spSet d.mcg k ((v.truncate 22) &&& ~~~8#22) }
    | none => d)

/-! ## The end of the ref cycle of the words of C and A -/

/-- The change of a tile queue descriptor (06 R189). -/
def Core.applyQdef (c : Core) (q : Fin 8) (d : TQ) : Core :=
  { c with tiles := { c.tiles with tq := vset c.tiles.tq q d } }

/-- One change that is due at the end of the ref cycle (05 R171, R173, R175; 06 R189). -/
def State.applyEnd (s : State) (a : EndAct) : State :=
  match a with
  | .csr n v => s.writeCsr n.toNat v
  | .qdef q d => s.modFocus fun c => c.applyQdef q d
  | .dom set act => s.applyDoms set act
  | .clkdiv e d => s.applyClkdiv e d

/-- Every change due at the end of the ref cycle of the focus core. -/
def State.applyEnds (s : State) : State :=
  let acts := s.core.ctl.atEnd
  acts.foldl State.applyEnd (s.modFocus fun c => { c with ctl := { c.ctl with atEnd := [] } })

end Sys2Proof.Machine
end

