-- ==== Sys2Proof/Machine/Work.lean ====
section
/-! DEFINITION. Launch records, queues, jobs and launches as the scheduler keeps them: acceptance counters, readiness,
ending, and completion records (14 R330–R338, R355–R357; 21 R461, R462). -/

namespace Sys2Proof.Machine

/-! ## Launch records (14 R331, R332) -/

/-- The record in 64 bytes. `reserved`: a reserved bit is set, also one of a variant not in use (14 R333). -/
def recordOf (b : List Byte) : Record :=
  let ctl := fld b 0 4
  let doms := fld b 4 4
  let shr := fld b 8 4
  let mode := ctl / 2 ^ 24 % 4
  let nvar := ctl / 2 ^ 29 % 4
  let pv : Vector Dword 4 := vof 4 fun i => afld b (32 + 8 * i)
  let laid := if mode = 2 then [0, 1] else List.range 4
  { cmpl := ctl.testBit 31
    nvar := nvar
    prio := ctl / 2 ^ 26 % 8
    mode := mode
    use := BitVec.ofNat 24 ctl
    doms := BitVec.ofNat 32 doms
    plast := shr.testBit 28
    glast := shr.testBit 27
    ports := BitVec.ofNat 18 (shr / 2 ^ 9)
    sbm := shr % 2 ^ 9
    weight := fld b 12 2
    graph := fld b 14 2
    phase := fld b 16 2
    waita := fld b 18 1
    waitb := fld b 19 1
    sig := fld b 20 1
    ncask := fld b 21 1 % 8
    step := fld b 22 2
    tgta := fld b 24 2
    tgtb := fld b 26 2
    seq := fld b 28 4
    pv := pv
    reserved := decide (2 ^ 31 ≤ doms ∨ 2 ^ 29 ≤ shr ∨ 8 ≤ fld b 21 1)
      || laid.any fun i => decide (2 ^ 59 ≤ (vget pv i 0).toNat) }

/-- The fields of a placement variant (14 R332). -/
structure Variant where
  entry : Nat
  row0 : Nat
  wcol : Nat
  rows : Nat
  cols : Nat
  deriving DecidableEq, Repr

/-- Variant `v` of a record; ROWS and COLS are counts − 1. -/
def Record.variant (r : Record) (v : Nat) : Variant :=
  let x := (vget r.pv v 0).toNat
  ⟨x % 2 ^ 40, x / 2 ^ 40 % 32, x / 2 ^ 45 % 32, x / 2 ^ 50 % 32, x / 2 ^ 55 % 16⟩

/-- HOME of a task record: the address, CROW and CCOL (14 R332). -/
def Record.home (r : Record) : Nat × Nat × Nat :=
  let x := (vget r.pv 1 0).toNat
  (x % 2 ^ 49, x / 2 ^ 54 % 32, x / 2 ^ 49 % 32)

/-- CASK`i` of a task record: cask number and expected bytes. -/
def Record.cask (r : Record) (i : Nat) : Nat × Nat :=
  let x := (vget r.pv (2 + i / 2) 0).toNat / 2 ^ (32 * (i % 2)) % 2 ^ 32
  (x % 64, x / 64)

/-- The input casks of a task record. -/
def Record.casks (r : Record) : List (Nat × Nat) := (List.range r.ncask).map r.cask

/-- A record in no field. -/
def Record.empty : Record := recordOf []

/-! ## Access to jobs, queues and launches -/

/-- A job by number. -/
def Device.job (d : Device) (id : Nat) : Option Job := d.jobs.find? fun j => decide (j.id = id)

/-- A job changed. -/
def Device.modJob (d : Device) (id : Nat) (f : Job → Job) : Device :=
  { d with jobs := d.jobs.map fun j => if j.id = id then f j else j }

/-- A queue by number. -/
def Device.queue (d : Device) (q : Nat) : Queue := vget d.queues q Queue.reset

/-- A queue changed. -/
def Device.modQueue (d : Device) (q : Nat) (f : Queue → Queue) : Device :=
  { d with queues := vput d.queues q (f (d.queue q)) }

/-- A launch by key. -/
def Device.launch (d : Device) (key : Nat) : Option Launch := d.launches.find? fun l => decide (l.key = key)

/-- A launch changed. -/
def State.modLaunch (s : State) (key : Nat) (f : Launch → Launch) : State :=
  s.modDev fun d => { d with launches := d.launches.map fun l => if l.key = key then f l else l }

/-- The job of a launch: that of its queue. -/
def Device.jobOf (d : Device) (l : Launch) : Nat := (d.queue l.queue).job

/-- The job of a context. -/
def Device.ctxJob (d : Device) (ctx : Nat) : Nat := match d.ctx ctx with | some c => c.job | none => 4096

/-- The queues that system software has assigned to a job (14 R335; DEDUCED, log entry 16). -/
def Device.queuesOf (d : Device) (job : Nat) : List Nat :=
  (List.range 16).filter fun q => let x := d.queue q; decide (x.job = job) && (x.enable || x.devq)

/-- The device-side queue of a job (14 R335). -/
def Device.deviceQueue (d : Device) (job : Nat) : Option Nat := (d.queuesOf job).find? fun q => (d.queue q).devq

/-- Whether the SYS values of a job's queues agree with that of one of them (14 R336). -/
def Device.sysAgrees (d : Device) (q : Nat) : Bool :=
  (d.queuesOf (d.queue q).job).all fun k => decide ((d.queue k).sys = (d.queue q).sys)

/-- A system job (14 R336). -/
def Device.systemJob (d : Device) (q : Nat) : Bool :=
  (d.queue q).sys || match d.job (d.queue q).job with | some j => j.seizing | none => false

/-- A launch that has been accepted and has not started. -/
def LState.unstarted : LState → Bool
  | .waiting | .ready | .bound => true
  | _ => false

/-- An accepted launch that has not started: one whose running cores an image holds has (17 R407, R414), a bound task that an image
holds has not (14 R350). -/
def Launch.unstarted (l : Launch) : Bool := l.state.unstarted && !(l.resume && l.begun)

/-- The accepted launches of a queue that have not started (14 R335). -/
def Device.heldLaunches (d : Device) (q : Nat) : Nat :=
  (d.launches.filter fun l => decide (l.queue = q) && l.unstarted).length

/-- Whether the cores of a launch are restored and held until its copy is relocated (17 R407, 22 R471). -/
def Launch.heldBack (l : Launch) : Bool := decide (l.state = .bound) && l.resume

/-- Whether a launch has started and not ended: it runs, or its restored cores are held. -/
def Launch.runs (l : Launch) : Bool := decide (l.state = .running) || l.heldBack

/-- The key of the launch that a launch or task unit belongs to (14 R348). -/
def Launch.rootKey (l : Launch) : Nat := l.root.getD l.key

/-- Whether a launch of a context is running, other than the one that a launch or task unit belongs to (17 R400). -/
def Device.otherRuns (d : Device) (ctx : Nat) (l : Launch) : Bool :=
  d.launches.any fun o => decide (o.ctx = ctx ∧ o.rootKey ≠ l.rootKey) && o.runs

/-- Whether a launch of a context is running. -/
def Device.anyRuns (d : Device) (ctx : Nat) : Bool :=
  d.launches.any fun l => decide (l.ctx = ctx) && l.runs

/-! ## Completion records (21 R461, R462) -/

/-- COMPLETED_SEQ moves over the numbers that are done in turn (21 R462); `n` bounds the moves. -/
def Queue.settle : Nat → Queue → Queue
  | 0, q => q
  | n + 1, q =>
    let next := (q.completedSeq + 1) % 2 ^ 32
    if q.doneSeqs.contains next then
      Queue.settle n { q with completedSeq := next, doneSeqs := q.doneSeqs.filter fun k => decide (k ≠ next) }
    else q

/-- The launch of a number is done. -/
def Queue.done (q : Queue) (seq : Nat) : Queue :=
  let q := { q with doneSeqs := q.doneSeqs ++ [seq] }
  Queue.settle q.doneSeqs.length q

/-- A unit of the gyle log for a held completion record, if its gyle is open and protected and the log has room; without room the
context becomes unprotected (17 R402, R403). The answer says whether the record is held. -/
def Device.holdRecord (d : Device) (ctx : Nat) : Bool × Device :=
  match d.ctx ctx with
  | some c =>
    if !c.placed || c.unprot then (false, d)
    else if c.logCapacity < c.used + 1 then (false, d.unprotect ctx)
    else (true, d.modCtx ctx fun c => { c with used := c.used + 1 })
  | none => (false, d)

/-- A completion record put behind the earlier ones of its queue: held while its gyle is open and protected, else
released at once (17 R402, R403; 21 R461; DEDUCED, log entry 21). Kinds 3 to 5 are never held. -/
def Device.report (d : Device) (q : Nat) (r : Completion) : Device :=
  let seq := match d.ctx r.ctx with | some c => c.seq | none => 0
  let (gated, d) := if r.kind < 3 then d.holdRecord r.ctx else (false, d)
  let gseq := if 3 ≤ r.kind then seq else seq + 1
  d.modQueue q fun x =>
    { x with completions := x.completions ++ [{ r with gated := gated, time := d.globalTime.toNat, gseq := gseq }] }

/-- The record of a launch (14 R337). -/
def Launch.completion (l : Launch) (status code : Nat) : Completion :=
  ⟨l.ctx, l.seq, status, 0, if status = 4 then code else 0, l.addr, false, 0, 0⟩

/-! ## Graphs and phases (14 R356) -/

/-- A group of a list, opened if it is not. -/
def openGroup (gs : List Group) (id phase : Nat) : List Group :=
  if gs.any fun g => decide (g.id = id) then gs else gs ++ [⟨id, 0, false, 0, 0, phase⟩]

/-- One group changed. -/
def modGroup (gs : List Group) (id : Nat) (f : Group → Group) : List Group :=
  gs.map fun g => if g.id = id then f g else g

/-- A launch counted in its graph and phase (14 R356). -/
def Job.enter (j : Job) (q : Nat) (r : Record) (seq : Nat) : Job :=
  let new := !(j.graphs.any fun g => decide (g.id = r.graph))
  let graphs := modGroup (openGroup j.graphs r.graph r.phase) r.graph fun g =>
    let g := { g with count := g.count + 1 }
    if r.glast then { g with closed := true, queue := q, seq := seq } else g
  let phases := modGroup (openGroup j.phases r.phase 0) r.phase fun g =>
    let g := if new then { g with count := g.count + 1 } else g
    if r.plast then { g with closed := true, queue := q, seq := seq } else g
  { j with graphs := graphs, phases := phases }

/-- Closed groups whose count has reached zero. -/
def groupsDone (gs : List Group) : List Group := gs.filter fun g => g.closed && decide (g.count = 0)

/-- The groups that stay open. -/
def groupsOpen (gs : List Group) : List Group := gs.filter fun g => !(g.closed && decide (g.count = 0))

/-- A launch leaves its graph: the job, the graphs and the phases that complete with it (14 R356). -/
def Job.leave (j : Job) (r : Record) : Job × List Group × List Group :=
  let graphs := modGroup j.graphs r.graph fun g => { g with count := g.count - 1 }
  let doneG := groupsDone graphs
  let phases := doneG.foldl (fun ps g => modGroup ps g.phase fun p => { p with count := p.count - 1 }) j.phases
  let doneP := groupsDone phases
  ({ j with graphs := groupsOpen graphs, phases := groupsOpen phases }, doneG, doneP)

/-- The counters of 14 R356 after a launch of a record has completed, with the reports of graphs and phases. -/
def Device.leaveGraph (d : Device) (job ctx : Nat) (r : Record) : Device :=
  match d.job job with
  | none => d
  | some j =>
    let (j', gs, ps) := j.leave r
    let d := d.modJob job fun _ => j'
    let d := gs.foldl (fun (d : Device) (g : Group) => d.report g.queue ⟨ctx, g.seq, 0, 1, 0, g.id, false, 0, 0⟩) d
    ps.foldl (fun (d : Device) (g : Group) => d.report g.queue ⟨ctx, g.seq, 0, 2, 0, g.id, false, 0, 0⟩) d

/-! ## Event counters (14 R338) -/

/-- The counter of an event; one that is never met for a job that does not exist. -/
def Device.waitMet (d : Device) (now : Bool) (job event target : Nat) : Bool :=
  if event = 0 then true
  else
    match d.job job with
    | some j => decide (target ≤ (spGet (if now then j.counters else j.before) event).toNat)
    | none => false

/-- Whether the waits of a launch are met. -/
def Device.waitsMet (d : Device) (now : Bool) (job : Nat) (r : Record) : Bool :=
  d.waitMet now job r.waita r.tgta && d.waitMet now job r.waitb r.tgtb

/-- One more at an event counter, which saturates (14 R338). -/
def Job.signal (j : Job) (event : Nat) : Job :=
  if event = 0 then j
  else
    let v := spGet j.counters event
    if v = BitVec.allOnes 32 then j else { j with counters := spSet j.counters event (v + 1) }

/-- LAUNCH_READY: the waits of an accepted launch were met before this ref cycle (14 R338). -/
def execLaunchReady (key : Nat) (s : State) : Result :=
  .next <|
    match s.dev.launch key with
    | none => s
    | some l =>
      if l.state = .waiting ∧ s.dev.waitsMet false (s.dev.jobOf l) l.record then
        (s.modLaunch key fun l => { l with state := .ready }).modDev fun d => { d with idleVisits := 0 }
      else s

/-! ## Ending a launch (14 R337, R355) -/

/-- A launch ends with a status: it signals if it completed, leaves its graph and phase, and its record is written if it
asks for one or did not complete; the dispatcher's pointer starts again. -/
def State.endLaunch (s : State) (key status code : Nat) : State :=
  match s.dev.launch key with
  | none => s
  | some l =>
    let job := s.dev.jobOf l
    s.modDev fun d =>
      let d := { d with launches := d.launches.filter (fun o => decide (o.key ≠ key)), idleVisits := 0 }
      let d := d.modCtx l.ctx fun c => if c.placed ∧ status ≠ 4 then { c with ended := c.ended ++ [l] } else c
      let d := if status = 0 then d.modJob job fun j => j.signal l.record.sig else d
      let d := d.leaveGraph job l.ctx l.record
      if status ≠ 0 ∨ l.record.cmpl then d.report l.queue (l.completion status code)
      else d.modQueue l.queue fun q => q.done l.seq

/-! ## Records in memory -/

/-- What reading bytes at a virtual address of a context gives. -/
inductive VRead where
  | ok (b : List Byte)
  | wait
  | bad
  deriving DecidableEq, Repr

/-- `n` bytes of one page read through a context's tree (14 R330, R333), whole at one instant (10 R299 gives such records no unit; DESIGN
CHOICE, log entry 44). -/
def State.readVirt (s : State) (ctx va n : Nat) : VRead × State :=
  match s.dev.ctx ctx with
  | none => (.bad, s)
  | some c =>
    match Machine.translate s.dev.hbm c.ptroot ctx [] 0 va .read with
    | (.ok h _, _, hbm) =>
      let s := s.modDev fun d => { d with hbm := hbm }
      if s.dev.homeReady h then (.ok (bytesOf n (s.readHome ctx h n)), s) else (.wait, s)
    | (.parked, _, _) => (.wait, s)
    | _ => (.bad, s)

/-- The launch record at an address (14 R333). -/
def State.readLaunchRecord (s : State) (ctx addr : Nat) : VRead × State :=
  if addr % 64 ≠ 0 ∨ 2 ^ 49 ≤ addr then (.bad, s) else s.readVirt ctx addr 64

/-! ## Writing completion records to the host -/

/-- The 32 bytes of a completion record (21 R461). -/
def Completion.bytes (r : Completion) (q : Nat) (phase : Bool) : List Byte :=
  bytesOf 4 r.seq ++ bytesOf 1 (q + 128 * bit phase) ++ bytesOf 1 r.status ++ bytesOf 1 r.kind ++ bytesOf 1 r.code
    ++ bytesOf 8 r.ident ++ bytesOf 8 r.time ++ bytesOf 8 r.gseq

/-- The records that a queue's completion ring holds. -/
def Queue.ring (q : Queue) : Nat := 2 ^ (4 + q.cqs)

/-- COMPLETION_RECORD_WRITE: the oldest record of a queue whose gyle does not hold it is written to the ring, unless the
ring is full; records of rollbacks and lost contexts overtake held ones (21 R461, 17 R402). -/
def execCompletionRecordWrite (q : Fin 16) (s : State) : Result :=
  .next <|
    let x := s.dev.queue q.val
    let first : Option Completion := match x.completions with
      | [] => none
      | r :: _ => if r.gated then x.completions.find? fun (k : Completion) => decide (3 ≤ k.kind) else some r
    match first with
    | none => s
    | some r =>
      if (x.cqtail + 1) % x.ring = x.cqhead % x.ring then s
      else
        s.modDev fun d =>
          let d := { d with host := writeBytes d.host (x.cqbase.toNat + 32 * x.cqtail) (r.bytes q.val x.phase) }
          d.modQueue q.val fun y =>
            let tail := (y.cqtail + 1) % y.ring
            let y := { y with
              cqtail := tail
              phase := if tail = 0 then !y.phase else y.phase
              completions := y.completions.erase r }
            if r.kind = 0 ∧ r.status ≠ 2 then y.done r.seq else y

end Sys2Proof.Machine
end

