-- ==== Sys2Proof/Machine/SaveArea.lean ====
section
/-! DEFINITION. Save areas, gyle images and freeze images as bytes of memory: addresses of the system context, the header and
the core records (17 R404, R410–R413), and what a restore reads back from them. -/

namespace Sys2Proof.Machine

/-! ## Ranges of memory -/

/-- The parts of `n` bytes from a virtual address on, each within one page of 64 KiB: offset and length. -/
def pageParts (va n : Nat) : List (Nat × Nat) :=
  let first := 2 ^ 16 - va % 2 ^ 16
  (List.range (n / 2 ^ 16 + 2)).filterMap fun k =>
    let lo := if k = 0 then 0 else first + 2 ^ 16 * (k - 1)
    let hi := min n (first + 2 ^ 16 * k)
    if lo < hi then some (lo, hi - lo) else none

/-- `n` bytes at a home outside the cores. -/
def Device.cut (d : Device) (h : Home) (n : Nat) : Memory :=
  match h with
  | .hbm a _ => cutMem d.hbm a n
  | .sbm a => cutMem d.sbm a n
  | .host a => cutMem d.host a n
  | .peer a => cutMem d.peer a n
  | .spad _ _ | .metadata _ => []

/-- `n` bytes at a home outside the cores written, without a gyle (17 R401: the device's own writes are no writes of a
context). -/
def Device.put (d : Device) (h : Home) (n : Nat) (src : Memory) : Device :=
  match h with
  | .hbm a z => { d with hbm := putMem d.hbm a n src }.storeBlocks a n z
  | .sbm a => { d with sbm := putMem d.sbm a n src }
  | .host a => { d with host := putMem d.host a n src }
  | .peer a => { d with peer := putMem d.peer a n src }
  | .spad _ _ | .metadata _ => d

/-- The home of a byte at an address of the system context, if an access can perform there now (17 R394; DEDUCED, log entry
20). -/
def Device.systemHome (d : Device) (va : Nat) (kind : Kind) : Option (Home × Device) :=
  match d.ctxs.find? Ctx.system with
  | none => none
  | some c =>
    match Machine.translate d.hbm c.ptroot c.id [] 0 va kind with
    | (.ok h _, _, hbm) => if d.homeReady h then some (h, { d with hbm := hbm }) else none
    | _ => none

/-- Whether an access of `n` bytes at an address of the system context waits: for a page being moved (19 R436), or at a sleeping SBM bank
(15 R361). -/
def Device.systemWaits (d : Device) (va n : Nat) (kind : Kind) : Bool :=
  match d.ctxs.find? Ctx.system with
  | none => false
  | some c => (pageParts va n).any fun p =>
    match (Machine.translate d.hbm c.ptroot c.id [] 0 (va + p.1) kind).1 with
    | .ok h _ => !d.homeReady h
    | .parked => true
    | _ => false

/-- `n` bytes written at an address of the system context; a page that takes no write keeps its bytes (DESIGN CHOICE, log entry
19). -/
def Device.putSystem (d : Device) (va n : Nat) (src : Memory) : Device :=
  (pageParts va n).foldl (fun (d : Device) p =>
    match d.systemHome (va + p.1) .write with
    | some (h, d) => d.put h p.2 (cutMem src p.1 p.2)
    | none => d) d

/-- `n` bytes read at an address of the system context; none if a page does not give them (DESIGN CHOICE, log entry 19). -/
def Device.cutSystem (d : Device) (va n : Nat) : Option Memory :=
  (pageParts va n).foldl (fun (m : Option Memory) p =>
    match m, d.systemHome (va + p.1) .read with
    | some m, some (h, _) => some (m ++ (d.cut h p.2).map fun c => (p.1 + c.1, c.2))
    | _, _ => none) (some [])

/-- The pages of `n` bytes at an address of the system context are accessed (19 R429). -/
def Device.touchSystem (d : Device) (va n : Nat) : Device :=
  (pageParts va n).foldl (fun (d : Device) p =>
    match d.systemHome (va + p.1) .read with
    | some (_, d) => d
    | none => d) d

/-- Bytes written at an address in the system context (17 R394; DEDUCED, log entry 20); none if the page does not take the
write. -/
def State.writeSystem (s : State) (va : Nat) (b : List Byte) : Option State :=
  match s.dev.systemHome va .write with
  | some (h, d) => some (({ s with dev := d } : State).pokeHome h b.length (leOf b))
  | none => none

/-! ## The header (17 R412) -/

/-- The parts of a header, by offset; the bytes in no part are zero. -/
def Device.saveHeader (d : Device) (c : Ctx) (kind state : Nat) (img : Image) : List (Nat × List Byte) :=
  let queues := d.queuesOf c.job
  let cmd := (List.range 16).map fun q => (0x30 + 8 * q, bytesOf 8 (if queues.contains q then (d.queue q).nextSeq else 0))
  let addrs := img.launches.map Launch.addr
  let breg := (List.range 512).map fun p =>
    (0x400 + 120 * p, ((List.range 15).map fun i => bytesOf 8 (spGet c.breg (16 * p + i + 1)).toNat).flatten)
  [(0, bytesOf 4 0x56345341 ++ bytesOf 4 1),
    (8, bytesOf 1 kind ++ bytesOf 1 state ++ bytesOf 2 c.id ++ bytesOf 4 c.job),
    (0x10, bytesOf 8 img.cores.length), (0x18, bytesOf 8 c.seq), (0x20, bytesOf 8 c.tokens),
    (0x28, bytesOf 4 c.srseed.toNat ++ bytesOf 4 c.fpstatus.toNat)] ++ cmd
    ++ [(0xB0, bytesOf 8 c.nextFseq)]
    ++ (List.range 64).map (fun i => (0x100 + 8 * i, bytesOf 8 (addrs.getD i 0)))
    ++ (List.range 16).map (fun i => (0x300 + 8 * i, bytesOf 8 (vget c.scale i 0).toNat)) ++ breg

/-- The 64 KiB of a header. -/
def Device.headerBytes (d : Device) (c : Ctx) (kind state : Nat) (img : Image) : Memory :=
  (d.saveHeader c kind state img).foldl (fun m x => writeBytes m x.1 x.2) []

/-- The header written at SAVEBASE, as far as the system context maps it. -/
def Device.putHeader (d : Device) (c : Ctx) (kind state : Nat) (img : Image) : Device :=
  d.putSystem c.savebase.toNat 65536 (d.headerBytes c kind state img)

/-- The header of a context's save area written. -/
def State.writeHeader (s : State) (c : Ctx) (kind state : Nat) (img : Image) : State :=
  s.modDev fun d => d.putHeader c kind state img

/-! ## Core records (17 R413) -/

/-- The distance of the core records of an image. -/
def recordBytes : Nat := 0x300000

/-- Whether a core's record holds a domain: it is Awake, Waking or Retained (17 R410). -/
def Core.keeps (c : Core) (d : Nat) : Bool := decide (c.dom d ≠ .off)

/-- A value as 8 bytes. -/
def w8 (v : Nat) : List Byte := bytesOf 8 v

/-- Values as 8 bytes each. -/
def w8s (vs : List Nat) : List Byte := (vs.map w8).flatten

/-- The number of a stream state in a control block. -/
def EngState.num : EngState → Nat
  | .idle => 0
  | .running => 1
  | .joining => 2
  | .joined => 3

/-- The number of a mode (14 R332). -/
def Mode.num : Mode → Nat
  | .detached => 0
  | .wave => 1
  | .task => 2

/-- The number of a flag: 0 empty, 1 full, 2 and up filling, by its owner. -/
def Flag.num : Flag → Nat
  | .empty => 0
  | .full => 1
  | .filling e => 2 + e.num

/-- The number of a destination in a control block. -/
def Dest.num : Dest → Nat
  | .sreg r => r.val
  | .handlerReg r => 64 + r.val
  | .pred q => 72 + q.val
  | .areg a => 80 + a.val
  | .word w => 96 + w.val
  | .mreg m _ => 112 + m.val
  | .vreg v _ => 128 + v.val
  | .tileRow t part _ _ => 256 + 8 * t.val + part.val

/-- The data of an entry of a landing buffer: 8 or 512 bytes. -/
def LValue.bytes : LValue → List Byte
  | .word v => w8 v.toNat
  | .lanes v => (v.toList.map fun x => bytesOf 4 x.toNat).flatten
  | .mask v => bytesOf 512 v.toNat
  | .access _ => w8 0

/-- An entry of a landing buffer: destination, remaining latency and engine, then its data. -/
def Landing.bytes (l : Landing) (e : Engine) : List Byte :=
  bytesOf 2 l.dest.num ++ bytesOf 4 l.rem ++ bytesOf 2 e.num ++ l.val.bytes

/-- An entry of the landing buffer of X: what waits, its remaining X cycles and the engine, then the number of the copy or XSIG, the
queues of an XJOIN, or the record of a walk (09 R253). -/
def XEntry.bytes (x : XEntry) : List Byte :=
  let (kind, v) := match x.kind with
    | .copy id => (512, id)
    | .sig id => (513, id)
    | .join queues => (514, queues.toNat)
    | .walk head queue cls => (515, head + 2 ^ 49 * queue + 2 ^ 52 * cls.val)
  bytesOf 2 kind ++ bytesOf 4 x.rem ++ bytesOf 2 Engine.x.num ++ w8 v

/-- The landing buffers of a core, those that a handler holds among them. -/
def Core.landingBytes (c : Core) : List Byte :=
  (engines.map fun e => (((c.eng e).held ++ (c.eng e).landing).map fun l => l.bytes e).flatten).flatten
    ++ (c.flt.savedC.map fun l => l.bytes .c).flatten ++ ((c.xc.waiting ++ c.xc.entries).map XEntry.bytes).flatten

/-- MCTL (08 R227). -/
def Matrix.mctl (m : Matrix) : Nat :=
  m.fa.code + 2 ^ 3 * m.fb.code + 2 ^ 6 * m.win.val + 2 ^ 9 * m.alloc.toNat + 2 ^ 17 * bit m.table.sparse
    + 2 ^ 18 * bit m.active + 2 ^ 19 * m.rtile.val + 2 ^ 24 * m.reruns

/-- MSRCST of bases, positions and sharing (08 R227). -/
def MSrc.word (x : MSrc) : Nat :=
  x.apos.val + 2 ^ 2 * bit x.amc + 2 ^ 3 * x.abase.toNat + 2 ^ 24 * x.bpos.val + 2 ^ 26 * bit x.bmc + 2 ^ 27 * x.bbase.toNat

/-- The active table's own copies of WIN, FA and FB, of MSRCST and of META (08 R227). -/
def Nest.captured (n : Nest) : List Nat :=
  [n.fa.code + 2 ^ 3 * n.fb.code + 2 ^ 6 * n.win.val, MSrc.word n.src, n.md.toNat]

/-- A level of a loop-nest table. -/
def Level.nums (l : Level) : List Nat := [l.trip.toNat, l.sa.toNat, l.sb.toNat, l.sc.toNat]

/-- The control block of a core: what 17 R413 lists, in its order, 8 bytes to a value (DESIGN CHOICE, log entry 19). -/
def Core.controlBlock (c : Core) : List Byte :=
  let es := engines.map c.eng
  let col := match c.resident with | some r => r.col | none => 0
  let slot := match c.ctl.slot with | some (some t) => t.toNat | _ => 0
  let mask := fun (p : Dom → Bool) => (List.range 31).foldl (fun a d => a + bit (p (c.dom d)) * 2 ^ d) 0
  let remain := (List.range 31).map fun d => (c.dom d).remain
  let coupled := (c.regs.w.toList.map fun w => [w.data.toNat, w.flag.num]).flatten
  let queues := (c.tiles.tq.toList.map fun q => [bit q.valid, q.tail, q.head, q.len, q.base]).flatten
  let loops := ((es.map fun x => (x.loops.toList.map fun l => [l.len, l.start, l.rem]).flatten)).flatten
  let claims := (c.mx.claims.toList.map fun k =>
    [bit k.valid, k.claim.tile.val, k.claim.frow.val, k.claim.lrow.val, k.claim.lg.val]).flatten
  let levels := ((c.mx.shadow.toList ++ c.mx.table.levels.toList).map Level.nums).flatten
  w8s [c.id.code, c.mode.num, col]
    ++ w8s (es.map fun x => x.pc.toNat) ++ w8s (es.map fun x => x.state.num) ++ w8s (es.map Eng.skip) ++ w8s [slot]
    ++ w8s (es.map Eng.divisor) ++ w8s (es.map fun x => x.request.getD 0)
    ++ w8s [mask fun x => x.isWaking || decide (x = .awake), mask fun x => decide (x = .retained)] ++ w8s remain
    ++ w8s (c.regs.s.toList.map BitVec.toNat) ++ w8s (c.regs.h.toList.map BitVec.toNat) ++ w8s [c.regs.qs.toNat] ++ w8s coupled
    ++ w8s (c.regs.a.toList.map BitVec.toNat) ++ w8s (c.tiles.t.toList.map fun t => t.flag.num) ++ w8s queues
    ++ (c.vec.m.toList.map fun m => bytesOf 16 m.toNat).flatten ++ (c.vec.vw.toList.map fun x => bytesOf 4 x.toNat).flatten
    ++ w8s loops
    ++ w8s [c.mx.mctl, MSrc.word c.mx.src] ++ w8s levels ++ w8s (c.mx.table.index.toList) ++ w8s c.mx.table.captured ++ w8s claims
    ++ c.landingBytes
    ++ w8s [c.csr.faultinfo.toNat, c.csr.faultpc.toNat, c.csr.faultaddr.toNat] ++ w8s (c.csr.epc.toList.map BitVec.toNat)
    ++ w8s [bit c.inHandler] ++ w8s [c.csr.genV.toNat, c.csr.genM.toNat, c.csr.genA.toNat] ++ w8s [c.xc.walk.chaincur]

/-- The tile file as 128 KiB. -/
def Core.tileCells (c : Core) : Memory :=
  (List.range 32).foldl (fun m i => putMem m (4096 * i) 4096 (vget c.tiles.t i (Coupled.reset [])).data) []

/-- The vector registers as 16 KiB. -/
def Core.vecCells (c : Core) : Memory :=
  ofBytes ((c.vec.v.toList.map fun r => (r.toList.map fun x => bytesOf 4 x.toNat).flatten).flatten)

/-- The accumulator memory with HUSK: 8 bytes to an entry. -/
def accCells (acc : Sparse 57) : Memory :=
  (acc.map fun e => (ofBytes (bytesOf 8 e.2.toNat)).map fun c => (8 * e.1 + c.1, c.2)).flatten

/-- The accumulator memory of those bytes. -/
def accOf (m : Memory) : Sparse 57 :=
  (m.map fun c => c.1 / 8).dedup.foldl (fun a k => spSet a k (BitVec.ofNat 57 (readLE m (8 * k) 8))) []

/-- The casks, slots and held credits: casks of 32 bytes, slots of 16, credits of 32 (DESIGN CHOICE, log entry 19). -/
def Core.caskCells (c : Core) : Memory :=
  let casks := (c.xc.casks.toList.map fun k =>
    bytesOf 4 (bit k.valid) ++ bytesOf 4 k.slots ++ bytesOf 8 k.rp ++ bytesOf 8 k.wp ++ bytesOf 8 k.exp).flatten
  let slots := c.xc.slots.foldl (fun m x => writeLE m (0x800 + 16 * x.1) 16 x.2.toNat) (ofBytes casks)
  let held := (c.xc.held.map fun k =>
    bytesOf 4 k.core.code ++ bytesOf 4 k.cask ++ bytesOf 4 k.nom ++ bytesOf 4 k.act ++ bytesOf 8 k.src.code ++ bytesOf 8 k.id).flatten
  writeBytes slots 0x10800 held

/-- The copy records: 128 bytes each, queue, class, word and progress, then the descriptor (DESIGN CHOICE, log entry 19). -/
def Core.copyCells (c : Core) : Memory :=
  ofBytes (c.xc.copies.map fun k =>
    bytesOf 8 k.queue ++ bytesOf 8 k.cls.val ++ bytesOf 8 k.op ++ bytesOf 8 k.pos ++ bytesOf 8 k.actual ++ bytesOf 24 0
      ++ bytesOf 64 (leOf k.desc)).flatten

/-- An entry of a fault table: FSEQ, ACT and the valid bit (17 R397). -/
def faultEntry (fseq act : Nat) (valid : Bool) : List Byte := bytesOf 4 fseq ++ bytesOf 1 act ++ bytesOf 1 (bit valid) ++ bytesOf 26 0

/-- The stops of a core of a context, as its fault table numbers them (DESIGN CHOICE, log entry 19). -/
def Ctx.stopsAt (x : Ctx) (id : CoreId) : List OpenStop := x.stops.filter fun o => decide (o.core = id)

/-- The parts of a core record that are written: offset, length and bytes. Only the parts of domains that were saved are. -/
def Core.recordParts (c : Core) (x : Ctx) : List (Nat × Nat × Memory) :=
  let part := fun (d : Nat) (p : Nat × Nat × Memory) => if c.keeps d then [p] else []
  let acc := accCells c.mem.acc
  [(0, 0x10000, cutMem (ofBytes c.controlBlock) 0 0x10000)]
    ++ part 1 (0x10000, 0x20000, c.tileCells) ++ part 3 (0x30000, 0x4000, c.vecCells)
    ++ part 6 (0x34000, 0x4000, c.mem.side) ++ part 5 (0x38000, 0x18000, c.caskCells)
    ++ part 5 (0x50000, 0x20000, c.copyCells)
    ++ [(0x70000, 0x10000, ofBytes ((x.stopsAt c.id).map fun o => faultEntry o.fseq 0 false).flatten)]
    ++ ((List.range 8).map fun b => part (23 + b) (0x80000 + 0x8000 * b, 0x8000, cutMem acc (0x8000 * b) 0x8000)).flatten
    ++ ((List.range 16).map fun b =>
        part (7 + b) (0x100000 + 0x20000 * b, 0x20000, cutMem c.mem.spad (0x20000 * b) 0x20000)).flatten

/-- Where core records lie: in a save area, at addresses of the system context, or at the front of a log region, in HBM (17
R404, R413; DEDUCED, log entry 19). -/
inductive Area where
  | save (base : Nat)
  | log (base : Nat)
  deriving DecidableEq, Repr

/-- `n` bytes written at an offset of an area. -/
def Device.putArea (d : Device) (a : Area) (off n : Nat) (src : Memory) : Device :=
  match a with
  | .save b => d.putSystem (b + off) n src
  | .log b => d.put (.hbm (b + off) false) n src

/-- `n` bytes read at an offset of an area. -/
def Device.cutArea (d : Device) (a : Area) (off n : Nat) : Option Memory :=
  match a with
  | .save b => d.cutSystem (b + off) n
  | .log b => some (d.cut (.hbm (b + off) false) n)

/-- The core records of an image written from an offset of an area on. -/
def Device.putRecords (d : Device) (a : Area) (off : Nat) (x : Ctx) (cores : List Core) : Device :=
  (List.range cores.length).foldl (fun (d : Device) n =>
    match cores[n]? with
    | some c => (c.recordParts x).foldl (fun (d : Device) p => d.putArea a (off + recordBytes * n + p.1) p.2.1 p.2.2) d
    | none => d) d

/-- A core with a bank of a store replaced. -/
def putBank (m : Memory) (size b : Nat) (src : Option Memory) : Memory :=
  match src with
  | some p => putMem m (size * b) size p
  | none => m

/-- A core as its record in memory gives it: the stores whose layout 17 R413 gives come from there, the rest from the image
(DESIGN CHOICE, log entry 19); so does a part whose pages give no bytes. -/
def Core.fromRecord (c : Core) (get : Nat → Nat → Option Memory) : Core :=
  let tiles := if c.keeps 1 then get 0x10000 0x20000 else none
  let vec := if c.keeps 3 then get 0x30000 0x4000 else none
  let side := if c.keeps 6 then get 0x34000 0x4000 else none
  let acc := (List.range 8).foldl (fun m b =>
    putBank m 0x8000 b (if c.keeps (23 + b) then get (0x80000 + 0x8000 * b) 0x8000 else none)) (accCells c.mem.acc)
  let spad := (List.range 16).foldl (fun m b =>
    putBank m 0x20000 b (if c.keeps (7 + b) then get (0x100000 + 0x20000 * b) 0x20000 else none)) c.mem.spad
  let t : Vector (Coupled Memory) 32 := match tiles with
    | some m => vof 32 fun i => { vget c.tiles.t i (Coupled.reset []) with data := cutMem m (4096 * i) 4096 }
    | none => c.tiles.t
  let v : Vector (Vector Word32 128) 32 := match vec with
    | some m => vof 32 fun r => vof 128 fun i => BitVec.ofNat 32 (readLE m (512 * r + 4 * i) 4)
    | none => c.vec.v
  { c with
    tiles := { c.tiles with t := t }
    vec := { c.vec with v := v }
    mem := ⟨spad, accOf acc, side.getD c.mem.side⟩ }

/-- The image with its cores as their records in memory give them. -/
def Device.readRecords (d : Device) (a : Area) (off : Nat) (img : Image) : Image :=
  { img with cores := (List.range img.cores.length).filterMap fun n =>
      img.cores[n]?.map fun k => (k.1, k.2.fromRecord fun o size => d.cutArea a (off + recordBytes * n + o) size) }

/-- Where the fault-table entry of a stop lies in the save area of its context: the record of its core, the entry of the stop
(17 R397, R413). -/
def Ctx.faultEntryAt (x : Ctx) (img : Image) (o : OpenStop) : Nat :=
  let n := img.cores.findIdx fun k => decide (k.2.id = o.core)
  let k := (x.stopsAt o.core).findIdx fun p => decide (p.fseq = o.fseq)
  x.savebase.toNat + 0x10000 + recordBytes * n + 0x70000 + 32 * k

/-- The reply that the fault table holds for a stop: ACT of its entry, if the entry is valid and names the stop. -/
def Device.faultReply (d : Device) (x : Ctx) (img : Image) (o : OpenStop) : Option (Option Nat) :=
  (d.cutSystem (x.faultEntryAt img o) 32).map fun m =>
    if readLE m 0 4 = o.fseq ∧ (readByte m 5).getLsbD 0 then some (readByte m 4).toNat else none

end Sys2Proof.Machine
end

