-- ==== Sys2Proof/Machine/Place.lean ====
section
/-! DEFINITION. Placement: the classes of cores, the scan of a rectangle, starting a launch on its cores, tasks, and the
dispatcher's visits (14 R340–R351; 01 R18, R38, R60; 22 R471). -/

namespace Sys2Proof.Machine

/-! ## The scan (14 R343, R344) -/

/-- The classes of 14 R343. -/
inductive CoreClass where
  | member | relay | blocker
  deriving DecidableEq, Repr

/-- A core that holds no context, no relay duty and no bound task. -/
def Core.free (c : Core) : Bool := c.resident.isNone && !c.relay && !c.bound

/-- Whether a core's CAPMASK covers a USEMASK. -/
def Core.covers (c : Core) (use : BitVec 24) : Bool := decide (c.capmask &&& use = use)

/-- The class of a core for a launch (14 R343, 15 R381); one whose CAPMASK is zero is a relay for every launch (23 R482). -/
def State.coreClass (s : State) (use : BitVec 24) (c : Core) : CoreClass :=
  if (s.cluster c).gate ≠ .run then .blocker
  else if !c.enabled || (decide (c.capmask = 0) && c.resident.isNone && !c.bound) then .relay
  else if !c.free then .blocker
  else if c.covers use then .member
  else .relay

/-- The class of a core with every core free (14 R346, R348; 22 R470). -/
def idleClass (use : BitVec 24) (c : Core) : CoreClass := 
  if c.enabled && c.covers use && decide (c.capmask ≠ 0) then .member else .relay

/-- The scan of a row going east: the members still to be found, and the cores from the west edge on; the members and
the relays between them. -/
def scanEast (cls : Core → CoreClass) : Nat → List Core → Option (List CoreId × List CoreId)
  | 0, _ => some ([], [])
  | _ + 1, [] => none
  | n + 1, c :: r =>
    match cls c with
    | .member => (scanEast cls n r).map fun x => (c.id :: x.1, x.2)
    | .relay => (scanEast cls (n + 1) r).map fun x => (x.1, c.id :: x.2)
    | .blocker => none

/-- The cores of a package row from a column on, going east. -/
def State.rowFrom (s : State) (prow wcol : Nat) : List Core :=
  s.cores.filter fun c => decide (c.id.packageRow = prow ∧ wcol ≤ c.id.col)

/-- One gang row: the core at the west edge is a member (14 R344). -/
def State.scanRow (s : State) (cls : Core → CoreClass) (prow wcol cols : Nat) : Option (List CoreId × List CoreId) :=
  let row := s.rowFrom prow wcol
  match row with
  | [] => none
  | c :: _ => if decide (c.id.col = wcol) && decide (cls c = .member) then scanEast cls (cols + 1) row else none

/-- Every gang row of a rectangle, or none. -/
def State.scanRows (s : State) (cls : Core → CoreClass) (v : Variant) : Nat → Option (List (List CoreId × List CoreId))
  | 0 => some []
  | n + 1 =>
    match s.scanRows cls v n, s.scanRow cls (v.row0 + n) v.wcol v.cols with
    | some a, some b => some (a ++ [b])
    | _, _ => none

/-- The scan of a variant's rectangle. -/
def State.scanVariant (s : State) (cls : Core → CoreClass) (v : Variant) : Option (List (List CoreId × List CoreId)) :=
  s.scanRows cls v (v.rows + 1)

/-- The member cores of a scan in partition order. -/
def scanMembers (x : List (List CoreId × List CoreId)) : List CoreId := (x.map Prod.fst).flatten

/-- The relays of a scan. -/
def scanRelays (x : List (List CoreId × List CoreId)) : List CoreId := (x.map Prod.snd).flatten

/-! ## The choice for a launch (14 R340, R348–R350) -/

/-- The launch whose rectangle is a task unit's pool (14 R348). -/
def Device.rootOf (d : Device) (l : Launch) : Launch :=
  match l.root with
  | some k => (d.launch k).getD l
  | none => l

/-- The launch whose rectangle is a task unit's pool (14 R348). -/
def State.rootOf (s : State) (l : Launch) : Launch := s.dev.rootOf l

/-- The members of the pool of a task unit (14 R348). -/
def State.pool (s : State) (l : Launch) : Option (List CoreId) :=
  let r := s.rootOf l
  if r.members.isEmpty then (s.scanVariant (idleClass r.record.use) (r.record.variant 0)).map scanMembers
  else some r.members

/-- The pool member that a task with input casks names (14 R350). -/
def State.namedMember (s : State) (l : Launch) : Option CoreId :=
  let r := s.rootOf l
  let v := r.record.variant 0
  let (_, crow, ccol) := l.record.home
  match s.pool l with
  | some p => if crow ≤ v.rows ∧ ccol ≤ v.cols then p[crow * (v.cols + 1) + ccol]? else none
  | none => none

/-- The channel of the `unit`-th 64 KiB unit of the HBM page at a frame, as 64 × die + channel: the units of a page take the
channels of its die in ascending rotation (10 R294). -/
def unitChannel (frame unit : Nat) : Nat :=
  let first := Config.pageChannel frame % 256
  first / 64 * 64 + (first % 64 + unit) % 64

/-- The distance from the channel of HOME's page, that of its first unit, to a core (14 R349, 10 R294). -/
def State.homeDistance (s : State) (l : Launch) (id : CoreId) : Nat :=
  let (home, _, _) := l.record.home
  match s.dev.ctx l.ctx with
  | none => 0
  | some c =>
    match walk s.dev.hbm c.ptroot home with
    | .leaf e pb _ =>
      match leafHome e pb (home / 2 ^ pb * 2 ^ pb) with
      | .hbm a _ =>
        let ch := unitChannel a 0
        if ch / 64 ≠ id.die then 2
        else if ch % 64 / 16 = 2 * (id.row / 4) + id.col / 9 then 0 else 1
      | _ => 0
    | _ => 0

/-- The better of two cores for a task: the least distance, then package row, then column (14 R349). -/
def closer (d : CoreId → Nat) (a b : CoreId) : CoreId :=
  if d b < d a ∨ (d b = d a ∧ b.number < a.number) then b else a

/-- What the dispatcher can do with a candidate. -/
inductive Placing where
  | gang (v : Nat) (scan : List (List CoreId × List CoreId))
  | unit (core : CoreId)
  | bind (core : CoreId)
  deriving DecidableEq, Repr

/-- The placement of a task unit, if a core can be chosen (14 R349, R350). -/
def State.placeUnit (s : State) (l : Launch) : Option Placing :=
  let isFree := fun id : CoreId => decide (s.coreClass l.record.use (s.coreAt id) = .member)
  if l.record.ncask = 0 then
    match s.pool l with
    | some p =>
      match p.filter isFree with
      | [] => none
      | a :: r => some (.unit (r.foldl (closer (s.homeDistance l)) a))
    | none => none
  else
    match s.namedMember l with
    | some id => if isFree id then some (.bind id) else none
    | none => none

/-- The first variant that can be placed, in order (14 R344). -/
def State.placeGang (s : State) (l : Launch) : Option Placing :=
  (List.range (l.record.nvar + 1)).findSome? fun v =>
    (s.scanVariant (s.coreClass l.record.use) (l.record.variant v)).map (Placing.gang v)

/-- Whether a context is pre-empted: a save of it is under way or waits to be resumed, or a rollback is (17 R406, R410,
R414). -/
def Device.preempted (d : Device) (ctx : Nat) : Bool :=
  match d.ctx ctx with
  | some c => c.saveBy.isSome || c.saved.isSome || c.contained.isSome
  | none => true

/-- The placement of a launch, if it is placeable now (14 R340); one whose cores an image holds is placed by its
resumption (17 R407, R414). -/
def State.placing (s : State) (l : Launch) : Option Placing :=
  if s.dev.preempted l.ctx || l.resume then none
  else if l.record.mode = 2 then s.placeUnit l else s.placeGang l

/-- Whether a launch could be placed with every core free; a task unit needs a core of its pool, or the one that it names, that
is enabled and covers its USE (14 R346). -/
def State.couldPlace (s : State) (l : Launch) : Bool :=
  if l.record.mode = 2 then
    let takes := fun id : CoreId => decide (idleClass l.record.use (s.coreAt id) = .member)
    if l.record.ncask = 0 then ((s.pool l).getD []).any takes else (s.namedMember l).any takes
  else
    (List.range (l.record.nvar + 1)).any fun v =>
      (s.scanVariant (idleClass l.record.use) (l.record.variant v)).isSome

/-- UNPLACEABLE_CHECK: accepted launches that have not started and could never be placed end with status 3 (14 R346). -/
def State.dropUnplaceable (s : State) : State :=
  (s.dev.launches.filter fun l => l.unstarted && decide (l.state ≠ .bound) && !s.couldPlace l).foldl
    (fun (s : State) (l : Launch) => s.endLaunch l.key 3 0) s

/-! ## SBM banks of a context (14 R347) -/

/-- The mapping entries below a table: virtual address, entry, log2 of the page. -/
def leavesFrom (hbm : Memory) : Levels → Nat → Nat → List (Nat × Dword × Nat)
  | [], _, _ => []
  | (lo, k, ps, next) :: r, t, va =>
    let idx := ((hbm.filter fun c => decide (t ≤ c.1 ∧ c.1 < t + 8 * 2 ^ k)).map fun c => (c.1 - t) / 8).dedup
    (idx.map fun i =>
      let e : Dword := BitVec.ofNat 64 (readLE hbm (t + 8 * i) 8)
      let va := va + i * 2 ^ lo
      if ebits e 0 1 = 0 then []
      else if ebits e 1 1 = 1 then (if leafOk e lo ps then [(va, e, lo)] else [])
      else if next = 0 ∨ !pointOk e next then []
      else leavesFrom hbm r (ebits e 7 42 * 2 ^ 7) va).flatten

/-- The valid mapping entries of a context's tree. -/
def Device.leaves (d : Device) (c : Ctx) : List (Nat × Dword × Nat) :=
  if ebits c.ptroot 63 1 = 0 then [] else leavesFrom d.hbm levels (ebits c.ptroot 19 30 * 2 ^ 19) 0

/-- The SBM banks in which a context's tree places a page, as 288 × die + bank. -/
def Device.sbmBanks (d : Device) (ctx : Nat) : List Nat :=
  match d.ctx ctx with
  | none => []
  | some c =>
    ((d.leaves c).map fun x =>
      match leafHome x.2.1 x.2.2 (x.1) with
      | .sbm a => (List.range ((2 ^ x.2.2 + 2 ^ 18 - 1) / 2 ^ 18)).map fun i =>
          288 * (a / 2 ^ 27) + (a / 2 ^ 18 % 2 ^ 9 + i)
      | _ => []).flatten.dedup

/-! ## Starting (01 R18, R38, R60; 14 R345, R351; 15 R366) -/

/-- The state of a core when a launch starts a context on it; a bound task keeps d.x Awake with its casks; every engine
begins its first cycle in the following ref cycle (DEDUCED, log entry 22). CHAINCUR reads 0, CHAINHEAD as before (DESIGN CHOICE, log
entry 15). -/
def Core.start (c : Core) (x : Ctx) (r : Resident) (entry addr : Nat) (keep : Bool) : Core :=
  let pos := 16 * r.row + r.col
  let sregs : Vector Dword 64 := vof 64 fun i => if 1 ≤ i ∧ i ≤ 15 then spGet x.breg (16 * pos + i) else 0
  let fetching := decide (r.mode ≠ .wave ∨ r.col = 0)
  let off : Vector Dom 31 := Vector.replicate 31 .off
  let doms := if fetching then vput off 0 (.waking false (wakeCycles 0 false)) else off
  let new := Core.reset c.id
  { new with
    enabled := c.enabled
    capmask := c.capmask
    resident := some r
    regs := { new.regs with s := sregs }
    ec := { Eng.reset with state := .running, pc := BitVec.ofNat 64 entry, phase := 1 }
    ea := { Eng.reset with phase := 1 }
    ev := { Eng.reset with phase := 1 }
    em := { Eng.reset with phase := 1 }
    ex := { Eng.reset with phase := 1 }
    doms := if keep then vput doms 5 .awake else doms
    mem := c.mem
    xc := if keep then c.xc else { CopyEng.reset with chainhead := c.xc.chainhead }
    csr := { CoreCsr.reset with
      fpstatus := x.fpstatus
      srseed := x.srseed
      genV := x.srseed
      genM := x.srseed
      genA := x.srseed
      scale := x.scale
      faultinfo := x.lastFault.1
      faultpc := x.lastFault.2.1
      faultaddr := x.lastFault.2.2
      launchrec := BitVec.ofNat 64 addr }
    tlbC := c.tlbC
    tlbA := c.tlbA
    tlbX := c.tlbX }

/-- The scheduler state of a job that a gyle's open records (17 R400). -/
def Device.snapshot (d : Device) (job : Nat) : Snapshot :=
  let waiting := (d.launches.filter fun l => decide (d.jobOf l = job) && l.state.unstarted).map Launch.key
  match d.job job with
  | some j => ⟨d.fresh, j.counters, j.graphs, j.phases, waiting⟩
  | none => ⟨d.fresh, [], [], [], waiting⟩

/-- The first placement of a context opens its gyle (17 R400); its weight refills boost (15 R370). -/
def State.noteplaced (s : State) (l : Launch) : State :=
  s.modDev fun d =>
    let snap := d.snapshot (d.ctxJob l.ctx)
    d.modCtx l.ctx fun c =>
      { c with
        weight := l.record.weight
        placed := true
        snap := if c.placed then c.snap else snap }

/-- The mode of a record. -/
def Record.launchMode (r : Record) : Mode := match r.mode with | 1 => .wave | 2 => .task | _ => .detached

/-- What the `i`-th member of a launch of `cols` columns holds. -/
def Launch.residentAt (l : Launch) (i rowId : Nat) : Resident where
  ctx := l.ctx
  launch := l.key
  use := l.record.use
  mode := l.record.launchMode
  row := i / l.cols
  col := i % l.cols
  lastCol := l.cols - 1
  step := l.record.step
  rowId := rowId

/-- The gang rows of a wave launch, numbered from `id` on (01 R38). -/
def Launch.gangRows (l : Launch) (id : Nat) : List Row :=
  if l.record.mode = 1 then
    (List.range (l.members.length / l.cols)).map fun g =>
      { id := id + g
        launch := l.key
        members := (l.members.drop (g * l.cols)).take l.cols
        times := Vector.replicate 5 []
        holders := Vector.replicate 5 []
        decided := false
        target := Vector.replicate 5 none
        draining := false
        faulted := none
        barrier := false
        again := false }
  else []

/-- The cores of a placed launch are held for it, its relays too in wave mode (14 R344, R345). -/
def State.holdCores (s : State) (l : Launch) (rowId : Nat) : State :=
  let s := (List.range l.members.length).foldl (fun (s : State) i =>
    match l.members[i]? with
    | some id => s.modCore id fun c => { c with resident := some (l.residentAt i (rowId + i / l.cols)) }
    | none => s) s
  l.relays.foldl (fun (s : State) id => s.modCore id fun c => { c with relay := true }) s

/-- The members of a launch start at its C entry (14 R345). -/
def State.startCores (s : State) (l : Launch) : State :=
  match s.dev.ctx l.ctx with
  | none => s
  | some x =>
    let entry := (l.record.variant l.variant).entry
    let s := l.members.foldl (fun (s : State) id =>
      s.modCore id fun c =>
        match c.resident with
        | some r => c.start x r entry l.addr false
        | none => c) s
    (l.members.map CoreId.cluster).dedup.foldl (fun (s : State) n => s.retarget n) s

/-! ### The column map (22 R470, R471) -/

/-- The physical columns of each gang row of a partition. -/
def Launch.columns (l : Launch) : List (List Nat) :=
  (List.range (l.members.length / l.cols)).map fun g => ((l.members.drop (g * l.cols)).take l.cols).map CoreId.col

/-- The physical columns of the partition of a launch: of a task launch its pool (14 R348). -/
def State.columns (s : State) (l : Launch) : List (List Nat) :=
  if l.record.mode = 2 then { s.rootOf l with members := (s.pool l).getD [], variant := 0 }.columns else l.columns

/-- The loaded copy whose C entry a launch has, for whichever of the contexts that share its arena it was loaded (22 R469); a task unit
has the ENTRY of its root record (14 R348). -/
def Device.copyOf (d : Device) (l : Launch) : Option Loaded :=
  let r := d.rootOf l
  d.loaded.find? fun k => decide (k.copy.base + k.copy.centry = (r.record.variant r.variant).entry)

/-- The package row of the first of some cores in partition order. -/
def firstRow (ids : List CoreId) : Nat := (ids.head?.map CoreId.packageRow).getD 0

/-- The first package row of the partition of a launch: of a task launch that of its pool (14 R348). -/
def State.topRow (s : State) (l : Launch) : Nat := firstRow (if l.record.mode = 2 then (s.pool l).getD [] else l.members)

/-- Whether the copy of a launch must be relocated again before it starts. -/
def State.mapDiffers (s : State) (l : Launch) : Bool :=
  match s.dev.copyOf l with
  | some k => decide (k.row0 ≠ s.topRow l ∨ k.map ≠ s.columns l)
  | none => false

/-- A placed launch starts, or keeps its cores held until its copy is relocated. -/
def State.startOrHold (s : State) (l : Launch) : State :=
  if s.mapDiffers l then s.modLaunch l.key fun l => { l with state := .bound }
  else (s.modLaunch l.key fun l => { l with state := .running }).startCores l

/-- LAUNCH_PLACE of a gang (14 R345, R347). -/
def State.placeLaunch (s : State) (l : Launch) (v : Nat) (scan : List (List CoreId × List CoreId)) : State :=
  let l := { l with
    variant := v
    members := scanMembers scan
    halted := []
    arrived := []
    relays := if l.record.mode = 1 then scanRelays scan else []
    banks := if l.record.sbm = 0 then [] else s.dev.sbmBanks l.ctx
    placed := true }
  let (id, s) := s.freshId
  let rows := l.gangRows id
  let s := s.modDev fun d => { d with fresh := d.fresh + rows.length, rows := d.rows ++ rows }
  let s := ((s.modLaunch l.key fun _ => l).holdCores l id).noteplaced l
  s.startOrHold l

/-- A task unit placed on a core of its pool: what the core holds (14 R351, 01 R60). -/
def State.unitResident (s : State) (l : Launch) (id : CoreId) : Resident :=
  let r := s.rootOf l
  let p := (s.pool l).getD []
  let i := (p.findIdx? fun k => decide (k = id)).getD 0
  let v := r.record.variant 0
  { ctx := l.ctx, launch := l.key, use := l.record.use, mode := .task, row := i / (v.cols + 1), col := i % (v.cols + 1)
    lastCol := v.cols, step := 0, rowId := 0 }

/-- The pool of a task launch stands from the placement of its root on; its banks are referenced (14 R347, R348). -/
def State.fixPool (s : State) (l : Launch) : State :=
  let p := (s.pool l).getD []
  let banks := if l.record.sbm = 0 then [] else s.dev.sbmBanks l.ctx
  s.modLaunch l.key fun l =>
    { l with members := if l.root.isNone then p else l.members, banks := banks, placed := true }

/-- A task unit starts on its core, or holds it until the copy of its launch is relocated (14 R345, R350, R351). -/
def State.startUnit (s : State) (l : Launch) (id : CoreId) (keep : Bool) : State :=
  match s.dev.ctx l.ctx with
  | none => s
  | some x =>
    let r := s.unitResident l id
    let entry := ((s.rootOf l).record.variant 0).entry
    if s.mapDiffers l then
      (s.modLaunch l.key fun l => { l with state := .bound }).modCore id fun c => { c with bound := true, resident := some r }
    else
    let s := s.modLaunch l.key fun l => { l with state := .running }
    let s := s.modCore id fun c => { (c.start x r entry l.addr keep) with bound := false }
    s.retarget id.cluster

/-- A task is bound to its core: d.x is Awake and its casks are defined (14 R350); nothing is left of a stop of an earlier
launch (14 R351). -/
def State.bindUnit (s : State) (l : Launch) (id : CoreId) : State :=
  let r := s.unitResident l id
  let s := (s.fixPool l).modLaunch l.key fun l => { l with state := .bound }
  s.modCore id fun c =>
    let doms : Vector Dom 31 := Vector.replicate 31 .off
    let xc := l.record.casks.foldl (fun (x : CopyEng) k => x.define k.1 1 k.2) { CopyEng.reset with chainhead := c.xc.chainhead }
    { c with
      bound := true, resident := some r, doms := vput doms 5 .awake, xc := xc
      flt := FaultState.reset, aHalt := none, xHalt := none }

/-- A placement happens. -/
def State.place (s : State) (l : Launch) (p : Placing) : State :=
  match p with
  | .gang v scan => s.placeLaunch l v scan
  | .unit id => ((s.fixPool l).noteplaced l).startUnit l id false
  | .bind id => (s.noteplaced l).bindUnit l id

/-- The core that holds a bound or running task unit. -/
def State.unitCore (s : State) (key : Nat) : Option CoreId :=
  (s.cores.find? fun c => match c.resident with | some r => decide (r.launch = key) | none => false).map Core.id

/-- TASK_START: every input cask of a bound task is filled, and it starts; so does a task unit that holds its core until its
copy is relocated, once that is done (14 R345, R350). -/
def execTaskStart (key : Nat) (s : State) : Result :=
  .next <|
    match s.dev.launch key, s.unitCore key with
    | some l, some id =>
      let x := (s.coreAt id).xc
      if l.state = .bound ∧ l.record.mode = 2 ∧ (s.coreAt id).bound ∧ l.record.casks.all (fun k => (x.slot k.1 0).filled) then
        s.startUnit l id (decide (l.record.ncask ≠ 0))
      else s
    | _, _ => s

/-! ## The dispatcher's pointer (14 R340–R342) -/

/-- The priority of a launch: those of the seizing job count as 0, and nothing else is placed meanwhile (17 R416). -/
def Device.priority (d : Device) (l : Launch) : Option Nat :=
  if d.seizure.active then
    (if d.jobOf l = d.seizure.job ∨ l.record.prio = 0 then some 0 else none)
  else some l.record.prio

/-- The candidate of a queue: its oldest launch that is ready and has not started (14 R340). One whose cores an image holds has
started (17 R407, R414). -/
def Device.candidate (d : Device) (q : Nat) : Option Launch :=
  d.launches.find? fun l => decide (l.queue = q ∧ l.state = .ready) && !l.resume

/-- The least priority of a placeable candidate (14 R341). -/
def State.level (s : State) : Option Nat :=
  ((List.range 16).filterMap fun q =>
    match s.dev.candidate q with
    | some l => if (s.placing l).isSome then s.dev.priority l else none
    | none => none).foldl (fun a p => match a with | none => some p | some b => some (min b p)) none

/-- The cost of a launch (14 R340). -/
def Launch.cost (l : Launch) : Nat :=
  if l.record.mode = 2 then 1 else let v := l.record.variant 0; (v.rows + 1) * (v.cols + 1)

/-- The placements of one visit: while the queue has a placeable candidate of the level whose cost its deficit covers;
`n` bounds them. -/
def State.placeWhile (q level : Nat) : Nat → State → State
  | 0, s => s
  | n + 1, s =>
    match s.dev.candidate q with
    | none => s
    | some l =>
      if s.dev.priority l ≠ some level ∨ (s.dev.queue q).deficit < l.cost then s
      else
        match s.placing l with
        | none => s
        | some p =>
          let s := s.place l p
          State.placeWhile q level n (s.modDev fun d => d.modQueue q fun x => { x with deficit := x.deficit - l.cost })

/-- A deficit set. -/
def State.setDeficit (s : State) (q v : Nat) : State := s.modDev fun d => d.modQueue q fun x => { x with deficit := v }

/-- One visit of a queue (14 R342): the state, and whether it found a placeable candidate. -/
def State.visit (s : State) (q : Nat) : State × Bool :=
  match s.dev.candidate q, s.level with
  | none, _ => (s.setDeficit q 0, false)
  | some _, none => (s, false)
  | some l, some level =>
    if s.dev.priority l ≠ some level then (s.setDeficit q 0, false)
    else if (s.placing l).isNone then (s, false)
    else
      let s := s.setDeficit q ((s.dev.queue q).deficit + l.record.weight)
      let s := State.placeWhile q level 64 s
      (if (s.dev.candidate q).isNone then s.setDeficit q 0 else s, true)

/-- DISPATCH_VISIT: the pointer visits its queue and moves on; it rests after sixteen visits in a row that find nothing
(14 R342). -/
def execDispatchVisit (s : State) : Result :=
  .next <|
    if 16 ≤ s.dev.idleVisits then s
    else
      let (s, found) := s.visit s.dev.pointer
      s.modDev fun d => { d with pointer := (d.pointer + 1) % 16, idleVisits := if found then 0 else d.idleVisits + 1 }

/-- TASK_BIND: the next visit is one whose first placement binds a task with input casks to its free core, and it comes: a task is
bound in the order of the pointer and out of its queue's deficit as any candidate is placed (14 R341, R342, R350). -/
def execTaskBind (key : Nat) (s : State) : Result :=
  match s.dev.launch key with
  | some l =>
    let q := s.dev.pointer
    let binds := match s.placing l with | some (.bind _) => true | _ => false
    let comes := decide (s.dev.idleVisits < 16 ∧ l.queue = q ∧ s.dev.candidate q = some l ∧ (s.dev.priority l).isSome
      ∧ s.dev.priority l = s.level ∧ l.cost ≤ (s.dev.queue q).deficit + l.record.weight)
    if binds && comes then execDispatchVisit s else .next s
  | none => .next s

end Sys2Proof.Machine
end

