-- ==== Sys2Proof/Machine/Gyle.lean ====
section
/-! DEFINITION. Ends of units and launches (01 R36, 14 R351, R352, R355), gyles (17 R400–R404), and containment by
rollback (17 R405–R408). -/

namespace Sys2Proof.Machine

/-! ## The focus -/

/-- The state with a core under the focus. -/
def State.focusOn (s : State) (id : CoreId) : State :=
  if s.core.id = id then s
  else
    let all := s.cores
    match all.findIdx? fun c => decide (c.id = id) with
    | none => s
    | some k => { s with left := all.take k, core := (all[k]?).getD s.core, right := all.drop (k + 1) }

/-- Something done with a core under the focus. -/
def State.atCore (s : State) (id : CoreId) (f : State → State) : State :=
  (f (s.focusOn id)).focusOn s.core.id

/-- The cores that hold a context. -/
def State.coresOf (s : State) (ctx : Nat) : List CoreId :=
  (s.cores.filter fun c => decide (c.ctxId = ctx)).map Core.id

/-! ## Retirement (01 R36, R60; 05 R177; 15 R366) -/

/-- Whether a HALT or TEND can retire (01 R36); not in a core that stops for a save or a rollback (17 R387). -/
def Core.canRetire (c : Core) : Bool :=
  [Engine.a, .v, .m, .x].all (fun e => decide ((c.eng e).state = .idle ∨ (c.eng e).state = .joined))
    && !(vget c.flt.drained 0 false) && c.ec.landing.isEmpty && c.accesses.isEmpty && c.arrivals.isEmpty && !c.xc.atWork && !c.matrixBusy

/-- The core after its HALT or TEND has retired: every domain Off, every engine at divisor 3, a claim still held discarded (05
R177, 08 R228, 15 R366). The CLKDIVs of column 0 of a gang row stay for the columns that have yet to pass them (15 R365). CHAINCUR reads 0 after it, and after the start of
a launch, and CHAINHEAD as before (09 R275 gives neither; DESIGN CHOICE, log entry 15). -/
def Core.retired (c : Core) : Core :=
  let quiet := engines.foldl (fun (c : Core) e => c.setEng e { Eng.reset with index := (c.eng e).index, pc := (c.eng e).pc }) c
  let drop := fun k : ClaimEntry => { k with valid := false }
  { quiet with
    doms := Vector.replicate 31 .off
    mx := { c.mx with claims := c.mx.claims.map drop, active := false }
    ctl := ⟨none, none, .none, none, [], c.ctl.clk⟩
    xc := { CopyEng.reset with chainhead := c.xc.chainhead } }

/-- The entries of the table of s1–s15 that a core writes (01 R60). -/
def Core.writeBack (c : Core) (breg : Sparse 64) : Sparse 64 :=
  match c.resident with
  | none => breg
  | some r => (List.range 15).foldl (fun b i => spSet b (16 * (16 * r.row + r.col) + i + 1) (vget c.regs.s (i + 1) 0)) breg

/-- The core holds nothing any more. -/
def Core.release (c : Core) : Core :=
  { c with resident := none, relay := false, bound := false, ctl := { c.ctl with clk := [] } }

/-- The fetch unit of column 0 stays Awake until the HALT of its row has retired in every column (01 R45); `c` is the core that
retires now, as it stood before. -/
def State.rowFetch (s : State) (c : Core) : State :=
  match s.rowOf c with
  | none => s
  | some r =>
    let m := r.members.head?.getD c.id
    let ended := match s.dev.launch r.launch with | some l => r.members.all fun id => l.halted.contains id | none => true
    if ended then s.modCore m fun k => k.setDom 0 .off
    else if m = c.id then s.modCore m fun k => k.setDom 0 (c.dom 0)
    else s

/-- A HALT or TEND of the focus core retires: s1–s15 go to the table of the context, and a task's core is free at once
(01 R60, 14 R351, R355). The stream index goes past the HALT: a stop of the row takes it as issued (17 R388). -/
def State.retire (s : State) : State :=
  let c := s.core
  let s := s.modCtx c.ctxId fun x => { x with breg := c.writeBack x.breg }
  let s := match c.resident with
    | some r => s.modLaunch r.launch fun l => { l with halted := l.halted ++ [c.id] }
    | none => s
  let s := s.modFocus fun c =>
    if c.mode = .task then c.retired.release else { c.retired with ec := { c.retired.ec with index := c.ec.index + 1 } }
  let s := if c.mode = .task then s.modDev fun d => { d with idleVisits := 0 } else s
  (s.rowFetch c).retargetFor c.id

/-- Whether a core has an access or a nest at work in a scratchpad bank of core `id`. -/
def Core.usesSpad (c : Core) (id : CoreId) : Bool :=
  (List.range 16).any fun b => c.accesses.any (fun a => a.inBank id (7 + b)) || c.nestReads id (7 + b)

/-- Whether the HALT or TEND of the focus core can retire. Its banks go Off with it, so that it waits, as a KILN of them does (01 R52),
until no other core has an access in them: none of these then meets the scratchpad of a later context (10 R289; DEDUCED, log
entry 43). -/
def State.canRetire (s : State) : Bool := s.core.canRetire && !(s.left ++ s.right).any fun c => c.usesSpad s.core.id

/-- HALT_RETIRE (01 R36). -/
def execHaltRetire (s : State) : Result :=
  .next (if s.core.ctl.wait = .halt ∧ s.core.flt.stop = .run ∧ s.canRetire then s.retire else s)

/-- TEND_RETIRE (14 R351). -/
def execTendRetire (s : State) : Result :=
  .next (if s.core.ctl.wait = .tend ∧ s.core.flt.stop = .run ∧ s.canRetire then s.retire else s)

/-- HALT: it waits to retire; in a task unit it acts as TEND (05 R177). -/
def execHalt (s : State) : Result :=
  s.word .c .halt fun s =>
    let w : CWait := if s.core.mode = .task then .tend else .halt
    .ok (s.modFocus fun c => { c with ctl := { c.ctl with wait := w } }) .stay

/-- TEND (05 R177). -/
def execTend (s : State) : Result :=
  s.word .c .tend fun s => .ok (s.modFocus fun c => { c with ctl := { c.ctl with wait := .tend } }) .stay

/-! ## Closing a gyle (17 R400–R404) -/

/-- The units of 128 bytes that an image of `n` cores takes (17 R404, R413). -/
def imageUnits (n : Nat) : Nat := n * 24576

/-- A gyle that closes as a rollback of the whole job may need it: kept while another device of the job is known, until every
one has closed its SEQ (17 R408; DESIGN CHOICE, log entry 34). -/
def Ctx.keepPast (c : Ctx) (seq : Nat) : List GylePast :=
  let least := c.peerSeqs.foldl (fun (a : Nat) p => min a p.2) seq
  if c.peerSeqs.isEmpty then []
  else (⟨seq, c.log, c.peerLog, c.snap, c.ended, c.image⟩ :: c.past).filter fun p => decide (least < p.seq)

/-- A gyle of a context closes and the next one opens (17 R400, R402, R404). Its image, if it has one, goes to the front of the
log region. -/
def State.closeGyle (s : State) (ctx : Nat) (image : Option Image) : State :=
  match s.dev.ctx ctx with
  | none => s
  | some c =>
    s.modDev fun d =>
      let seq := (c.seq + 1) % 2 ^ 32
      let free := fun r : Completion =>
        if r.ctx = ctx ∧ r.gated then { r with gated := false, time := d.globalTime.toNat, gseq := seq } else r
      let freeQ := fun q : Queue => { q with completions := q.completions.map free }
      let calm := fun l : Launch => if l.ctx = ctx then { l with rollbacks := 0 } else l
      let d := { d with
        host := releaseHeld d.host c.held
        queues := d.queues.map freeQ
        launches := d.launches.map calm }
      let d := match image with
        | some i => d.putRecords (.log c.logbase.toNat) 0 c (i.cores.map Prod.snd)
        | none => d
      let snap := d.snapshot c.job
      d.modCtx ctx fun c => { c with
        seq := seq
        unprot := false
        used := match image with | some i => imageUnits i.cores.length | none => 0
        log := []
        held := []
        ended := []
        past := c.keepPast seq
        peerLog := []
        image := image
        snap := snap }

/-- The cores, relays and rows of a launch are released, their engines at divisor 3 (14 R355, 15 R363, R366). -/
def State.freeCores (s : State) (l : Launch) : State :=
  let own := fun c : Core => match c.resident with | some r => decide (r.launch = l.key) | none => false
  let rows := s.dev.rows.filter fun r => decide (r.launch = l.key)
  let clusters := ((s.cores.filter own).map (fun c => c.id.cluster) ++ (rows.map Row.clusters).flatten).dedup
  let s := (s.mapCores fun c =>
    if own c then c.retired.release else if l.relays.contains c.id then { c with relay := false } else c).modDev fun d =>
    { d with
      rows := d.rows.filter fun r => decide (r.launch ≠ l.key)
      transfers := d.transfers.filter fun t => decide (t.launch ≠ l.key) }
  clusters.foldl State.retarget s

/-- LAUNCH_COMPLETE: every member of a running launch has halted; of a task launch, every unit has ended (14 R352,
R355). Its gyle closes when no other launch of the context runs (17 R400). -/
def execLaunchComplete (key : Nat) (s : State) : Result :=
  .next <|
    match s.dev.launch key with
    | none => s
    | some l =>
      let over_ :=
        if l.record.mode = 2 then
          !l.halted.isEmpty && !(s.dev.launches.any fun o => decide (o.root = some key))
            && !(s.dev.queues.toList.any fun q => q.device.any fun e => decide (e.root = some key))
        else l.members.all fun id => l.halted.contains id
      if l.state = .running ∧ over_ ∧ !s.dev.preempted l.ctx then
        let s := (s.freeCores l).endLaunch key 0 0
        if l.root.isSome || s.dev.anyRuns l.ctx then s else s.closeGyle l.ctx none
      else s

/-- Whether a core waits at its GYLE. -/
def Core.atGyle (c : Core) : Bool := decide (c.ctl.wait = .gyle)

/-- The launches that an image takes with a launch: of a task launch every unit that holds a core, and the launch itself (17 R404;
DESIGN CHOICE, log entry 36). -/
def Device.imageLaunches (d : Device) (l : Launch) : List Launch :=
  d.launches.filter fun o => decide (o.rootKey = l.rootKey ∧ (o.state = .running ∨ o.state = .bound))

/-- The cores that hold a launch or task unit, in partition order. -/
def State.coresFor (s : State) (l : Launch) : List CoreId :=
  if l.record.mode = 2 then (match s.unitCore l.key with | some id => [id] | none => []) else l.members

/-- A core at the GYLE of its launch, its results in flight held as at a stop: the GYLE issues in its next C cycle, and in a column
of a gang row two cycles later for each column west of it (01 R39, R56). -/
def Core.heldAtGyle (c : Core) : Core :=
  let col := match c.resident with | some r => r.col | none => 0
  let next := fun x : Eng => { x with
    used := true, hold := none, landing := x.landing.map fun l => { l with rem := l.rem - 2 * col } }
  let c := if decide (c.ec.state = .running) && (c.atGyle || decide (c.mode = .wave)) then c.modEng .c next else c
  engines.foldl Core.freezeLanding c

/-- Every issued access of the focus core performs (17 R406 step 1); `n` bounds the units. -/
def State.performAll : Nat → State → State
  | 0, s => s
  | n + 1, s => if s.core.accesses.isEmpty then s else State.performAll n (s.performAt 0)

/-- The units that a core has still to perform. -/
def Core.unitsLeft (c : Core) : Nat := (c.accesses.map fun a => a.units.length + 1).sum

/-- Every issued access of some cores performs. -/
def State.performCores (s : State) (ids : List CoreId) : State :=
  ids.foldl (fun (s : State) id => s.atCore id fun s => State.performAll s.core.unitsLeft s) s

/-- The image of a launch's cores at their GYLE, which has completed and issues once they are restored (17 R404); a unit of a task
launch that is not at a GYLE is taken as it stands. Their results in flight are held as at a stop (01 R56). Loads that they have issued
have performed in it, so that none reads after a rollback by a translation from before it (19 R442); their credits on the way and
their transfers for the next communication step go with them (DEDUCED, log entry 19). -/
def State.gyleImage (s : State) (l : Launch) : Image :=
  let ls := (s.dev.imageLaunches l).map fun o => if o.key = l.key then { o with passing := l.arrived } else o
  let ids := (ls.map s.coresFor).flatten
  let t := s.performCores ids
  ⟨1, true, false, ls, (ls.map fun o => (t.coresFor o).map fun id => (o.key, (t.coreAt id).heldAtGyle)).flatten,
    s.dev.credits.filter fun k => ids.contains k.src, s.dev.transfers.filter fun x => ls.any fun o => decide (o.key = x.launch)⟩

/-- Whether every member of a launch has reached its GYLE or BSYNC: in a wave launch, every gang row (01 R487). A core
that stops for a save or a rollback forgets its wait (17 R387). The one core of a task unit is its own (05 R177 speaks of the
cores of the launch; DESIGN CHOICE, log entry 36). -/
def State.allReached (s : State) (l : Launch) (w : CWait) : Bool :=
  let at_ := fun id : CoreId => decide ((s.coreAt id).ctl.wait = w)
  if s.dev.preempted l.ctx then false
  else if l.record.mode = 1 then
    !l.members.isEmpty && (s.dev.rows.filter fun r => decide (r.launch = l.key)).all fun r =>
      r.barrier && (match r.members.head? with | some id => l.arrived.contains id && at_ id | none => false)
  else if l.record.mode = 2 then
    (match s.unitCore l.key with | some id => l.arrived.contains id && at_ id | none => false)
  else !l.members.isEmpty && l.members.all fun id => l.arrived.contains id && at_ id

/-- Whether every memory write that a core has issued has performed: its stores, those of its copies, and the write-back of a record whose
copy has completed; a credit that a full cask holds is no write (05 R177, 09 R274, R279). -/
def Core.writesDone (c : Core) : Bool :=
  let writes := fun a : Access => match a.op with | .load _ _ | .ldw _ | .tileLoad _ _ => false | _ => true
  !c.accesses.any writes && c.xc.copies.all Copy.sent
    && match c.xc.walk.open_ with | [] => true | r :: _ => c.xc.copies.any fun k => decide (k.id = r.1)

/-- Whether every memory write that cores of a context have issued has performed (05 R177). -/
def State.writesDone (s : State) (ctx : Nat) : Bool :=
  s.cores.all fun c => decide (c.ctxId ≠ ctx) || (match s.launchOf c with | some l => l.heldBack | none => false) || c.writesDone

/-- A GYLE that every core of a launch has reached completes: the gyle closes if no other launch of the context runs
(05 R177, 17 R400, R404). -/
def State.settleGyle (s : State) (l : Launch) : State :=
  if !s.allReached l .gyle || !s.writesDone l.ctx then s
  else
    let s := if s.dev.otherRuns l.ctx l then s else s.closeGyle l.ctx (some (s.gyleImage l))
    s.modLaunch l.key fun l => { l with passing := l.arrived, arrived := [] }

/-- The focus core waits at its barrier word. -/
def State.waitAt (s : State) (w : CWait) : State := s.modFocus fun c => { c with ctl := { c.ctl with wait := w } }

/-- The focus core has reached its GYLE or BSYNC. -/
def State.arrive (s : State) (w : CWait) : State :=
  let s := s.waitAt w
  match s.core.resident with
  | some r => s.modLaunch r.launch fun l =>
      { l with arrived := if l.arrived.contains s.core.id then l.arrived else l.arrived ++ [s.core.id] }
  | none => s

/-- The focus core leaves its barrier; in wave mode logical column 0 leaves for its row. At its next barrier word it waits
again, whether or not the others have left this one (05 R177, 14 R353). -/
def State.depart (s : State) : State :=
  let s := s.modFocus fun c => { c with ctl := { c.ctl with wait := .none } }
  match s.core.resident with
  | none => s
  | some r =>
    let id := s.core.id
    let s := if r.mode = .wave then
        s.modDev fun d => { d with rows := d.rows.map fun w => if w.id = r.rowId then { w with barrier := false } else w }
      else s
    s.modLaunch r.launch fun l => { l with passing := l.passing.filter fun k => decide (k ≠ id) }

/-- GYLE: it holds until its completion, and then issues; a column east of column 0 issues behind it (05 R177, 01 R487). -/
def execGyle (s : State) : Result :=
  s.word .c .gyle fun s =>
    match s.launchOf s.core, s.core.resident with
    | some l, some r =>
      if r.mode = .wave ∧ r.col ≠ 0 then .ok s .seq
      else if l.passing.contains s.core.id then .ok s.depart .seq
      else .hold (s.arrive .gyle) plainHold
    | _, _ => .hold s plainHold

/-! ## Containment (17 R403, R405–R408) -/

/-- A rollback notice or lost-context record in a context's fault report queue (17 R395). -/
def State.notice (s : State) (ctx kind code : Nat) : State :=
  s.modDev fun d => { d with reports := d.reports ++ [⟨ctx, kind, 0, code, 0, 0, 0, 0, 0⟩] }

/-- KIND 4 or 5 records of the launches of a context that were running, not those that a placement held, or one for its job (21 R461). -/
def State.noticeRecords (s : State) (ctx kind code : Nat) (running : List Launch) (ends : Launch → Bool) : State :=
  if running.isEmpty then
    match (s.dev.queuesOf (s.dev.ctxJob ctx)).head? with
    | some q => s.modDev fun d => d.report q ⟨ctx, 0, 0, kind, code, ctx, false, 0, 0⟩
    | none => s
  else
    running.foldl (fun (s : State) (l : Launch) =>
      s.modDev fun d => d.report l.queue ⟨ctx, l.seq, if ends l then 4 else 0, kind, code, l.addr, false, 0, 0⟩) s

/-- Steps 1 and 2: the cores of a context stop, their accesses perform and their copies are discarded. -/
def State.quietContext (s : State) (ctx : Nat) : State :=
  let ids := s.coresOf ctx
  let quiet := fun c : Core => { c with xc := { c.xc with copies := [], sigs := [], entries := [], joins := [] } }
  let s := (s.mapCores fun c => if c.ctxId = ctx then quiet c else c).performCores ids
  s.modDev fun d => { d with
    credits := d.credits.filter fun k => !ids.contains k.src
    packets := d.packets.filter fun p => decide (p.ctx ≠ ctx) }

/-- Whether an image takes a launch. -/
def Image.holds (i : Image) (key : Nat) : Bool := i.launches.any fun l => decide (l.key = key)

/-- Whether a launch was accepted in its queue before another one of that queue, by their SEQ (14 R335, R336). -/
def Launch.before (a b : Launch) : Bool := decide (a.queue = b.queue ∧ (b.seq + 2 ^ 32 - a.seq) % 2 ^ 32 < 2 ^ 31)

/-- A launch that has ended, back among the accepted ones at its place in the order of its queue. -/
def insertLaunch (ls : List Launch) (l : Launch) : List Launch :=
  match ls with
  | [] => [l]
  | o :: r => if l.before o then l :: o :: r else o :: insertLaunch r l

/-- Steps 3 to 6: memory from the log, the held host effects, the scheduler state of the job, the log (17 R406). A launch
that an earlier containment ended with status 4 stays ended, and its record stays held (17 R407; DEDUCED, log entry 16). -/
def State.undoGyle (s : State) (ctx : Nat) : State :=
  match s.dev.ctx ctx with
  | none => s
  | some c =>
    let s := (c.log ++ c.peerLog).foldl (fun (s : State) (e : LogLine) => s.pokeHome e.home 64 (leOf e.bytes)) s
    s.modDev fun d =>
      let before := fun key : Nat => decide (key < c.snap.fresh)
      let kept := fun l : Launch => l.spawner.isNone || before l.key
      let back := c.ended.filter kept
      let mine := fun l : Launch => decide (d.jobOf l = c.job)
      let ls := (back.map fun l => { l with banks := [], placed := false }).foldl insertLaunch (d.launches.filter fun l =>
        !mine l || kept l || (match c.image with | some i => i.holds l.key | none => false))
      let later := ls.filter fun l => mine l && !c.snap.waiting.contains l.key &&
        !(match c.image with | some i => i.holds l.key | none => false)
      let j := fun j : Job =>
        later.foldl (fun (j : Job) (l : Launch) => j.enter l.queue l.record l.seq)
          { j with counters := c.snap.counters, before := c.snap.counters, graphs := c.snap.graphs, phases := c.snap.phases }
      let open_ := fun r : Completion => !(decide (r.ctx = ctx ∧ r.status ≠ 4) && r.gated)
      let others := fun e : DevEntry => decide (e.ctx ≠ ctx) || before e.key
      let undo := fun q : Queue =>
        { q with completions := q.completions.filter open_, device := q.device.filter others }
      let d := { d with launches := ls, queues := d.queues.map undo }
      (d.modJob c.job j).modCtx ctx fun c => { c with
        log := []
        peerLog := []
        held := []
        ended := []
        used := match c.image with | some i => imageUnits i.cores.length | none => 0 }

/-- A launch back among those that wait for a placement; it keeps the references that it holds until it completes (14 R347). -/
def Launch.again (l : Launch) (resume : Bool) : Launch :=
  { l with
    state := .waiting, members := [], halted := [], relays := [], arrived := [], resume := resume, begun := resume && (l.runs || (l.resume && l.begun))
    barrierAt := none, commStart := none, commEnd := none, overrun := false, passing := [] }

/-- The context goes back over the gyles that it has closed above a SEQ, the newest first: each is the open one again and is
undone (17 R408; DESIGN CHOICE, log entry 34). -/
def State.undoPast (ctx target : Nat) : List GylePast → State → State
  | [], s => s
  | p :: r, s =>
    if target < p.seq then
      let s := s.modCtx ctx fun c => { c with
        seq := p.seq - 1, log := p.log, peerLog := p.peerLog, snap := p.snap, ended := p.ended, image := p.image, past := r }
      State.undoPast ctx target r (s.undoGyle ctx)
    else s

/-- The SEQ to which a rollback of a context goes: its own last close, or, if the interval holds writes to peer pages or another
device of the job rolls back, the highest that every device of the job has closed (17 R408). -/
def Ctx.backTo (c : Ctx) (all : Bool) : Nat :=
  if all || !c.peerLog.isEmpty then c.peerSeqs.foldl (fun (a : Nat) p => min a p.2) c.seq else c.seq

/-- ROLLBACK of a context with a contained code: `ends` names the launches that end with status 4, `lost` a context that a save
has lost, `all` a rollback that another device of the job began (17 R403, R406–R408, R415; 21 R461). -/
def State.rollback (s : State) (ctx code : Nat) (ends : List Nat) (lost all : Bool) : State :=
  match s.dev.ctx ctx with
  | none => s
  | some c =>
    let s := s.quietContext ctx
    let c := (s.dev.ctx ctx).getD c
    let placed := s.dev.launches.filter fun l => decide (l.ctx = ctx ∧ (l.state = .running ∨ l.state = .bound))
    let running := placed.filter Launch.runs
    let s := placed.foldl State.freeCores s
    let s := s.mapCores fun k => if k.ctxId = ctx then k.retired.release else k
    let s := s.modDev fun d => { d with idleVisits := 0 }
    let s := s.modCtx ctx fun c => { c with stops := [], replies := [], contained := none }
    let stops := fun l : Launch => c.unprot || ends.contains l.key || decide (7 ≤ l.rollbacks)
    let s := if lost then s.notice ctx 4 code else s
    let lose := fun s : State => if lost then s.noticeRecords ctx 5 code running stops else s
    if c.unprot then
      let ids := (s.dev.launches.filter fun l => decide (s.dev.jobOf l = c.job)).map fun l => (l.key, l.runs)
      let s := (lose s).noticeRecords ctx 4 code running stops
      let s := ids.foldl (fun (s : State) k => s.endLaunch k.1 (if k.2 then 4 else 1) code) s
      (s.notice ctx 3 code).modDev fun d => { d with
        queues := d.queues.map fun q => { q with device := q.device.filter fun e => decide (e.ctx ≠ ctx) } }
    else
      let fresh := (c.ended ++ (c.past.map GylePast.ended).flatten).map Launch.key
      let s := State.undoPast ctx (c.backTo all) c.past (s.undoGyle ctx)
      let image := match s.dev.ctx ctx with | some x => x.image | none => none
      let was := placed.map Launch.key
      let ran := running.map Launch.key
      let back := fun l : Launch =>
        match (image.map Image.launches).bind fun ls => ls.find? fun o => decide (o.key = l.key) with
        | some o => { l.again true with halted := o.halted, begun := o.runs }
        | none => l.again false
      let s := s.modDev fun d => { d with launches := d.launches.map fun l =>
        if l.ctx = ctx ∧ (was.contains l.key ∨ fresh.contains l.key) then
          { back l with rollbacks := if ran.contains l.key then l.rollbacks + 1 else l.rollbacks }
        else if l.ctx = ctx ∧ l.state = .ready then { l with state := .waiting }
        else l }
      let s := (lose s).noticeRecords ctx 4 code running stops
      let s := running.foldl (fun (s : State) (l : Launch) => if stops l then s.endLaunch l.key 4 code else s) s
      s.notice ctx 3 code

/-! ### Stopping the cores first (17 R406 step 1) -/

/-- A gang row changed. -/
def State.modRow (s : State) (id : Nat) (f : Row → Row) : State :=
  s.modDev fun d => { d with rows := d.rows.map fun r => if r.id = id then f r else r }

/-- The word of an index that column 0 issued: its slot, and its address and the word itself. -/
def Row.issued (r : Row) (e : Engine) (index : Nat) : Option (Nat × Option (Dword × Nat)) :=
  ((vget r.times e.num []).find? fun t => decide (t.1 = index)).map Prod.snd

/-- Whether a word holds in some column of a row: no column issues the stream then (01 R40). -/
def Row.heldIn (r : Row) (e : Engine) : Bool := !(vget r.holders e.num []).isEmpty

/-- Whether column 0 has issued nothing in a stream in its current slot: the stream is held, or, where the hold of this ref cycle is not
decided yet, its cycle begins now (01 R40, 17 R421). -/
def Row.slotFree (r : Row) (c0 : Core) (g : Engine) : Bool :=
  if (c0.eng g).phase = 0 then r.heldIn g || !r.decided else (c0.eng g).stuck

/-- A row that drains to the given targets; a target that column 0 has not issued has its slot all the same: the current one
for the stream of its own fault and for a held stream, the next one for another stream, behind the slots of the words that column 0 has
still to pass behind its skip count, since its point comes after them (17 R388, R389, R421). -/
def Row.drainTo (r : Row) (c0 : Core) (fault : Option Engine) (target : Engine → Nat) : Row :=
  let slotOf := fun g : Engine => if fault = some g ∨ r.slotFree c0 g then (c0.eng g).slot else (c0.eng g).slot + 1
  let noted := fun i : Nat =>
    let g := engineNo i
    let old := vget r.times i []
    let first := (c0.eng g).index
    let rest := (List.range (target g + 1 - first)).map fun j => (first + j, slotOf g + j, none)
    rest ++ old
  let times : Vector (List (Nat × Nat × Option (Dword × Nat))) 5 := vof 5 noted
  { r with draining := true, times := times, target := vof 5 fun i => some (target (engineNo i)) }

/-- A core frozen for a save or a rollback: its engines have stopped and their landing buffers are held (17 R387, R410). -/
def Core.freeze (c : Core) : Core := engines.foldl Core.drainEngine c

/-- Whether a core has stopped for a rollback: all its engines have, or a fault has stopped it. -/
def Core.stoppedFor (c : Core) : Bool :=
  c.flt.drained.toList.all (fun b => b) || decide (c.flt.stop = .stopped ∨ c.flt.stop = .returned)

/-- The cores of a context stop, the columns of a row east of column 0 once they have drained (17 R387, R388, R406, R410). -/
def State.stopContext (s : State) (ctx : Nat) : State :=
  let ids := s.coresOf ctx
  let back := fun key => match s.dev.launch key with | some l => l.heldBack | none => false
  let mine := s.dev.rows.filter fun r => !r.draining && !back r.launch && ids.any fun id => r.members.contains id
  let s := mine.foldl (fun (s : State) (r : Row) =>
    let c0 := s.coreAt (r.members.head?.getD s.core.id)
    s.modRow r.id fun r => r.drainTo c0 none fun e => (c0.eng e).point) s
  ids.foldl (fun (s : State) id => s.modCore id fun c =>
    match c.resident with
    | some r => if !back r.launch && !(vget s.dev.mgmt.stopped c.id.die false) && decide ((r.mode = .wave ∧ r.col ≠ 0) ∨ c.flt.stop = .draining) then c else c.freeze
    | none => c) s

/-- Whether the context has a gang row, whose columns drain before a rollback. -/
def State.hasRows (s : State) (ctx : Nat) : Bool :=
  s.dev.rows.any fun r => r.members.any fun id => decide ((s.coreAt id).ctxId = ctx)

/-- Containment of an event of a context (17 R405): its cores stop, and once those of its gang rows have drained it is rolled
back (R406), once for every event that has come by then: what each of them ends, ends (R407). -/
def State.containWith (s : State) (ctx code : Nat) (ends : List Nat) (lost all : Bool) : State :=
  match (s.dev.ctx ctx).bind Ctx.contained with
  | some k => s.modCtx ctx fun c => { c with contained := some ⟨k.code, k.ends ++ ends, k.lost || lost, k.all || all⟩ }
  | none =>
    if s.hasRows ctx then
      (s.stopContext ctx).modCtx ctx fun c => { c with contained := some ⟨code, ends, lost, all⟩ }
    else s.rollback ctx code ends lost all

/-- A contained event that ends no launch by itself. -/
def State.contain (s : State) (ctx code : Nat) : State := s.containWith ctx code [] false false

/-- The rollback of a context whose cores have all stopped. -/
def State.endContainment (s : State) (ctx : Nat) : State :=
  match (s.dev.ctx ctx).bind Ctx.contained with
  | some k =>
    if (s.coresOf ctx).all fun id => (s.coreAt id).stoppedFor then s.rollback ctx k.code k.ends k.lost k.all else s
  | none => s

/-- DOUBLE_FAULT: a fault in handler mode is contained (17 R392, R405). -/
def execDoubleFault (s : State) : Result :=
  .next <|
    match s.core.recorded with
    | some (_, f) =>
      if s.core.inHandler then
        (s.modFocus fun c => { c with flt := { c.flt with raised := [] } }).contain s.core.ctxId f.code
      else s
    | none => s

end Sys2Proof.Machine
end

