-- ==== Sys2Proof/Machine/Sched.lean ====
section
/-! DEFINITION. Submission, acceptance and cancelling of launches (14 R333–R337, R357; 05 R177), barriers and
communication steps (14 R353, R354; 01 R487), and the creation of jobs (14 R338). -/

namespace Sys2Proof.Machine

/-! ## Acceptance (14 R333, R335–R337, R346, R356) -/

/-- Whether a placement variant fails its check (14 R333). -/
def variantBad (c : Ctx) (v : Variant) : Bool :=
  decide (31 < v.row0 + v.rows ∨ 17 < v.wcol ∨ v.entry < c.codebase.toNat % 2 ^ 49 ∨ c.codebound.toNat % 2 ^ 49 ≤ v.entry)

/-- Whether the casks of a task record fail their checks (14 R333). -/
def Record.casksBad (r : Record) : Bool :=
  decide (4 < r.ncask) || !decide ((r.casks.map Prod.fst).Nodup) || r.casks.any fun k => decide (k.2 = 0)

/-- The key of the task launch of the focus core, to which a TSPAWN adds a unit (14 R348). -/
def State.spawnRoot (s : State) : Option Nat :=
  match s.launchOf s.core with
  | some l => if l.record.mode = 2 then some (l.root.getD l.key) else none
  | none => none

/-- The key of the task launch to which a device word's record adds a unit: that of the core as it issued the TSPAWN (14 R348). -/
def rootFor (e : Option DevEntry) (r : Record) : Option Nat :=
  match e with
  | some e => if e.tspawn ∧ r.mode = 2 then e.root else none
  | none => none

/-- Whether a record is rejected at acceptance, its SEQ apart (14 R333, R336). -/
def State.rejects (s : State) (q : Nat) (e : Option DevEntry) (l : Launch) : Bool :=
  let r := l.record
  let tspawn := match e with | some e => e.tspawn | none => false
  decide (r.mode = 3) || r.reserved || decide (r.weight = 0 ∨ 288 < r.sbm) || (decide (r.prio = 0) && !s.dev.systemJob q)
    || !s.dev.sysAgrees q
    || (match s.dev.ctx l.ctx with
        | some c => l.root.isNone &&
            (List.range (if r.mode = 2 then 1 else r.nvar + 1)).any fun v => variantBad c (r.variant v)
        | none => true)
    || (decide (r.mode = 2) && (decide (r.nvar ≠ 0) || r.casksBad
        || (decide (r.ncask ≠ 0) && (!tspawn || (match e with
            | some e => decide (s.namedMember l = some e.core)
            | none => false)))))

/-- A record that is rejected: its completion record. It is counted in its graph and completes in it at once, so that no counter
changes, and it closes no graph or phase (14 R337, R356; DEDUCED, log entry 16). -/
def State.rejectRecord (s : State) (q : Nat) (seq : Nat) (used : Bool) (l : Launch) : State :=
  s.modDev fun d =>
    let d := d.report q ({ l with seq := seq }.completion 2 0)
    if used then d.modQueue q fun x => { x with nextSeq := (seq + 1) % 2 ^ 32 }.done seq else d

/-- Whether a cancel in force reaches a new launch (14 R357). -/
def Device.cancelled (d : Device) (l : Launch) : Bool :=
  match d.job (d.jobOf l) with
  | some j => j.cancelG.contains l.record.graph || j.cancelP.contains l.record.phase
  | none => false

/-- A cancel of a graph or phase ends with its closing record (14 R357). -/
def Job.closeCancels (j : Job) (r : Record) : Job :=
  { j with
    cancelG := if r.glast then j.cancelG.filter fun g => decide (g ≠ r.graph) else j.cancelG
    cancelP := if r.plast then j.cancelP.filter fun p => decide (p ≠ r.phase) else j.cancelP }

/-- A launch accepted in a queue. -/
def State.acceptLaunch (s : State) (q : Nat) (l : Launch) : State :=
  let job := (s.dev.queue q).job
  let s := s.modDev fun d =>
    let d := d.modQueue q fun x => { x with acceptedSeq := l.seq, nextSeq := (l.seq + 1) % 2 ^ 32 }
    let d := d.modJob job fun j => j.enter q l.record l.seq
    let l := if d.waitsMet true job l.record then { l with state := .ready } else l
    { d with launches := d.launches ++ [l], idleVisits := 0 }
  let stop := s.dev.cancelled l
  let s := s.modDev fun d => d.modJob job fun j => j.closeCancels l.record
  if stop then s.endLaunch l.key 1 0
  else if s.couldPlace l then s
  else s.endLaunch l.key 3 0

/-- The next record of a queue: what a device word enqueued, or else the next entry of the host's ring (14 R335). -/
def Device.nextEntry (d : Device) (q : Nat) : Option (Nat × Nat × Option DevEntry) :=
  let x := d.queue q
  match x.device with
  | e :: _ => some (e.addr, e.ctx, some e)
  | [] =>
    if x.enable ∧ x.sqhead ≠ x.sqtail then
      match d.job x.job with
      | some j => some (readLE d.host (x.sqbase.toNat + 8 * x.sqhead) 8, j.ctx, none)
      | none => some (readLE d.host (x.sqbase.toNat + 8 * x.sqhead) 8, 4096, none)
    else none

/-- The record that was next is taken. -/
def Queue.pop (x : Queue) (dev : Bool) : Queue :=
  if dev then { x with device := x.device.drop 1 } else { x with sqhead := (x.sqhead + 1) % 2 ^ (4 + x.sqs) }

/-- A launch of a record, not yet accepted. -/
def newLaunch (key q seq addr ctx : Nat) (r : Record) (spawner : Option CoreId) : Launch where
  key := key
  queue := q
  seq := seq
  addr := addr
  record := r
  ctx := ctx
  state := .waiting
  root := none
  spawner := spawner
  variant := 0
  members := []
  halted := []
  relays := []
  banks := []
  placed := false
  resume := false
  begun := false
  rollbacks := 0
  arrived := []
  barrierAt := none
  commStart := none
  commEnd := none
  overrun := false
  passing := []

/-- RECORD_ACCEPT: the next record of a queue is read, and accepted or rejected (14 R333, R335, R337, R346). -/
def execRecordAccept (q : Fin 16) (s : State) : Result :=
  .next <|
    if 64 ≤ s.dev.heldLaunches q.val then s
    else
      match s.dev.nextEntry q.val with
      | none => s
      | some (addr, ctx, e) =>
        let (key, s) := match e with
          | some e => (e.key, s)
          | none => s.freshId
        let expected := (s.dev.queue q.val).nextSeq
        let spawner := e.map DevEntry.core
        let (got, s) := s.readLaunchRecord ctx addr
        let pop := fun s : State => s.modDev fun d => d.modQueue q.val fun x => x.pop e.isSome
        match got with
        | .wait => s
        | .bad => (pop s).rejectRecord q.val expected true (newLaunch key q.val expected addr ctx Record.empty spawner)
        | .ok b =>
          let r := recordOf b
          let device := e.isSome || (s.dev.queue q.val).devq
          let seq := if device then expected else r.seq
          let l := { newLaunch key q.val seq addr ctx r spawner with root := rootFor e r }
          if seq ≠ expected then (pop s).rejectRecord q.val seq false l
          else if s.rejects q.val e l then (pop s).rejectRecord q.val seq device l
          else (pop s).acceptLaunch q.val l

/-! ## LAUNCH and TSPAWN (05 R177, 14 R335, R350) -/

/-- Whether the record that a TSPAWN enqueued still waits for acceptance or its binding. -/
def Device.bindPending (d : Device) (key : Nat) : Bool :=
  d.queues.toList.any (fun q => q.device.any fun e => decide (e.key = key))
    || d.launches.any fun l => decide (l.key = key ∧ l.record.ncask ≠ 0 ∧ (l.state = .waiting ∨ l.state = .ready))

/-- The record of a LAUNCH or TSPAWN enqueued; a TSPAWN of a task with input casks, as NCASK stands in the record at issue
(DEDUCED, log entry 16), then holds until its binding is complete. A TSPAWN of a record that is not in task mode is enqueued as a LAUNCH
is, and holds alike (05 R177 speaks of task records alone; DESIGN CHOICE, log entry 16). -/
def State.submit (s : State) (q : Nat) (addr : Dword) (tspawn : Bool) (ncask : Nat) : WordOut :=
  let (key, s) := s.freshId
  let e : DevEntry := ⟨addr.toNat, s.core.ctxId, s.core.id, tspawn, key, if tspawn then s.spawnRoot else none⟩
  let s := s.modDev fun d => d.modQueue q fun x => { x with device := x.device ++ [e] }
  if tspawn && decide (ncask ≠ 0) then .hold (s.modFocus fun c => { c with ctl := { c.ctl with binding := some key } }) plainHold
  else .ok s .seq

/-- LAUNCH and TSPAWN: the checks of 05 R177 on the record's address, then the submission. The device-side queue is full with 64
records in it, those accepted and not started and those enqueued and not yet accepted together (14 R335; DESIGN CHOICE, log entry
16). Without such a queue DETAIL is 8 also for an address that is not virtual (05 R177; DESIGN CHOICE, log entry 16). -/
def State.launchWord (s : State) (i : Instr) (a : SReg) (tspawn : Bool) : Result :=
  s.word .c i fun s =>
    match s.core.ctl.binding with
    | some key =>
      if s.dev.bindPending key then .hold s plainHold
      else .ok (s.modFocus fun c => { c with ctl := { c.ctl with binding := none } }) .seq
    | none =>
      let addr := s.core.readS a
      let dq := s.dev.deviceQueue (s.dev.ctxJob s.core.ctxId)
      let full := match dq with
        | some q => decide (64 ≤ s.dev.heldLaunches q + (s.dev.queue q).device.length)
        | none => false
      if full then .hold s plainHold
      else
        match misaligned addr 64, dq with
        | some f, _ => .fault s f
        | none, none => .fault s (mkFault 0x0A 8 0 addr)
        | none, some q =>
          match classify addr with
          | .spad _ _ => .fault s (classFault addr)
          | _ =>
            match s.cPlace addr 64 .read true with
            | .stop o => o
            | .at_ s h => s.submit q addr tspawn (s.readHome s.core.ctxId (h.shift 21) 1 % 8)

/-- LAUNCH (05 R177). -/
def execLaunch (a : SReg) (s : State) : Result := s.launchWord (.launch a) a false

/-- TSPAWN (05 R177, 14 R350). -/
def execTspawn (a : SReg) (s : State) : Result := s.launchWord (.tspawn a) a true

/-! ## Cancels (14 R357) -/

/-- A launch that has not started ends with status 1; a bound task's core is freed and its casks are discarded. -/
def State.cancelLaunch (s : State) (l : Launch) : State := (s.freeCores l).endLaunch l.key 1 0

/-- The launches of a kind that have not started are cancelled. -/
def State.cancelAll (s : State) (p : Launch → Bool) : State :=
  (s.dev.launches.filter fun l => l.unstarted && p l).foldl State.cancelLaunch s

/-- *Protection* of a CANCEL that names another job (14 R357). -/
def cancelFault : FaultRec := mkFault 0x0A 6 0 0

/-- CANCEL.L (14 R357). -/
def execCancelL (a : SReg) (s : State) : Result :=
  s.word .c (.cancelL a) fun s =>
    let v := (s.core.readS a).toNat
    let q := v / 2 ^ 32 % 16
    if (s.dev.queue q).job ≠ s.dev.ctxJob s.core.ctxId then .fault s cancelFault
    else .ok (s.cancelAll fun l => decide (l.queue = q ∧ l.seq = v % 2 ^ 32)) .seq

/-- Whether the closing record of a graph or phase is still to come: a cancel of it then reaches the launches accepted later,
also where none has been accepted yet (14 R357). -/
def groupRuns (gs : List Group) (id : Nat) : Bool := !(gs.any fun g => decide (g.id = id) && g.closed)

/-- CANCEL.G (14 R357). -/
def execCancelG (a : SReg) (s : State) : Result :=
  s.word .c (.cancelG a) fun s =>
    let g := (s.core.readS a).toNat % 2 ^ 16
    let job := s.dev.ctxJob s.core.ctxId
    let d := s.dev
    let s := s.cancelAll fun l => decide (d.jobOf l = job ∧ l.record.graph = g)
    .ok (s.modDev fun d => d.modJob job fun j => if groupRuns j.graphs g then { j with cancelG := j.cancelG ++ [g] } else j) .seq

/-- CANCEL.P (14 R357). -/
def execCancelP (a : SReg) (s : State) : Result :=
  s.word .c (.cancelP a) fun s =>
    let p := (s.core.readS a).toNat % 2 ^ 16
    let job := s.dev.ctxJob s.core.ctxId
    let d := s.dev
    let s := s.cancelAll fun l => decide (d.jobOf l = job ∧ l.record.phase = p)
    .ok (s.modDev fun d => d.modJob job fun j => if groupRuns j.phases p then { j with cancelP := j.cancelP ++ [p] } else j) .seq

/-- CANCEL.J (14 R357). -/
def execCancelJ (a : SReg) (s : State) : Result :=
  s.word .c (.cancelJ a) fun s =>
    let job := s.dev.ctxJob s.core.ctxId
    if (s.core.readS a).toNat % 2 ^ 16 ≠ job then .fault s cancelFault
    else
      let d := s.dev
      .ok (s.cancelAll fun l => decide (d.jobOf l = job)) .seq

/-! ## Barriers and communication steps (14 R353, R354; 01 R487) -/

/-- GLOBAL_TIME in the next ref cycle (15 R376). -/
def Device.nextTime (d : Device) : Nat := if d.timeAdvances then d.globalTime.toNat + 1 else d.globalTime.toNat

/-- BSYNC in column 0 of a row: it holds until the barrier and then until the communication step ends; a column east of
it issues behind it (14 R353, R354; 05 R177). -/
def execBsync (s : State) : Result :=
  s.word .c .bsync fun s =>
    match s.launchOf s.core, s.core.resident with
    | some l, some r =>
      let head := match s.dev.rows.find? fun w => decide (w.id = r.rowId) with
        | some w => w.members.head?
        | none => none
      let waiting := match head with | some id => l.passing.contains id | none => false
      let ended := l.commEnd.isSome && l.commStart.isNone
      if waiting && ended && l.overrun then .fault s (mkFault 0x12 0 l.record.step 0)
      else if r.col ≠ 0 then .ok s .seq
      else if waiting && l.barrierAt.isSome && (decide (l.record.step = 0) || ended) then .ok s.depart .seq
      else .hold (if waiting then s.waitAt .bsync else s.arrive .bsync) plainHold
    | _, _ => .hold s plainHold

/-- ROW_BARRIER_REACHED: every column of a row has stopped at the index of its barrier word: from the end of the ref cycle in which
it issued the word before it (01 R487; DESIGN CHOICE, log entry 23). -/
def execRowBarrierReached (row : Nat) (s : State) : Result :=
  .next <|
    match s.dev.rows.find? fun w => decide (w.id = row) with
    | none => s
    | some w =>
      match w.members with
      | [] => s
      | m :: rest =>
        let c := s.coreAt m
        let there := rest.all fun id =>
          let o := s.coreAt id
          decide (o.ec.index = c.ec.index ∧ o.ec.state = .running ∧ o.flt.stop = .run)
        if (c.ctl.wait = .gyle ∨ c.ctl.wait = .bsync) ∧ c.flt.stop = .run ∧ there then
          s.modDev fun d => { d with rows := d.rows.map fun w => if w.id = row then { w with barrier := true } else w }
        else s

/-- The barrier time of a wave launch whose rows have all reached their BSYNC (14 R353). -/
def State.settleBsync (s : State) (l : Launch) : State :=
  if l.record.mode = 1 ∧ s.allReached l .bsync then
    let now := s.dev.globalTime.toNat
    s.modLaunch l.key fun l =>
      { l with
        arrived := [], passing := l.arrived, barrierAt := some now, commStart := none, commEnd := none, overrun := false }
  else s

/-- The start of the communication step that follows a barrier time (14 R353). -/
def stepStart (b : Nat) : Nat := (b + 512 + 1023) / 1024 * 1024

/-- COMM_STEP_START; a block that an earlier step has left on a port of the launch goes (14 R353; DESIGN CHOICE, log entry 27). -/
def execCommStepStart (key : Nat) (s : State) : Result :=
  .next <|
    match s.dev.launch key with
    | some l =>
      match l.barrierAt with
      | some b =>
        if l.record.step ≠ 0 ∧ l.commEnd = none ∧ stepStart b ≤ s.dev.nextTime then
          let s := s.modDev fun d => { d with
            transfers := d.transfers.map fun t => if t.launch = key then { t with carried := true } else t
            blocks := d.blocks.filter fun b => !l.record.ports.getLsbD b.port || b.usable.isNone }
          s.modLaunch key fun l =>
            { l with commStart := some (stepStart b), commEnd := some (stepStart b + 64 * l.record.step) }
        else s
      | none => s
    | none => s

/-- COMM_STEP_END: the step's fixed duration is over; a transfer that has not finished makes it an overrun (14 R353,
R354), one whose deliveries to other cores have not all been made among them (21 R457). -/
def execCommStepEnd (key : Nat) (s : State) : Result :=
  .next <|
    match s.dev.launch key with
    | some l =>
      match l.commStart, l.commEnd with
      | some _, some e =>
        if e ≤ s.dev.nextTime then
          let late := s.dev.transfers.any fun t => decide (t.launch = key) && t.carried && (t.failed || !t.hops.isEmpty)
          let late := late || s.dev.packets.any fun p => decide (p.launch = key)
          let s := s.modDev fun d => { d with
            transfers := d.transfers.filter fun t => decide (t.launch ≠ key) || !t.carried }
          s.modLaunch key fun l => { l with commStart := none, overrun := late }
        else s
      | _, _ => s
    | none => s

/-! ## Jobs (14 R338, 01 R18, 17 R394) -/

/-- A context as system software creates it: every register at its reset value but those it sets. -/
def newCtx (x : JobSpec) : Ctx where
  id := x.ctx
  job := x.job
  system := x.system
  codebase := physStored x.codebase
  codebound := physStored x.codebound
  trapvec := keepBits x.trapvec 0 49
  ptroot := ptrootStored x.ptroot
  wdlimit := 100000
  savebase := keepBits x.savebase 0 49
  logbase := keepBits x.logbase 16 33
  logsize := 65536
  preemptdl := BitVec.ofNat 64 (1500000 * 2 ^ 16 + 100)
  lastFault := (0, 0, 0)
  frqbase := keepBits x.frqbase 0 49
  frqHead := 0
  frqTail := 0
  seq := 0
  unprot := false
  used := 0
  log := []
  held := []
  snap := ⟨0, [], [], [], []⟩
  ended := []
  past := []
  peerLog := []
  peerSeqs := []
  image := none
  placed := false
  breg := []
  fpstatus := 0
  srseed := 1
  scale := Vector.replicate 16 0
  tokens := 0
  boosted := []
  weight := 1
  nextFseq := 1
  stops := []
  replies := []
  boundaryBy := none
  saveBy := none
  saved := none
  contained := none

/-- A job with its counters at zero; `seizing`: a seizure names it (14 R336). -/
def newJob (id ctx : Nat) (seizing : Bool) : Job := ⟨id, ctx, [], [], [], [], [], [], seizing⟩

/-- JOB_CREATION: a job and its context, if no context and no job has the number; the deficits of its queues are 0
(14 R338, R342). -/
def execJobCreation (spec : JobSpec) (s : State) : Result :=
  .next <|
    if (s.dev.ctx spec.ctx).isSome ∨ (s.dev.job spec.job).isSome ∨ 4096 ≤ spec.ctx then s
    else
      s.modDev fun d =>
        let zero := fun q : Queue => if q.job = spec.job then { q with deficit := 0 } else q
        { d with
          ctxs := d.ctxs ++ [newCtx spec]
          jobs := d.jobs ++ [newJob spec.job spec.ctx (d.seizure.active && decide (d.seizure.job = spec.job))]
          queues := d.queues.map zero }

end Sys2Proof.Machine
end

