-- ==== Sys2Proof/Machine/Trap.lean ====
section
/-! DEFINITION. Stops and handlers as steps (17 R387–R393), stall bounds and the watchdog (R398, R399), reports and
replies of stopped engines (R395–R397), ENGINE_JOINED, and the steps of a nest with their residue check (08 R243). -/

namespace Sys2Proof.Machine

/-! ## Engines that join (01 R35, 08 R251) -/

/-- Whether a tile write of A has data that have not landed: an access that fills a tile, or a completing write before its
TILE_DATA_LAND (06 R185, 01 R35). -/
def Core.tileWriting (c : Core) : Bool :=
  (c.accesses.any fun a => match a.op with | .tileLoad _ _ => true | _ => false)
    || c.tiles.t.toList.any fun t => t.outstanding && decide (t.flag = .filling .a)

/-- ENGINE_JOINED: the last result of a Joining engine has landed (01 R33, R35), also in a column that drains, as long as the engine
has not stopped (17 R388, 18 R419). -/
def execEngineJoined (e : Engine) (s : State) : Result :=
  .next <|
    let x := s.core.eng e
    let quiet := x.landing.isEmpty && (decide (e ≠ .m) || !s.core.matrixBusy)
      && !(decide (e = .a) && s.core.tileWriting)
    if x.state = .joining ∧ quiet ∧ (s.core.flt.stop = .run ∨ s.core.flt.stop = .draining)
        ∧ vget s.core.flt.drained e.num false = false then
      s.modFocus fun c => c.modEng e fun x => { x with state := .joined }
    else s

/-! ## The stop (17 R387–R390) -/

/-- The drain of a row begins: the drain target is the index of the faulting word, or column 0's point (17 R388). -/
def State.beginDrain (s : State) (r : Row) (e : Engine) (index : Nat) : State :=
  let c0 := s.coreAt (r.members.head?.getD s.core.id)
  let target := fun g : Engine => if g = e then index else (c0.eng g).point
  let s := s.modRow r.id fun r => { r.drainTo c0 (some e) target with faulted := some e }
  r.members.foldl (fun (s : State) id => s.modCore id fun c =>
    if c.flt.stop = .run then
      (if some id = r.members.head? then c.stopEngines else { c with flt := { c.flt with stop := .draining } })
    else c) s

/-- The engines of a column whose words faulted have stopped draining (17 R388). -/
def Core.drainRaised (c : Core) : Core := c.flt.raised.foldl (fun (c : Core) f => c.drainEngine f.1) c

/-- FAULT_STOP: a core with a fault stops at the end of the ref cycle; in wave mode its row drains (17 R387, R388). A fault
found in the drain of a save is forgotten: its word raises it again after the resumption. -/
def execFaultStop (s : State) : Result :=
  .next <|
    match s.core.recorded with
    | none => s
    | some (e, _) =>
      if s.core.flt.stop = .draining then s.modFocus Core.drainRaised
      else if s.core.flt.stop ≠ .run then s
      else
        let s := s.settleFixed
        match s.rowOf s.core with
        | none => s.modFocus Core.stopEngines
        | some r =>
          if r.draining then
            s.modFocus fun c =>
              let c := c.drainRaised
              { c with flt := { c.flt with raised := [] } }
          else (s.beginDrain r e (s.core.eng e).point).modFocus fun c =>
            if c.flt.stop = .draining then c.drainRaised else c

/-- Whether an engine of a draining column has reached its drain target, or has nothing to issue: C that stands at an issued HALT or
has retired; an engine that is not Running once no FORK or RENDEZ of the column's C stream can change that any more (17 R388,
R421). -/
def Core.atTarget (c : Core) (r : Row) (e : Engine) : Bool :=
  let reached := match vget r.target e.num none with
    | some t => decide (t ≤ (c.eng e).point)
    | none => true
  if (c.eng e).state = .running then reached || (decide (e = .c) && decide (c.ctl.wait = .halt ∨ c.ctl.wait = .tend))
  else decide (e = .c) || vget c.flt.drained 0 false

/-- Whether an engine of a draining column stops: it has nothing to issue, or the slot of its drain target has come, which
it does not issue (17 R388; DEDUCED, log entry 23). -/
def Core.stopsAt (c : Core) (r : Row) (e : Engine) : Bool :=
  let col := match c.resident with | some k => k.col | none => 0
  let come := match vget r.target e.num none with
    | some t => (match r.issued e t with | some (slot, _) => decide (slot + 2 * col ≤ (c.eng e).slot) | none => true)
    | none => true
  c.atTarget r e && (decide ((c.eng e).state ≠ .running) || come)

/-- A draining column whose engines have all stopped has stopped (17 R388). -/
def Core.endDrain (c : Core) (r : Row) : Core :=
  if c.flt.stop = .draining then
    let c := engines.foldl (fun c e => if c.stopsAt r e then c.drainEngine e else c) c
    if c.flt.drained.toList.all (fun b => b) then c.stopEngines else c
  else c

/-- The row point of a stream: the least point of the columns (17 R388). -/
def State.rowPoint (s : State) (r : Row) (e : Engine) : Nat :=
  match r.members.map fun id => ((s.coreAt id).eng e).point with
  | [] => 0
  | p :: ps => ps.foldl Nat.min p

/-- The engines of a column at the row point with their skip counts (17 R388). -/
def Core.setSkips (c : Core) (p : Engine → Nat) : Core :=
  engines.foldl (fun c e => c.modEng e fun x => { x with skip := x.point - p e, index := p e }) c

/-- The slots of a row start again. -/
def Row.restart (r : Row) : Row :=
  { r with times := Vector.replicate 5 [], holders := Vector.replicate 5 [], decided := false }

/-- The cycles of a column are counted from a stop on. -/
def Core.restart (c : Core) : Core :=
  engines.foldl (fun c e => c.modEng e fun x => { x with slot := 0, stuck := false }) c

/-- The slots of a row and of its columns start again. -/
def State.restartRow (s : State) (r : Row) (f : Row → Row) : State :=
  let s := r.members.foldl (fun (s : State) id => s.modCore id Core.restart) s
  s.modRow r.id fun r => f r.restart

/-- Each stream of a row restarts with the program counter and loop state of the lowest-numbered column whose point is the row
point, that is, whose skip count is 0 (17 R389). -/
def State.alignRow (s : State) (r : Row) : State :=
  engines.foldl (fun (s : State) e =>
    let first := r.members.find? fun id => decide (((s.coreAt id).eng e).skip = 0 ∧ ((s.coreAt id).eng e).state = .running)
    match first with
    | none => s
    | some m =>
      let y := (s.coreAt m).eng e
      let slot := (s.coreAt m).ctl.slot
      r.members.foldl (fun (s : State) id => s.modCore id fun c =>
        if (c.eng e).skip = 0 ∧ (c.eng e).state = .running then
          let c := c.modEng e fun x => { x with pc := y.pc, loops := y.loops }
          if e = .c then { c with ctl := { c.ctl with slot := slot } } else c
        else c) s) s

/-- A barrier that ended in an overrun is over once every row has stopped at it (DEDUCED, log entry 24). -/
def State.dropOverrun (s : State) (key : Nat) : State :=
  if s.dev.rows.any fun r => decide (r.launch = key) && r.barrier then s
  else s.modLaunch key fun l =>
    if l.overrun then
      { l with overrun := false, barrierAt := none, commStart := none, commEnd := none, passing := [], arrived := [] }
    else l

/-- ROW_DRAIN_COMPLETE: every column of a row has stopped; each has its skip counts (17 R388). -/
def execRowDrainComplete (row : Nat) (s : State) : Result :=
  .next <|
    match s.dev.rows.find? fun r => decide (r.id = row) with
    | none => s
    | some r =>
      if r.draining && r.members.all fun id => decide ((s.coreAt id).flt.stop = .stopped) then
        let p := s.rowPoint r
        let s := r.members.foldl (fun (s : State) id => s.modCore id fun c => c.setSkips p) s
        (s.restartRow r fun r => { r with draining := false, barrier := false }).dropOverrun r.launch
      else s

/-- ROWFAULT of a stopped row (17 R394). -/
def State.rowFault (s : State) (r : Row) : Dword :=
  let cols := (List.range r.members.length).foldl (fun a c =>
    match r.members[c]? with
    | some id => if (s.coreAt id).recorded.isSome then a + 2 ^ c else a
    | none => a) 0
  BitVec.ofNat 64 (cols + (match r.faulted with | some e => e.num | none => 0) * 2 ^ 16)

/-- A core enters handler mode; the fault it records is its context's most recent one (01 R17, 17 R392). -/
def State.enterHandlerAt (s : State) (id : CoreId) (trapvec : Dword) (wave : Bool) (col : Nat) (rowfault : Dword) : State :=
  let recorded := (s.coreAt id).recorded.isSome
  let s := s.modCore id fun c => c.enterHandler trapvec wave col rowfault
  let c := s.coreAt id
  if recorded then s.modCtx c.ctxId fun x => { x with lastFault := (c.csr.faultinfo, c.csr.faultpc, c.csr.faultaddr) } else s

/-- HANDLER_ENTRY: the stop is complete, and the core enters handler mode at TRAPVEC; in wave mode every column of the
row does (17 R392). -/
def execHandlerEntry (s : State) : Result :=
  .next <|
    match s.ctx with
    | none => s
    | some x =>
      if s.core.flt.stop ≠ .stopped then s
      else
        match s.rowOf s.core with
        | none =>
          let e := match s.core.recorded with | some (e, _) => e.num | none => 0
          s.enterHandlerAt s.core.id x.trapvec false 0 (BitVec.ofNat 64 (e * 2 ^ 16))
        | some r =>
          if r.draining || !(r.members.all fun id => decide ((s.coreAt id).flt.stop = .stopped)) then s
          else
            let rf := s.rowFault r
            r.members.foldl (fun (s : State) id =>
              let col := match (s.coreAt id).resident with | some k => k.col | none => 0
              s.enterHandlerAt id x.trapvec true col rf) s

/-! ## Returning (17 R393) -/

/-- A row whose columns have all issued their ERET resumes (17 R389, R393). -/
def State.resumeRow (s : State) (r : Row) : State :=
  if r.members.all fun id => decide ((s.coreAt id).flt.stop = .returned) then
    let s := r.members.foldl (fun (s : State) id => s.modCore id Core.leaveHandler) s
    (s.alignRow r).restartRow r fun r => { r with faulted := none, again := true }
  else s

/-- ERET leaves handler mode; in wave mode the row resumes when its eastmost column issues its ERET (05 R176, 17 R393). -/
def execEret (s : State) : Result :=
  s.word .c .eret fun s =>
    match s.rowOf s.core with
    | none => .ok (s.modFocus Core.leaveHandler) .stay
    | some r =>
      let s := s.modFocus fun c => { c with flt := { c.flt with stop := .returned } }
      .ok (s.resumeRow r) .stay

/-! ## Stall bounds and the watchdog (17 R398, R399) -/

/-- STALL_BOUND_EXPIRE: the count of a held word has passed its bound (03 R99, 17 R391, R398); a fault of the word whose
order comes before it is recorded in its place (05 R150, 06 R181, 08 R232, 09 R285), and a word of A or X halts in its place at a page
without a valid entry (06 R194, 09 R258). -/
def execStallBoundExpire (e : Engine) (s : State) : Result :=
  .next <|
    match (s.core.eng e).hold with
    | none => s
    | some h =>
      match h.bound, h.producer with
      | some b, some p =>
        if b < h.count then
          let detail := if h.obj = chainHold then Config.chainObject % 256 else h.obj
          let f := h.first.getD (mkFault 0x08 detail p.num (s.core.eng p).pc)
          match e, f.code with
          | .a, 0x09 => (s.haltA (decide (f.arg = 1)) f.addr.toNat).finish .a
          | .x, 0x09 => (s.haltX f.arg f.addr.toNat).finish .x
          | _, _ => (s.raise e f).modFocus fun c => c.modEng e fun x => { x with hold := none }
        else s
      | _, _ => s

/-- Whether the watchdog's time runs on a core (17 R399). -/
def State.watched (s : State) : Bool :=
  let c := s.core
  c.resident.isSome && decide (c.ec.state = .running) && !s.dev.skipping c.id.cluster && c.aHalt.isNone && c.xHalt.isNone
    && (match c.xc.walk.stop with | some t => t.parked | none => true) && (match s.ctx with | some x => x.saveBy.isNone && x.contained.isNone | none => true)
    && !(c.xc.copies.any fun k => match k.stop with | some t => !t.parked | none => false)

/-- WATCHDOG_EXPIRE: no word with effect for WDLIMIT µs (17 R399). -/
def execWatchdogExpire (s : State) : Result :=
  .next <|
    match s.ctx with
    | none => s
    | some x =>
      let limit := x.wdlimit.toNat
      if limit ≠ 0 ∧ 3000 * limit ≤ s.core.flt.wd ∧ s.watched ∧ (s.core.flt.stop = .run ∨ s.core.flt.stop = .handler) then
        let s := s.modFocus fun c => { c with flt := { c.flt with wd := 0 } }
        s.raise .c (mkFault 0x08 0xFF 0 0)
      else s

/-! ## Reports (17 R395) -/

/-- The next fault sequence number of a context is taken. -/
def State.takeFseq (s : State) (ctx : Nat) : Nat × State :=
  match s.dev.ctx ctx with
  | none => (0, s)
  | some c =>
    (c.nextFseq, s.modCtx ctx fun c => { c with nextFseq := if c.nextFseq = 2 ^ 32 - 1 then 1 else c.nextFseq + 1 })

/-- A stop of the focus core takes its number, and its report waits to be written. -/
def State.reportStop (s : State) (kind copy eng whence : Nat) (t : Stop) (set : Stop → Core → Core) : State :=
  if t.fseq.isSome || t.parked then s
  else
    let ctx := s.core.ctxId
    let (n, s) := s.takeFseq ctx
    let s := s.modFocus (set { t with fseq := some n })
    let o : OpenStop := ⟨n, s.core.id, kind, copy⟩
    let s := s.modCtx ctx fun c => { c with stops := c.stops ++ [o] }
    let r : Report := ⟨ctx, kind, eng, t.code, n, s.core.id.code, t.acc, t.va, whence⟩
    s.modDev fun d => { d with reports := d.reports ++ [r] }

/-- A_TRANSLATION_HALT: the A engine waits at its word, and the halt is reported (06 R194, 17 R395). -/
def execATranslationHalt (s : State) : Result :=
  .next <|
    match s.core.aHalt with
    | some t => s.reportStop 0 0 1 s.core.ea.pc.toNat t fun t c => { c with aHalt := some t }
    | none => s

/-- The descriptor that the X word at the program counter names (17 R395). -/
def State.xWhence (s : State) : Nat :=
  let w := readLE s.dev.hbm s.core.ex.pc.toNat 8
  match decode .x w with
  | .ok (.xlink x) | .ok (.xamo x) => 2 ^ 64 - 2 ^ 24 + 64 * x.desc.val
  | _ => 2 ^ 64 - 2 ^ 24

/-- COPY_STOP: a copy that has stopped takes a fault sequence number and is reported; for a number that no copy has, an X
word or a walk that has stopped (09 R258, R274; 17 R395). -/
def execCopyStop (copy : Nat) (s : State) : Result :=
  .next <|
    match s.core.copy? copy with
    | some k =>
      match k.stop with
      | some t => s.reportStop 1 copy 4 k.whence t fun t c => c.modXc fun x =>
          { x with copies := x.copies.map fun o => if o.id = copy then { o with stop := some t } else o }
      | none => s
    | none =>
      let s := match s.core.xHalt with
        | some t => s.reportStop 1 copy 4 s.xWhence t fun t c => { c with xHalt := some t }
        | none => s
      match s.core.xc.walk.stop with
      | some t => s.reportStop 2 0 4 s.core.xc.walk.addr t fun t c =>
          c.modXc fun x => { x with walk := { x.walk with stop := some t } }
      | none => s

/-- The 32 bytes of a fault report (17 R395). -/
def Report.bytes (r : Report) : List Byte :=
  bytesOf 2 (r.ctx % 4096 + 4096 * r.kind) ++ bytesOf 1 r.eng ++ bytesOf 1 r.code ++ bytesOf 4 r.fseq ++ bytesOf 2 r.core
    ++ bytesOf 1 r.acc ++ bytesOf 5 0 ++ bytesOf 8 r.va ++ bytesOf 8 r.whence

/-- FAULT_REPORT_WRITE: the `k`-th report that waits is written to its context's queue, unless the queue is full (17
R395). -/
def execFaultReportWrite (k : Nat) (s : State) : Result :=
  .next <|
    match s.dev.reports[k]? with
    | none => s
    | some r =>
      match s.dev.ctx r.ctx with
      | none => s
      | some c =>
        if (c.frqTail + 1) % 4096 = c.frqHead then s
        else
          match s.writeSystem (c.frqbase.toNat + 32 * c.frqTail) r.bytes with
          | none => s
          | some s =>
            let s := s.modCtx r.ctx fun c => { c with frqTail := (c.frqTail + 1) % 4096 }
            s.modDev fun d => { d with reports := d.reports.eraseIdx k }

/-! ## Replies (17 R396, R397) -/

/-- Whether a stop of the core has a number. -/
def Stop.named (t : Option Stop) (fseq : Nat) : Bool := match t with | some t => decide (t.fseq = some fseq) | none => false

/-- The stop of a number is over: the word or access starts again. -/
def Core.resumeStop (c : Core) (fseq : Nat) : Core :=
  let c := { c with
    aHalt := if Stop.named c.aHalt fseq then none else c.aHalt
    xHalt := if Stop.named c.xHalt fseq then none else c.xHalt }
  c.modXc fun x => { x with
    walk := if Stop.named x.walk.stop fseq then { x.walk with stop := none } else x.walk
    copies := x.copies.map fun k => if Stop.named k.stop fseq then { k with stop := none } else k }

/-- The code of the stop of a number. -/
def Core.stopCode (c : Core) (fseq : Nat) : Nat :=
  let all := [c.aHalt, c.xHalt, c.xc.walk.stop] ++ c.xc.copies.map Copy.stop
  match all.find? fun t => Stop.named t fseq with
  | some (some t) => t.code
  | _ => 0x09

/-- A reply acts on a resident context: a retry resumes the stop, an abort is contained and ends the launch with
status 4 (17 R396). -/
def State.reply (s : State) (ctx : Nat) (o : OpenStop) (abort : Bool) : State :=
  let s := s.modCtx ctx fun c => { c with stops := c.stops.filter fun x => decide (x.fseq ≠ o.fseq) }
  let c := s.coreAt o.core
  if abort then
    s.containWith ctx (c.stopCode o.fseq) (c.resident.map Resident.launch).toList false false
  else s.modCore o.core fun c => c.resumeStop o.fseq

/-- A reply to a stop of a context that is not resident: kept for its resumption, in the fault table of its save area (17 R397), once
that page takes the write (19 R436). -/
def State.keepReply (s : State) (c : Ctx) (o : OpenStop) (abort : Bool) : State :=
  let act := if abort then 1 else 0
  let keep := s.modCtx c.id fun c => { c with replies := c.replies ++ [(o.fseq, act)] }
  match c.saved with
  | some img =>
    let at_ := c.faultEntryAt img o + 4
    if s.dev.systemWaits at_ 2 .write then s.pushDue (.freply abort c.id o.fseq)
    else keep.modDev fun d => d.putSystem at_ 2 (ofBytes (bytesOf 1 act ++ bytesOf 1 1))
  | none => keep

/-- A reply to a reported stop: at once if the context is resident, else kept for its resumption (17 R396, R397). -/
def State.answer (s : State) (ctx fseq : Nat) (abort : Bool) : State :=
  match s.dev.ctx ctx with
  | none => s
  | some c =>
    let written := !(s.dev.reports.any fun r => decide (r.ctx = ctx ∧ r.fseq = fseq ∧ r.kind < 3))
    match c.stops.find? fun o => decide (o.fseq = fseq) with
    | none => s
    | some o =>
      if !written then s
      else if (s.coreAt o.core).ctxId = ctx then s.reply ctx o abort
      else if c.replies.any fun p => decide (p.1 = fseq) then s
      else s.keepReply c o abort

/-- FREPLY_RETRY (17 R396). -/
def execFreplyRetry (ctx : BitVec 12) (fseq : BitVec 32) (s : State) : Result := .next (s.answer ctx.toNat fseq.toNat false)

/-- FREPLY_ABORT (17 R396). -/
def execFreplyAbort (ctx : BitVec 12) (fseq : BitVec 32) (s : State) : Result := .next (s.answer ctx.toNat fseq.toNat true)

/-! ## Fencing and the residue check (08 R243; 23 R482, R486) -/

/-- The pending records with one more error of a kind and unit: where the ring is full and one of them is pending, in the last of
them (23 R486). -/
def mergeError (e : ErrRec) : List ErrRec → Option (List ErrRec)
  | [] => none
  | x :: r =>
    match mergeError e r with
    | some r => some (x :: r)
    | none => if x.kind = e.kind ∧ x.unit = e.unit then some ({ x with count := x.count + 1 } :: r) else none

/-- An error of a kind and unit waits for the error ring: one more of it, or a new record (23 R486). -/
def Device.logError (d : Device) (kind unit addr : Nat) : Device :=
  let full := decide ((d.hostIf.errtail + 1) % 256 = d.hostIf.errhead)
  let e : ErrRec := ⟨d.globalTime.toNat, kind, unit, 1, addr⟩
  let es := d.mgmt.errors
  let merged := if full then mergeError e es else none
  { d with mgmt := { d.mgmt with errors := merged.getD (es ++ [e]) } }

/-- The fence of capabilities takes effect in CAPMASK at the end of its ref cycle: launches that can never be placed now end, and
the dispatcher's pointer starts again (23 R482, 14 R342, R346). -/
def State.applyFence (s : State) (id : CoreId) (bits : BitVec 24) : State :=
  let s := s.modCore id fun c => { c with capmask := c.capmask &&& ~~~bits }
  (s.modDev fun d => { d with idleVisits := 0 }).dropUnplaceable

/-- CAPABILITY_FENCE: the fence of CAPMASK bits of a core is logged and reported, and takes effect at the end of the ref cycle (23
R481, R482, R486). -/
def State.fence (s : State) (id : CoreId) (bits : BitVec 24) : State :=
  s.modDev fun d =>
    let d := { d with
      due := d.due ++ [DueEvent.fence id bits]
      mgmt := { d.mgmt with fence := d.mgmt.fence ++ [(id.number, bits, d.globalTime.toNat)] } }
    d.logError 4 id.number 0

/-- A contained event of the focus core, recorded as the most recent fault of its context (01 R17, 17 R391, R405). -/
def State.recordContained (s : State) (e : Engine) (f : FaultRec) : State :=
  let wave := decide (s.core.mode = .wave)
  let col := match s.core.resident with | some r => r.col | none => 0
  s.modCtx s.core.ctxId fun x => { x with lastFault := (faultInfo wave col e f, f.pc, f.addr) }

/-- A second mismatch in one step: the capability of FA is fenced, the nest stops, and *checksum fence* is contained, DETAIL the
capability and ARG the tile (08 R233, R243, 17 R405). -/
def State.checksumFence (s : State) (n : Nest) : State :=
  let id := s.core.id
  let ctx := s.core.ctxId
  let s := s.recordContained .m { mkFault 0x10 n.fa.cap n.tile 0 with pc := s.core.em.pc }
  let s := s.modFocus fun c => { c with mx := { c.mx with active := false } }
  let s := s.modDev fun d => d.logError 3 id.number 0
  (s.fence id (BitVec.ofNat 24 (2 ^ n.fa.cap))).contain ctx 0x10

/-- NEST_STEP: the next step of the running nest; `misses` attempts of it fail the residue check (08 R240, R243). -/
def execNestStep (misses : Fin 3) (s : State) : Result :=
  .next <|
    if !s.canStep then s
    else
      match misses.val with
      | 0 => s.takeStep false
      | 1 => s.takeStep true
      | _ =>
        match s.core.mx.nest with
        | some n => (s.modMx fun m => { m with reruns := min (m.reruns + 1) 65535, rtile := Fin.ofNat 32 n.tile }).checksumFence n
        | none => s

/-- The unit of an ECC error in its record: the core, or the number of the SBM bank or HBM channel (23 R486; DESIGN CHOICE, log entry
28). -/
def errorUnit (id : CoreId) (unit num : Nat) : Nat := if unit < 5 then id.number else num

/-- A corrected ECC error is reported; every value is as it was (04 R128, 23 R486). -/
def State.eccCorrected (s : State) (unit num : Nat) (addr : Dword) : State :=
  s.modDev fun d => d.logError 1 (errorUnit s.core.id unit num) addr.toNat

/-- UNCORRECTABLE_DATA in a unit of the focus core or of the device (0 register, 1 tile, 2 scratchpad, 3 accumulator, 4
side memory, 5 SBM, 6 HBM) and number: it is logged and contained, and a second one in a bank of the scratchpad or
accumulator within 24 h fences the core (04 R128; 17 R391, R405; 23 R482, R486). -/
def execUncorrectableData (unit : Fin 7) (num : Nat) (addr : Dword) (s : State) : Result :=
  .next <|
    let id := s.core.id
    let ctx := s.core.ctxId
    let now := s.dev.globalTime.toNat
    let banked := decide (unit.val = 2 ∨ unit.val = 3)
    let key := (id.number * 7 + unit.val) * 65536 + num
    let again := s.dev.mgmt.eccEvents.any fun e => decide (e.1 = key ∧ (now : Int) < e.2 + 86400000000000)
    let s := s.modDev fun d =>
      let events := if banked then (key, (now : Int)) :: d.mgmt.eccEvents else d.mgmt.eccEvents
      { d with mgmt := { d.mgmt with eccEvents := events } }.logError 2 (errorUnit id unit.val num) addr.toNat
    let s := if banked && again then s.fence id (BitVec.allOnes 24) else s
    if s.core.resident.isSome then (s.recordContained .c (mkFault 0x11 unit.val num addr)).contain ctx 0x11 else s

end Sys2Proof.Machine
end

