-- ==== Sys2Proof/Machine/Mgmt.lean ====
section
/-! DEFINITION. The management core: boot, the mailbox, error records and thermal events (23 R478–R486). -/

namespace Sys2Proof.Machine

/-! ## The configuration image (23 R480, R481) -/

/-- A list cut or filled with zeros to a length. -/
def fit (n : Nat) (b : List Byte) : List Byte := (b ++ List.replicate n 0).take n

/-- Whether exactly 16 cores of each package row are enabled in an image. -/
def imageRowsOk (b : List Byte) : Bool :=
  (List.range 32).all fun r =>
    decide (((List.range 18).filter fun c => (fld b (16 + 4 * (18 * r + c)) 4).testBit 31).length = 16)

/-- The result of verifying a configuration image: 0 good, 1 signature, 2 version, 3 serial (23 R480, R485; DEDUCED, log
entry 28). -/
def Mgmt.verifyImage (m : Mgmt) (b : List Byte) : Nat :=
  let body := b.take 2320
  if b.length ≠ 4740 ∨ fld b 0 4 ≠ 0x56344346 ∨ !imageRowsOk b
      ∨ !Config.mldsaVerify Config.rootKey (fit 32 (Config.sha3 body)) (b.drop 2320) then 1
  else if fld b 4 4 < m.version then 2
  else if afld b 8 ≠ Config.serial then 3
  else 0

/-- ENABLED of core `k` under an image, and its CAP with every logged bit cleared. -/
def Mgmt.capOf (m : Mgmt) (b : List Byte) (k : Nat) : Bool × BitVec 24 :=
  let w := fld b (16 + 4 * k) 4
  let lost := (m.fence.filter fun e => decide (e.1 = k)).foldl (fun (a : BitVec 24) e => a ||| e.2.1) 0
  (w.testBit 31, BitVec.ofNat 24 w &&& ~~~lost)

/-- A core as an image sets it. -/
def Core.configure (c : Core) (x : Bool × BitVec 24) : Core :=
  { c with enabled := x.1, capmask := x.2 }

/-- The management core starts its firmware, at divisor 3 and at the first word behind the header, every domain Awake but those of the
engines that it does not have; without a firmware it has no word
(16, 23 R479, R483; DESIGN CHOICE, log entry 33). -/
def Core.startFirmware (c : Core) (firmware : List Byte) : Core :=
  { c with
    enabled := true
    capmask := BitVec.allOnes 24
    ec := { c.ec with state := if firmware.isEmpty then .idle else .running, pc := 0, divisor := 3, phase := 1 }
    doms := vof 31 fun d => if 2 ≤ d ∧ d ≤ 5 then .off else .awake }

/-- MODULE_BOOT: the configuration image is verified and each core's ENABLED and CAPMASK are set from it and from the
fence log; with an image that fails, the module does not start (23 R480, R481). -/
def execModuleBoot (image : List Byte) (s : State) : Result :=
  .next <|
    if s.dev.mgmt.booted || s.dev.mgmt.verifyImage image ≠ 0 then s
    else
      let m := s.dev.mgmt
      let s := s.mapCores fun c => c.configure (m.capOf image c.id.number)
      s.modDev fun d => { d with mgmt := { d.mgmt with
        booted := true, image := image, version := fld image 4 4, core := d.mgmt.core.startFirmware d.mgmt.firmware } }

/-! ## The mailbox (23 R483–R485) -/

/-- A write of MBCMD: discarded with result 4 while a command is under way, and else discarded if it names none (23 R485). -/
def Mgmt.accept (m : Mgmt) (cmd : Nat) : Mgmt :=
  if m.command.isSome then { m with result := 4 }
  else if 1 ≤ cmd ∧ cmd ≤ 3 then { m with command := some cmd }
  else m

/-- A command written to MBCMD. -/
def State.mbcmd (s : State) (cmd : Nat) : State := s.modDev fun d => { d with mgmt := d.mgmt.accept cmd }

/-- MBCMD_ATTEST (23 R484). -/
def execMbcmdAttest (s : State) : Result := .next (s.mbcmd 1)

/-- MBCMD_STAGE_FIRMWARE (23 R483). -/
def execMbcmdStageFirmware (s : State) : Result := .next (s.mbcmd 2)

/-- MBCMD_STAGE_IMAGE (23 R480). -/
def execMbcmdStageImage (s : State) : Result := .next (s.mbcmd 3)

/-- The fence log as bytes: core number, CAP bits, time and signature of each entry (23 R481; DESIGN CHOICE, log entry 10). -/
def Mgmt.fenceBytes (m : Mgmt) : List Byte :=
  (m.fence.map fun e =>
    let b := bytesOf 4 e.1 ++ bytesOf 4 e.2.1.toNat ++ bytesOf 8 e.2.2
    b ++ fit 2420 (Config.mldsaSign (fit 32 (Config.sha3 b)))).flatten

/-- The attestation report for a nonce (23 R484). -/
def Device.attest (d : Device) (nonce : List Byte) : List Byte :=
  let digest := fun b => fit 32 (Config.sha3 b)
  let head := bytesOf 4 0x56344154 ++ bytesOf 4 d.devnum.toNat ++ nonce ++ digest d.mgmt.firmware ++ digest d.mgmt.image
    ++ digest d.mgmt.fenceBytes ++ bytesOf 8 d.globalTime.toNat ++ bytesOf 48 0
  head ++ fit 2420 (Config.mldsaSign (digest head))

/-- The result of verifying a firmware image: header of 64 bytes (MAGIC, VERSION and length in its first 12 bytes),
code, signature (23 R483; DESIGN CHOICE, log entry 10). -/
def Mgmt.verifyFirmware (m : Mgmt) (b : List Byte) : Nat :=
  let n := 64 + fld b 8 4
  if fld b 0 4 ≠ 0x56344657 ∨ !Config.mldsaVerify Config.rootKey (fit 32 (Config.sha3 (b.take n))) (b.drop n) then 1
  else if fld b 4 4 < m.firmwareVersion then 2
  else 0

/-- What a mailbox command does when it is finished. -/
def Device.mailbox (d : Device) (cmd : Nat) : Device :=
  let arg := d.hostIf.mbarg.toNat
  let over_ := fun (m : Mgmt) (r : Nat) => { m with command := none, result := r }
  match cmd with
  | 1 => { d with
      host := writeBytes d.host (arg + 4096) (d.attest (readBytes d.host arg 32))
      mgmt := over_ d.mgmt 0 }
  | 2 =>
    let b := readBytes d.host arg (64 + readLE d.host (arg + 8) 4 + 2420)
    let r := d.mgmt.verifyFirmware b
    { d with mgmt := over_ (if r = 0 then { d.mgmt with stagedFirmware := some b } else d.mgmt) r }
  | _ =>
    let b := readBytes d.host arg 4740
    let r := d.mgmt.verifyImage b
    { d with mgmt := over_ (if r = 0 then { d.mgmt with stagedImage := some b } else d.mgmt) r }

/-- MBCMD_COMPLETE: the command finishes, BUSY reads 0 and the result stands (23 R485). -/
def execMbcmdComplete (s : State) : Result :=
  .next (match s.dev.mgmt.command with
    | some c => s.modDev fun d => d.mailbox c
    | none => s)

/-! ## Error records (23 R486) -/

/-- The 32 bytes of an error record. -/
def ErrRec.bytes (e : ErrRec) : List Byte :=
  bytesOf 8 e.time ++ bytesOf 1 e.kind ++ bytesOf 2 e.unit ++ bytesOf 1 0 ++ bytesOf 4 e.count ++ bytesOf 8 e.addr
    ++ bytesOf 8 0

/-- ERROR_RECORD_WRITE: the oldest pending record goes to the error ring, unless the ring is full. -/
def execErrorRecordWrite (s : State) : Result :=
  .next <|
    match s.dev.mgmt.errors with
    | [] => s
    | e :: r =>
      let h := s.dev.hostIf
      if (h.errtail + 1) % 256 = h.errhead then s
      else
        s.modDev fun d => { d with
          host := writeBytes d.host (h.errbase.toNat + 32 * h.errtail) e.bytes
          hostIf := { d.hostIf with errtail := (h.errtail + 1) % 256 }
          mgmt := { d.mgmt with errors := r } }

/-! ## Thermal events (23 R478) -/

/-- The clusters of a die. -/
def dieClusters (die : Nat) : List Nat := (List.range 48).map fun k => 48 * die + k

/-- THERMAL_LIMIT: a sensor of the die passes 100 °C, and LIMITED is set on every cluster of the die at the end of the ref
cycle (23 R478, 15 R371). -/
def execThermalLimit (die : Fin 4) (s : State) : Result :=
  .next (s.modDev fun d =>
    let d := (dieClusters die.val).foldl (fun (d : Device) n =>
      d.modCluster n fun x => { x with limitNext := some true }) d
    d.logError 7 die.val 0)

/-- The contexts resident on a die. -/
def State.ctxsOn (s : State) (die : Nat) : List Nat :=
  ((s.cores.filter fun c => decide (c.id.die = die) && c.resident.isSome).map Core.ctxId).dedup

/-- THERMAL_TRIP: the clocks of the die stop, and with them its cores where they stand, so that none of their columns drains any
more; every context resident on it is rolled back, and the trip is reported (23 R478, 17 R406; DEDUCED, log entry 31). -/
def execThermalTrip (die : Fin 4) (s : State) : Result :=
  .next <|
    let s := s.modDev fun d =>
      { d with mgmt := { d.mgmt with stopped := vset d.mgmt.stopped die true } }.logError 8 die.val 0
    let s := s.mapCores fun c => if c.id.die = die.val ∧ c.resident.isSome then c.freeze else c
    (s.ctxsOn die.val).foldl (fun (s : State) ctx => s.contain ctx 0) s

end Sys2Proof.Machine
end

