-- ==== Sys2Proof/Machine/Loader.lean ====
section
/-! DEFINITION. The loader: code objects, relocation, the column map, re-relocation and patching (22 R465–R472). -/

namespace Sys2Proof.Machine

/-! ## Fields (22 R468) -/

/-- A number with its `n` bits from bit `lo` on replaced. -/
def putBits (w lo n v : Nat) : Nat := w - w / 2 ^ lo % 2 ^ n * 2 ^ lo + v % 2 ^ n * 2 ^ lo

/-- The word of a copy section that a relocation's offset names: its bytes and its number. -/
def relocWord (k : CodeCopy) (off : Nat) : Nat × Nat :=
  let n := if k.xstart ≤ off then 8 else 4
  (n, fld k.bytes off n)

/-- Whether a number is an LI word. -/
def isLi (w : Nat) : Bool := match decodeC w with | .ok (.li _ _) => true | .error (.reserved (.li _ _)) => true | _ => false

/-- Whether a number is an X word with a COORD field in use. -/
def hasCoord (w : Nat) : Bool := decide (w / 2 ^ 11 % 2 = 1 ∧ 1 ≤ w / 2 ^ 58 ∧ w / 2 ^ 58 ≤ 5 ∧ w / 2 ^ 58 ≠ 3)

/-- Whether the offset of a relocation of a copy holds a field of its kind, with its value in range (22 R468). -/
def relocOk (k : CodeCopy) (r : Reloc) : Bool :=
  let (n, w) := relocWord k r.offset
  let inside := decide (r.offset + n ≤ k.bytes.length ∧ r.offset % n = 0)
  let inC := decide (r.offset < k.cend)
  match r.kind with
  | .coord10 =>
    let a := r.addend.toNat
    inside && (if n = 8 then hasCoord w else inC && isLi w)
      && decide (0 ≤ r.addend ∧ a < 2 ^ 13 ∧ a / 2 ^ 4 % 2 ^ 4 = 0 ∧ a / 2 ^ 8 ≤ k.rows ∧ a % 2 ^ 4 ≤ k.cols)
  | .arena18 =>
    let v : Int := r.symbol + r.addend
    inside && inC && isLi w && decide (-131072 ≤ v ∧ v ≤ 131071)
  | .abs64 | .varent | .other _ => false

/-- COREID of the core at the gang row and logical column of an addend, for the first package row and the column map of a partition (22
R468, R470; 01 R15). -/
def coordOf (row0 : Nat) (map : List (List Nat)) (addend : Int) : Nat :=
  let a := addend.toNat
  let prow := row0 + a / 2 ^ 8
  let col := (map.getD (a / 2 ^ 8) []).getD (a % 2 ^ 4) 0
  CoreId.code ⟨prow / 8 % 4, prow % 8, col⟩

/-- A word with a field of a relocation's kind written: COORD10 in an X word or in LI, where IMM[17:10] stays zero, or
ARENA18. -/
def relocated (kind : RelocKind) (n w v : Nat) : Nat :=
  match kind with
  | .coord10 => if n = 8 then putBits w 12 10 v else putBits w 2 18 (v % 2 ^ 10)
  | .arena18 => putBits w 2 18 v
  | _ => v

/-! ## The column map (22 R470) -/

/-- The placement variant of a copy. -/
def variantOf (k : CodeCopy) : Variant := ⟨k.base + k.centry, k.row0, k.wcol, k.rows, k.cols⟩

/-- The column map of a copy's rectangle: blockers are ignored, members are the enabled cores that cover USE. -/
def State.columnMap (s : State) (k : CodeCopy) : Option (List (List Nat)) :=
  (s.scanVariant (idleClass k.use) (variantOf k)).map fun rows => rows.map fun r => r.1.map CoreId.col

/-- The copy on the rectangle that the loader chooses: the one it is to try first, or else the first of its shape, by row and then
column, that has a column map (22 R470; DESIGN CHOICE, log entry 41). -/
def State.chosen (s : State) (k : CodeCopy) : Option CodeCopy :=
  let at_ := fun (r c : Nat) => { k with row0 := r, wcol := c }
  let all := ((List.range 32).map fun r => (List.range 18).map (at_ r)).flatten
  (k :: all).find? fun x => (s.columnMap x).isSome

/-- PVv of a copy's placement (14 R332). -/
def placementOf (k : CodeCopy) : Nat :=
  (k.base + k.centry) % 2 ^ 40 + k.row0 % 2 ^ 5 * 2 ^ 40 + k.wcol % 2 ^ 5 * 2 ^ 45 + k.rows % 2 ^ 5 * 2 ^ 50
    + k.cols % 2 ^ 4 * 2 ^ 55

/-! ## Writing code and data -/

/-- One word in the arena written at once; a C word goes with its half of the 8 bytes (22 R471). -/
def State.putWord64 (s : State) (a n v : Nat) : State :=
  if n = 8 then s.pokeHome (.hbm a false) 8 v
  else
    let base := a / 8 * 8
    let old := readLE s.dev.hbm base 8
    s.pokeHome (.hbm base false) 8 (putBits old (8 * (a % 8)) 32 v)

/-- A relocated field of a copy in the arena written with a value. -/
def State.writeField (s : State) (k : CodeCopy) (r : Reloc) (v : Nat) : State :=
  let n := if k.xstart ≤ r.offset then 8 else 4
  let a := k.base + r.offset
  s.putWord64 a n (relocated r.kind n (readLE s.dev.hbm a n) v)

/-- Every COORD10 field of a copy written from the first package row and the column map of a partition. -/
def State.writeCoords (s : State) (k : CodeCopy) (row0 : Nat) (map : List (List Nat)) : State :=
  (k.relocs.filter fun r => decide (r.kind = .coord10)).foldl
    (fun (s : State) r => s.writeField k r (coordOf row0 map r.addend)) s

/-- Bytes written where a context's tree maps a virtual address, by the loader, which is no access of the context; none if a page is
not mapped. -/
def State.loadVirt (s : State) (ctx va : Nat) : List Byte → Option State
  | [] => some s
  | b :: r =>
    match (s.dev.ctx ctx).map fun c => walk s.dev.hbm c.ptroot va with
    | some (.leaf e pb _) => (s.pokeHome (leafHome e pb va) 1 b.toNat).loadVirt ctx (va + 1) r
    | _ => none

/-- The table entries that map a data section stored; none if one is no dword of HBM (19 R422, 22 R469). -/
def State.mapSection (s : State) : List (Nat × Dword) → Option State
  | [] => some s
  | m :: r => if m.1 % 8 = 0 ∧ hbmBacked m.1 then (s.pokeHome (.hbm m.1 false) 8 m.2.toNat).mapSection r else none

/-! ## Loading (22 R469, R470) -/

/-- Whether a copy can be loaded at the arena address where system software puts it. -/
def State.copyOk (s : State) (k : CodeCopy) : Bool :=
  match s.dev.ctx k.ctx with
  | none => false
  | some c =>
    decide (k.base % 64 = 0 ∧ c.codebase.toNat % 2 ^ 49 ≤ k.base ∧ k.base + k.bytes.length ≤ c.codebound.toNat % 2 ^ 49)
      && hbmBacked k.base && hbmBacked (k.base + k.bytes.length - 1)
      && k.relocs.all (relocOk k)

/-- The number of the placement variant at an offset of a data section: byte 32 + 8`v` of one of its `.launch` records. -/
def variantAt (x : DataSection) (off : Nat) : Option Nat :=
  (List.range 4).find? fun v => x.records.any fun o => decide (off = o + 32 + 8 * v)

/-- The dword that a relocation of a data section writes, none where its offset holds no field of its kind: ABS64, or VARENT
of copy `v` of the kernel, whose C entry its symbol is (22 R468). -/
def datumOf (img : CodeImage) (x : DataSection) (r : Reloc) : Option Nat :=
  match r.kind with
  | .abs64 => some (((r.symbol : Int) + r.addend) % (2 ^ 64 : Int)).toNat
  | .varent =>
    match variantAt x r.offset with
    | some v => (img.copies.find? fun (k : CodeCopy) => decide (k.base + k.centry = r.symbol ∧ k.variant = v)).map placementOf
    | none => none
  | _ => none

/-- The bytes of a data section with its relocations applied. -/
def dataBytes (img : CodeImage) (x : DataSection) (b : List Byte) : List Reloc → Option (List Byte)
  | [] => some b
  | r :: rs =>
    match datumOf img x r with
    | some v =>
      if r.offset + 8 ≤ b.length then dataBytes img x (b.take r.offset ++ bytesOf 8 v ++ b.drop (r.offset + 8)) rs else none
    | none => none

/-- One copy section in the arena, its fixed relocations and its coordinates applied; it takes the place of a copy at its address. -/
def State.loadCopy (s : State) (k : CodeCopy) : State :=
  let map := (s.columnMap k).getD []
  let s := s.pokeHome (.hbm k.base false) k.bytes.length (leOf k.bytes)
  let s := (k.relocs.filter fun r => decide (r.kind = .arena18)).foldl
    (fun (s : State) r => s.writeField k r (wrap 18 (r.symbol + r.addend))) s
  let s := s.writeCoords k k.row0 map
  s.modDev fun d => { d with
    loaded := d.loaded.filter (fun o => decide (o.copy.base ≠ k.base)) ++ [⟨k, k.row0, map⟩] }

/-- The data sections of a context, each mapped, at a multiple of its alignment (02 R85, 22 R469). -/
def State.loadData (img : CodeImage) (ctx : Nat) : List DataSection → State → Option State
  | [], s => some s
  | x :: r, s =>
    match dataBytes img x x.bytes x.relocs with
    | none => none
    | some b =>
      if x.va % x.align ≠ 0 then none
      else
        match (s.mapSection x.maps).bind fun s => s.loadVirt ctx x.va b with
        | none => none
        | some s =>
          State.loadData img ctx r (s.modDev fun d => { d with sections := d.sections ++ [(ctx, x.va, x.relocs)] })

/-- The data sections mapped for each context that will run the code. -/
def State.loadAllData (img : CodeImage) : List Nat → State → Option State
  | [], s => some s
  | ctx :: r, s =>
    match State.loadData img ctx img.data s with
    | some s => State.loadAllData img r s
    | none => none

/-- The header of a file that the loader takes: ELFCLASS64, ELFDATA2LSB, OS ABI 0, ET_REL, machine 0x7CA4, and e_flags with
an ISA of at most 1 and bits 31:8 zero (22 R465). -/
def headerOk (h : ElfHeader) : Bool :=
  decide (h.fileClass = 2 ∧ h.data = 1 ∧ h.osabi = 0 ∧ h.type = 1 ∧ h.machine = 0x7CA4 ∧ h.flags ≤ 1)

/-- The copies of an object on their rectangles; none if one has no rectangle (22 R470). -/
def State.allChosen (s : State) : List CodeCopy → Option (List CodeCopy)
  | [] => some []
  | k :: r =>
    match s.chosen k, s.allChosen r with
    | some k, some r => some (k :: r)
    | _, _ => none

/-- CODE_OBJECT_LOAD: the copies go into the arena and the data sections to their virtual addresses, with their
relocations applied; the loader refuses the whole object if a check fails (22 R465, R468–R470; 02 R85). -/
def execCodeObjectLoad (img : CodeImage) (s : State) : Result :=
  .next <|
    match s.allChosen img.copies with
    | none => s
    | some copies =>
      let img := { img with copies := copies }
      if headerOk img.header && copies.all s.copyOk then
        (State.loadAllData img (img.ctxs ++ copies.map CodeCopy.ctx).dedup (copies.foldl State.loadCopy s)).getD s
      else s

/-! ## Re-relocation (22 R471) -/

/-- Whether a running launch uses a copy, but for those that `idle` names. -/
def Device.copyInUse (d : Device) (k : Loaded) (idle : Launch → Bool) : Bool :=
  d.launches.any fun l => decide (l.state = .running) && !idle l && decide (d.copyOf l = some k)

/-- A copy rewritten for the first package row and the column map of a partition, which are recorded. -/
def State.relocate (s : State) (k : Loaded) (row0 : Nat) (map : List (List Nat)) : State :=
  let s := s.writeCoords k.copy row0 map
  s.modDev fun d => { d with loaded := d.loaded.map fun o => if o = k then { o with row0 := row0, map := map } else o }

/-- The copy of a launch brought to the rows and the map of its cores: none while a running launch, of whichever context, uses it under
others. The units of its own task launch that have ended use it no more. -/
def State.relocateFor (s : State) (l : Launch) : Option State :=
  match s.dev.copyOf l with
  | none => some s
  | some k =>
    if !s.mapDiffers l then some s
    else if s.dev.copyInUse k (fun o => decide (o.rootKey = l.rootKey ∧ o.record.mode = 2) && !o.halted.isEmpty) then none
    else some (s.relocate k (s.topRow l) (s.columns l))

/-- A launch whose cores wait for its copy starts if the copy's map is now that of its cores, or goes on if its cores are restored;
a task unit starts by TASK_START. -/
def State.startBound (s : State) (l : Launch) : State :=
  if s.mapDiffers l then s
  else if l.resume then s.modLaunch l.key fun l => { l with state := .running, resume := false }
  else if l.record.mode = 2 then s
  else (s.modLaunch l.key fun l => { l with state := .running }).startCores l

/-- RE_RELOCATE: the loader rewrites a copy, which no running launch uses, for the first launch whose placement waits
for it, and the launches that waited for that map start (22 R471). -/
def execReRelocate (copy : Nat) (s : State) : Result :=
  .next <|
    match s.dev.loaded[copy]? with
    | none => s
    | some k =>
      let waits := s.dev.launches.filter fun l =>
        decide (l.state = .bound) && (decide (l.record.mode ≠ 2) || l.resume || s.mapDiffers l) && decide (s.dev.copyOf l = some k)
      match waits with
      | [] => s
      | l :: _ => waits.foldl State.startBound ((s.relocateFor l).getD s)

/-! ## Patching (22 R472) -/

/-- PATCH: a relocated field is written again with a new value of its type: of a copy's word while no running launch
uses the copy, or, behind the copies, of a data section's dword (22 R471, R472). -/
def execPatch (copy reloc : Nat) (v : Dword) (s : State) : Result :=
  .next <|
    match s.dev.loaded[copy]? with
    | some k =>
      match k.copy.relocs[reloc]? with
      | some r => if s.dev.copyInUse k (fun _ => false) then s else s.writeField k.copy r v.toNat
      | none => s
    | none =>
      match s.dev.sections[copy - s.dev.loaded.length]? with
      | some (ctx, va, rs) =>
        match rs[reloc]? with
        | some r => (s.loadVirt ctx (va + r.offset) (bytesOf 8 v.toNat)).getD s
        | none => s
      | none => s

end Sys2Proof.Machine
end

