-- ==== Sys2Proof/Machine/Preempt.lean ====
section
/-! DEFINITION. Pre-emption: boundaries, deep saves and resumption (17 R409–R415; 09 R284), and seizure (17 R416, R417;
21 R464; 05 R177). -/

namespace Sys2Proof.Machine

/-! ## Requests and boundaries (17 R409) -/

/-- A pre-emption of a context is requested; a boundary may be used until PREEMPTDL.BND has passed (17 R409, R410). -/
def Device.requestPreempt (d : Device) (ctx : Nat) : Device :=
  d.modCtx ctx fun c =>
    if c.boundaryBy.isSome || c.saveBy.isSome || c.saved.isSome then c
    else { c with boundaryBy := some (d.now + 3000 * (c.preemptdl.toNat % 2 ^ 16)) }

/-- PREEMPTION_REQUEST (17 R409). -/
def execPreemptionRequest (ctx : Nat) (s : State) : Result := .next (s.modDev fun d => d.requestPreempt ctx)

/-- Whether a core of a context keeps a boundary from being used (17 R409). -/
def Core.blocksBoundary (c : Core) : Bool :=
  c.bound || !c.xc.copies.isEmpty || c.tiles.tq.toList.any TQ.valid
    || (c.xc.casks.toList.any (fun k => k.valid && decide (k.rp ≠ k.wp))) || !c.xc.held.isEmpty || !c.xc.slots.isEmpty

/-- The placed launches of a context that have not started, their cores held until their copy is relocated, wait for a placement
again once the context is pre-empted: a save takes nothing of them (22 R471; DEDUCED, log entry 25). -/
def State.unplaceHeld (s : State) (ctx : Nat) : State :=
  let ls := s.dev.launches.filter fun l =>
    decide (l.ctx = ctx) && decide (l.state = .bound ∧ l.record.mode ≠ 2) && !l.resume
  (ls.foldl State.freeCores s).modDev fun d => { d with
    launches := d.launches.map fun l => if ls.any fun o => decide (o.key = l.key) then l.again false else l }

/-- Whether the device's write of the save area of a context with `n` core records waits: for a page being moved, or at a sleeping SBM
bank (19 R436, 15 R361; DESIGN CHOICE, log entry 25: the save waits with it). -/
def Device.saveWaits (d : Device) (c : Ctx) (n : Nat) : Bool :=
  d.systemWaits c.savebase.toNat (0x10000 + recordBytes * n) .write

/-- BOUNDARY_PREEMPT: no launch of the context is running, and it is saved as it stands (17 R409, R412). -/
def execBoundaryPreempt (ctx : Nat) (s : State) : Result :=
  .next <|
    match s.dev.ctx ctx with
    | none => s
    | some c =>
      let u := s.unplaceHeld ctx
      let held := u.cores.any fun k => decide (k.ctxId = ctx) && k.blocksBoundary
      if c.boundaryBy.isNone || u.dev.anyRuns ctx || held || c.contained.isSome || u.dev.saveWaits c 0 then s
      else
        let img : Image := ⟨if s.dev.seizure.active then 2 else 0, true, false, [], [], [], []⟩
        (u.writeHeader c img.kind 0 img).modCtx ctx fun c => { c with boundaryBy := none, saved := some img }

/-! ## The deep save (17 R410, R411) -/

/-- Whether a core stands where a save can begin: running or in handler mode. -/
def Core.canFreeze (c : Core) : Bool := decide (c.flt.stop = .run ∨ c.flt.stop = .handler) && c.flt.raised.isEmpty

/-- The launches of a context that a save takes with it. -/
def Device.savedLaunches (d : Device) (ctx : Nat) : List Launch :=
  d.launches.filter fun l => decide (l.ctx = ctx) && (l.runs || decide (l.state = .bound ∧ l.record.mode = 2))

/-- A copy as the save records it: an idempotent one starts again (17 R411, R414). -/
def Copy.forReplay (k : Copy) : Copy :=
  if k.idempotent && !k.sent then
    { k with pos := 0, buf := none, aux := (0, 0), actual := 0, stop := none }
  else k

/-- The core records of a context, launch by launch, in partition order (17 R413). -/
def State.coreRecords (s : State) (ls : List Launch) : List (Nat × Core) :=
  (ls.map fun l => (s.coresFor l).map fun id => (l.key, (s.coreAt id).modXc fun x => { x with copies := x.copies.map Copy.forReplay })).flatten

/-- The kind of a deep save in its header (17 R412). -/
def Device.saveKind (d : Device) : Nat := if d.seizure.active then 2 else 1

/-- DEEP_PREEMPT: no usable boundary has come in time; the cores of the context stop, the columns of a row east of column
0 once they have drained, and the save area says that the save is in progress (17 R410, R412). -/
def execDeepPreempt (ctx : Nat) (s : State) : Result :=
  .next <|
    match s.dev.ctx ctx with
    | none => s
    | some c =>
      let ids := s.coresOf ctx
      let due := match c.boundaryBy with | some t => decide (t ≤ s.dev.now) | none => false
      if !due || c.contained.isSome || !(ids.all fun id => (s.coreAt id).canFreeze) || s.dev.saveWaits c 0 then s
      else
        let by_ := s.dev.now + 3000 * (c.preemptdl.toNat / 2 ^ 16 % 2 ^ 32)
        let s := s.unplaceHeld ctx
        let ls := s.dev.savedLaunches ctx
        let s := s.writeHeader c s.dev.saveKind 1 ⟨s.dev.saveKind, false, false, ls, s.coreRecords ls, [], []⟩
        (s.modCtx ctx fun c => { c with boundaryBy := none, saveBy := some by_ }).stopContext ctx

/-- A column that is saved or rolled back has stopped each engine that has reached its drain target, and in handler mode those
that the handler's fault had stopped (17 R388, R406, R410). -/
def Core.endSaveDrain (c : Core) (r : Row) : Core :=
  engines.foldl (fun c e => if c.stopsAt r e || (c.inHandler && decide (e ≠ .c)) then c.drainEngine e else c) c

/-- The credits of a copy or XSIG of a core that casks hold (09 R280): they are saved with the casks, and apply after the
resumption. -/
def State.heldCredits (s : State) (id : CoreId) (k : Nat) : Nat :=
  (s.cores.map fun c => (c.xc.held.filter fun r => decide (r.src = id ∧ r.id = k)).length).sum

/-- Some copies and those that wait for one of them; `n` bounds the way. -/
def waitingFor (ks : List Copy) : Nat → List Nat → List Nat
  | 0, ids => ids
  | n + 1, ids =>
    let more := ks.filter fun k => !ids.contains k.id && k.after.any ids.contains
    if more.isEmpty then ids else waitingFor ks n (ids ++ more.map Copy.id)

/-- The copies that a deep save does not see complete: idempotent ones that have stopped, others that have stopped for a report, and those
that wait for one of them. They are recorded as they stand, since a copy behind another starts no access before that one has completed
(17 R411, 09 R255, R281; DEDUCED, log entry 19). -/
def CopyEng.stuck (x : CopyEng) : List Nat :=
  let halted := x.copies.filter fun k => match k.stop with | some t => k.idempotent || t.fseq.isSome | none => false
  waitingFor x.copies x.copies.length (halted.map Copy.id)

/-- Whether a copy lets the save complete: cancelled, finished but for credits that casks hold, or recorded as it stands (17
R411, 09 R276). -/
def State.copySettled (s : State) (c : Core) (k : Copy) : Bool :=
  if k.sent then decide (k.left ≤ s.heldCredits c.id k.id) else k.idempotent || c.xc.stuck.contains k.id

/-- Whether an XSIG lets the save complete: its credit has gone to its cask and is held there, or a copy that the save records as it
stands comes before it (17 R410, 09 R278, R280). -/
def State.sigSettled (s : State) (c : Core) (g : XSig) : Bool :=
  if g.sent then decide (0 < s.heldCredits c.id g.id) else g.after.any c.xc.stuck.contains

/-- Whether a core of a context under a save has nothing left to run to completion (17 R410, R411). -/
def State.saveReady (s : State) (c : Core) : Bool :=
  c.flt.drained.toList.all (fun b => b) && c.accesses.isEmpty && c.arrivals.isEmpty && c.mx.writes.isEmpty
    && c.xc.sigs.all (s.sigSettled c) && c.xc.copies.all (s.copySettled c)

/-- SAVE_COMPLETE: everything that must complete has, the image is taken, and the cores are released (17 R410–R414). -/
def execSaveComplete (ctx : Nat) (s : State) : Result :=
  .next <|
    match s.dev.ctx ctx with
    | none => s
    | some c =>
      let ids := s.coresOf ctx
      let ls := s.dev.savedLaunches ctx
      let late := match c.saveBy with | some t => decide (t < s.dev.now) | none => true
      if late || !(ids.all fun id => s.saveReady (s.coreAt id)) || s.dev.saveWaits c (s.coreRecords ls).length then s
      else
        let rows := s.dev.rows.filter fun r => ls.any fun l => decide (l.key = r.launch)
        let s := rows.foldl (fun (s : State) (r : Row) =>
          let p := s.rowPoint r
          r.members.foldl (fun (s : State) id => s.modCore id fun c => c.setSkips p) s) s
        let img : Image := ⟨s.dev.saveKind, true, false, ls, s.coreRecords ls, [], []⟩
        let s := s.modDev fun d => (d.putRecords (.save c.savebase.toNat) 0x10000 c (img.cores.map Prod.snd)).putHeader c img.kind 0 img
        let transfers := s.dev.transfers
        let s := ls.foldl State.freeCores s
        let keys := ls.map Launch.key
        let s := s.modDev fun d => { d with
          transfers := transfers
          idleVisits := 0
          launches := d.launches.map fun l => if keys.contains l.key then { l.again true with halted := l.halted } else l }
        s.modCtx ctx fun c => { c with saveBy := none, saved := some img }

/-- SAVE_DEADLINE_EXPIRE: the context is lost; it goes back to its last gyle, and its lost-context records are written with that
rollback (17 R415, 21 R461). -/
def execSaveDeadlineExpire (ctx : Nat) (s : State) : Result :=
  .next <|
    match s.dev.ctx ctx with
    | none => s
    | some c =>
      match c.saveBy with
      | none => s
      | some t =>
        if s.dev.now < t || s.dev.saveWaits c 0 then s
        else
          let img : Image := ⟨s.dev.saveKind, false, true, [], [], [], []⟩
          let s := s.writeHeader c img.kind 2 { img with launches := s.dev.savedLaunches ctx }
          (s.modCtx ctx fun c => { c with saveBy := none, saved := some img }).containWith ctx 0 [] true false

/-! ## Resumption (17 R414) -/

/-- A core number under the change of cores that a new placement makes. -/
def moved (m : List (CoreId × CoreId)) (id : CoreId) : CoreId :=
  match m.find? fun p => decide (p.1 = id) with
  | some p => p.2
  | none => id

/-- A copy with its destinations on the new cores. -/
def Copy.moved (k : Copy) (m : List (CoreId × CoreId)) : Copy :=
  { k with dst := k.dst.map (Machine.moved m), dests := k.dests.map (Machine.moved m) }

/-- A credit with its cores. -/
def Credit.moved (k : Credit) (m : List (CoreId × CoreId)) : Credit :=
  { k with core := Machine.moved m k.core, src := Machine.moved m k.src }

/-- A registered transfer with its core; a hop that has parked translates again (19 R436). -/
def Transfer.moved (t : Transfer) (m : List (CoreId × CoreId)) : Transfer :=
  { t with core := Machine.moved m t.core, hops := t.hops.map fun h => { h with parked := none } }

/-- A restored core with the cores that its copies, the credits that its casks hold and its nest name. -/
def Core.moved (c : Core) (m : List (CoreId × CoreId)) : Core :=
  { c with
    mx := { c.mx with table := { c.mx.table with
      acore := Machine.moved m c.mx.table.acore, bcore := Machine.moved m c.mx.table.bcore } }
    xc := { c.xc with
      copies := c.xc.copies.map fun k => k.moved m
      held := c.xc.held.map fun k => k.moved m } }

/-- What has parked at a page being moved translates again (19 R436). -/
def unparked (t : Option Stop) : Option Stop := match t with | some x => if x.parked then none else t | none => none

/-- A saved core on a new one: every domain, register and buffer as saved, a HALT that waited to issue again (17 R387, R421), and its landing buffers, those of the engines that a
handler stops still held (17 R392, R414, 01 R58). Its Waking domains count on from the first C word issued, d.f, which that word
needs, at once (17 R414; DEDUCED, log entry 19). What had parked translates again, since the invalidation that it waited for may
have completed meanwhile (19 R436). -/
def Core.restoreOn (old new : Core) (r : Resident) : Core :=
  let live := fun x : Eng => { x with phase := 1, used := false, hold := none, parked := none }
  let wake := fun x : Eng => if old.flt.stop = .handler then live x else (live x).resumeLanding
  let old := if old.flt.stop = .handler then old else old.resumeX
  { old with
    id := new.id
    enabled := new.enabled
    capmask := new.capmask
    resident := some r
    relay := false
    ec := (live old.ec).resumeLanding
    ctl := { old.ctl with wait := .none }
    ea := wake old.ea
    ev := wake old.ev
    em := wake old.em
    ex := wake old.ex
    flt := { old.flt with
      drained := Vector.replicate 5 false, wd := 0
      wakesHeld := (List.range 31).any fun d => decide (d ≠ 0) && (old.dom d).isWaking }
    xc := { old.xc with
      copies := old.xc.copies.map fun k => { k with stop := unparked k.stop }
      walk := { old.xc.walk with stop := unparked old.xc.walk.stop } }
    aHalt := unparked old.aHalt
    xHalt := unparked old.xHalt
    tlbC := new.tlbC
    tlbA := new.tlbA
    tlbX := new.tlbX }

/-- The saved divisors and requests of a core. An engine that ran at divisor 2 asks for it again, at divisor 3, as a request for 2
does while the context has tokens: the power limit and the rails of its new clusters decide (15 R366, R368, R369; DEDUCED, log entry
9). A grant of another divisor stands. -/
def State.restoreClocks (s : State) (id : CoreId) : State :=
  s.atCore id fun s =>
    let tokens := match s.ctx with | some c => c.tokens | none => 0
    let restored := fun x : Eng =>
      if x.divisor = 2 ∨ x.request = some 2 then
        { x with divisor := max 3 x.divisor, request := if tokens = 0 then none else some 2, grantAt := none }
      else x
    (s.modFocus fun c => engines.foldl (fun c e => c.modEng e restored) c).retargetFor id

/-- A CLKDIV of column 0, which the restored clocks of column 0 decide for the columns that have yet to pass it (15 R365). -/
def ClkNote.restored (k : ClkNote) (c0 : Core) : ClkNote :=
  let x := c0.eng k.eng
  let was := match k.how with | .now | .granted _ _ => true | _ => false
  if k.d = 2 && was then
    if x.request = some 2 then { k with how := .pending } else { k with d := 3, how := .now }
  else if k.d = 2 ∧ k.how = .pending ∧ x.request ≠ some 2 then { k with how := .cancelled }
  else k

/-- The scan that gives a saved launch its cores again: a variant of the saved shape (17 R407, R414). -/
def State.resumePlace (s : State) (l : Launch) : Option (List (List CoreId × List CoreId)) :=
  let shape := l.record.variant l.variant
  (List.range (if l.record.mode = 2 then 1 else l.record.nvar + 1)).findSome? fun v =>
    let x := l.record.variant v
    if x.rows = shape.rows ∧ x.cols = shape.cols then
      s.scanVariant (s.coreClass l.record.use) x
    else none

/-- The saved cores of a launch put on new ones in partition order, with their clocks. -/
def State.restoreOnto (s : State) (l : Launch) (olds : List Core) (ids : List CoreId) (rowId : Nat) : State :=
  let put := fun (s : State) (x : Nat × Core × CoreId) =>
    let r : Resident := match x.2.1.resident with
      | some r => { r with ctx := l.ctx, launch := l.key, rowId := if r.mode = .wave then rowId + x.1 / l.cols else 0 }
      | none => l.residentAt x.1 (rowId + x.1 / l.cols)
    s.modCore x.2.2 fun new =>
      let k := x.2.1.restoreOn new r
      if x.2.1.resident.isNone then k.release else k
  let all := (List.range olds.length).zip (olds.zip ids)
  let s := all.foldl put s
  let s := ids.foldl State.restoreClocks s
  let s := ids.foldl (fun (s : State) id => s.modCore id fun c =>
    { c with ctl := { c.ctl with clk := c.ctl.clk.map fun k => k.restored c } }) s
  (ids.map CoreId.cluster).dedup.foldl State.grantRequests s

/-- A restored launch goes on, or is held while a running launch uses its copy under another map (17 R407, 22 R471). -/
def State.resumeOrHold (s : State) (l : Launch) : State :=
  match s.relocateFor l with
  | some s => s.modLaunch l.key fun l => { l with state := .running, resume := false }
  | none => s.modLaunch l.key fun l => { l with state := .bound, resume := true }

/-- The cores of a restored launch that a completed GYLE lets go: those of the image that had yet to issue it (05 R177, 17 R404). -/
def Launch.passingOn (l : Launch) (olds : List Core) (ids : List CoreId) : List CoreId :=
  (olds.zip ids).filterMap fun x => if x.1.atGyle && l.passing.contains x.1.id then some x.2 else none

/-- A task unit whose core an image holds, on the core of its pool that has its place; a bound one waits for its TASK_START. -/
def State.resumeUnit (s : State) (l : Launch) (old : Core) : Option State :=
  match old.resident, s.pool l with
  | some r, some p =>
    match p[r.row * (s.rootOf l).cols + r.col]? with
    | some id =>
      if s.coreClass l.record.use (s.coreAt id) = .member then
        let s := (((s.fixPool l).noteplaced l).restoreOnto l [old] [id] 0)
        let s := s.modLaunch l.key fun k => { k with passing := l.passingOn [old] [id] }
        some (if old.bound then s.modLaunch l.key fun l => { l with state := .bound, resume := false } else s.resumeOrHold l)
      else none
    | none => none
  | _, _ => none

/-- A gang whose cores an image holds, on a placement of the image's shape; the streams of its gang rows restart at their row points
(17 R389). On another variant of the shape it goes on in the copy in which its saved PCs lie, which is relocated for the new cores
(17 R414, 22 R471; DESIGN CHOICE, log entry 25). -/
def State.resumeGang (s : State) (l : Launch) (olds : List Core) : Option State :=
  match s.resumePlace l with
  | none => none
  | some scan =>
    let l := { l with
      members := scanMembers scan
      relays := if l.record.mode = 1 then scanRelays scan else []
      banks := if l.record.sbm = 0 then [] else s.dev.sbmBanks l.ctx
      passing := l.passingOn olds (scanMembers scan)
      halted := ((scanMembers scan).zip olds).filterMap fun x =>
        if x.2.ec.state = .running then none else some x.1 }
    let (id, s) := s.freshId
    let rows := l.gangRows id
    let s := s.modDev fun d => { d with fresh := d.fresh + rows.length, rows := d.rows ++ rows }
    let s := ((s.modLaunch l.key fun _ => l).holdCores l id).noteplaced l
    let s := (s.restoreOnto l olds l.members id).resumeOrHold l
    some (rows.foldl (fun (s : State) (r : Row) =>
      let p := s.rowPoint r
      let s := r.members.foldl (fun (s : State) m => s.modCore m fun c => c.setSkips p) s
      (s.alignRow r).restartRow r fun r => r) s)

/-- A launch whose cores an image holds is placed again and its cores are restored (17 R407, R414). A task launch of which no core
is left waits for its other units (14 R352). -/
def State.resumeLaunch (s : State) (l : Launch) (olds : List Core) : Option State :=
  if l.record.mode = 2 then
    match olds with
    | [old] => s.resumeUnit l old
    | _ => (s.pool l).map fun p => s.modLaunch l.key fun l => { l with state := .running, resume := false, members := p }
  else s.resumeGang l olds

/-- The saved cores of a launch in an image. -/
def Image.of (i : Image) (key : Nat) : List Core := (i.cores.filter fun k => decide (k.1 = key)).map Prod.snd

/-- A launch with the cores that its GYLE lets go as an image has them. -/
def Image.launchOf (i : Image) (l : Launch) : Launch :=
  match i.launches.find? fun o => decide (o.key = l.key) with
  | some o => { l with passing := o.passing }
  | none => l

/-- Every launch of an image restored, or none. -/
def State.resumeAll (i : Image) : List Launch → State → Option State
  | [], s => some s
  | l :: r, s =>
    match s.resumeLaunch (i.launchOf l) (i.of l.key) with
    | some s => State.resumeAll i r s
    | none => none

/-- The change of cores that the restoration of an image makes: each of its cores gives its place to the one that it is restored on, and
every other core of the pool of a task launch to the one that has its place in the pool now. -/
def State.coreMap (s : State) (i : Image) (ls : List Launch) : List (CoreId × CoreId) :=
  let now := fun l : Launch => (s.dev.launch l.key).getD l
  let own := ls.map fun l => ((i.of l.key).map Core.id).zip (s.coresFor (now l))
  let pools := (ls.filter fun l => decide (l.record.mode = 2) && l.root.isNone).map fun l =>
    ((i.launches.filter fun o => decide (o.key = l.key)).map Launch.members).flatten.zip (now l).members
  (own ++ pools).flatten

/-- The launches of an image restored together, or none of them. Whatever names a core of the image, in its copies, credits, nests, transfers
and stops, then names the core in its place; the credits and transfers that the image holds come back (17 R404, R414; DEDUCED, log
entries 19 and 25). -/
def State.resumeImage (s : State) (ctx : Nat) (i : Image) (ls : List Launch) : Option State :=
  (State.resumeAll i ls s).map fun s =>
    let m := s.coreMap i ls
    let mine := fun key : Nat => ls.any fun l => decide (l.key = key)
    let s := s.mapCores fun c => match c.resident with
      | some r => if mine r.launch then c.moved m else c
      | none => c
    let s := s.modCtx ctx fun c => { c with stops := c.stops.map fun o => { o with core := moved m o.core } }
    s.modDev fun d => { d with
      credits := d.credits ++ i.credits.map fun k => k.moved m
      transfers := (d.transfers.map fun t => if mine t.launch then t.moved m else t) ++ i.transfers.map fun t => t.moved m }

/-- The replies in the fault table are applied, each once: those of the table's entries in memory, or, where its pages give
none, those the device has kept (17 R397; DESIGN CHOICE, log entry 19). An entry with ACT 2 or 3 is discarded (R396). -/
def State.applyReplies (s : State) (ctx : Nat) (img : Image) (saved : Ctx) : State :=
  let kept := fun o : OpenStop => (saved.replies.find? fun p => decide (p.1 = o.fseq)).map Prod.snd
  let acts := saved.stops.map fun o =>
    (o.fseq, match s.dev.faultReply saved img o with | some r => r | none => kept o)
  let s := s.modCtx ctx fun c => { c with replies := [] }
  acts.foldl (fun (s : State) p =>
    match p.2, (s.dev.ctx ctx).bind fun x => x.stops.find? fun o => decide (o.fseq = p.1) with
    | some act, some o => if act ≤ 1 then s.reply ctx o (decide (act = 1)) else s
    | _, _ => s) s

/-- A launch that a rollback left with a gyle image, restored from it on a placement of the image's shape, if one is free now (17
R407): the units of a task launch together with it, once each of them is ready (DESIGN CHOICE, log entry 25). -/
def State.fromGyle (s : State) (l : Launch) : Option State :=
  match s.dev.ctx l.ctx with
  | none => none
  | some c =>
    match c.image with
    | some img =>
      let ls := s.dev.launches.filter fun o => decide (o.ctx = l.ctx ∧ o.rootKey = l.rootKey) && o.resume && img.holds o.key
      if ls.contains l && ls.all (fun o => decide (o.state = .ready)) && !s.dev.preempted l.ctx then
        s.resumeImage l.ctx (s.dev.readRecords (.log c.logbase.toNat) 0 img) ls
      else none
    | none => none

/-- Whether a launch that can be placed now, a candidate or one with a gyle image, has a lower priority number than `p` (14 R341). -/
def State.placesBefore (s : State) (p : Nat) : Bool :=
  (match s.level with | some q => decide (q < p) | none => false)
    || s.dev.launches.any fun l => (match s.dev.priority l with | some q => decide (q < p) | none => false) && (s.fromGyle l).isSome

/-- Whether launches that an image holds may be placed now: none of a lower priority number can be (14 R341, R358). A context goes on
as a whole, so that each of its launches must be next (DESIGN CHOICE, log entry 25). -/
def State.resumesNext (s : State) (ls : List Launch) : Bool :=
  ls.all fun l => match s.dev.priority l with | some p => !s.placesBefore p | none => false

/-- CONTEXT_RESUME: a pre-empted context goes on, a deep save on cores chosen anew, a lost one from its gyle; nothing
changes while its launches cannot be placed or are not next, while a seizure holds it frozen, and while its save area lies in a sleeping
SBM bank (17 R414–R417, 14 R341, 15 R361). -/
def execContextResume (ctx : Nat) (s : State) : Result :=
  .next <|
    match s.dev.ctx ctx with
    | none => s
    | some c =>
      match c.saved with
      | none => s
      | some img =>
        let ls := s.dev.launches.filter fun l => decide (l.ctx = ctx) && l.resume && img.holds l.key
        let size := 0x10000 + recordBytes * img.cores.length
        if s.dev.seizure.active ∧ s.dev.seizure.frozen.contains ctx then s
        else if !s.resumesNext ls || (!img.cores.isEmpty && s.dev.systemWaits c.savebase.toNat size .read) then s
        else
          let s1 := s.modCtx ctx fun c => { c with saved := none }
          let s1 := s1.modDev fun d => { d with idleVisits := 0 }
          let area : Area := .save c.savebase.toNat
          let read := s.dev.readRecords area 0x10000 img
          let s1 := s1.modDev fun d => if img.cores.isEmpty then d else
            d.touchSystem c.savebase.toNat size
          match s1.resumeImage ctx read ls with
          | some s2 => s2.applyReplies ctx img c
          | none => s

/-- A ready launch with a gyle image is placed in its turn: no other of a lower priority number can be, and a seizure does not keep
it waiting (14 R341, 17 R407, R416). -/
def State.resumeFromGyle (s : State) (l : Launch) : State :=
  match s.dev.priority l with
  | some p => if s.placesBefore p then s else (s.fromGyle l).getD s
  | none => s

/-! ## Seizure (17 R416, R417; 21 R464) -/

/-- The contexts of other jobs that are resident or have launches (17 R416). -/
def State.otherContexts (s : State) (job : Nat) : List Nat :=
  (s.dev.ctxs.filter fun c => decide (c.job ≠ job) &&
    (s.cores.any (fun k => decide (k.ctxId = c.id)) || c.placed)).map Ctx.id

/-- A seizure command acts on the device (17 R416). A context that was saved before it is frozen as it stands, and resumes with the others
at the release (R417). -/
def State.seizeFor (s : State) (job : Nat) : State :=
  if s.dev.seizure.active then s
  else
    let others := s.otherContexts job
    s.modDev fun d =>
      let d := { d with
        seizure := ⟨true, job, d.globalTime.toNat, others, false, false⟩
        idleVisits := 0
        jobs := d.jobs.map fun j => if j.id = job then { j with seizing := true } else j
        ctxs := d.ctxs.map fun c =>
          if others.contains c.id then { c with saved := c.saved.map fun i => { i with kind := 2 } } else c }
      others.foldl Device.requestPreempt d

/-! ### The freeze image (21 R464) -/

/-- The bytes of the SBM of a device. -/
def sbmBytes : Nat := 1152 * 2 ^ 18

/-- The SBM in a freeze image: die by die, bank by bank. -/
def denseSbm (m : Memory) : Memory :=
  ((List.range 4).map fun die =>
    (cutMem m (2 ^ 27 * die) (288 * 2 ^ 18)).map fun c => (288 * 2 ^ 18 * die + c.1, c.2)).flatten

/-- The SBM of those bytes. -/
def sparseSbm (m : Memory) : Memory :=
  m.map fun c => (c.1 / (288 * 2 ^ 18) * 2 ^ 27 + c.1 % (288 * 2 ^ 18), c.2)

/-- The HBM pages that a context maps: virtual address, entry, log2 of the page and frame; a metadata alias maps no bytes of its
own (19 R439). -/
def Device.frozenPages (d : Device) (ctx : Nat) : List (Nat × Dword × Nat × Home) :=
  match d.ctx ctx with
  | none => []
  | some c => (d.leaves c).filterMap fun x =>
    match leafHome x.2.1 x.2.2 (x.1 / 2 ^ x.2.2 * 2 ^ x.2.2) with
    | .hbm a z => some (x.1, x.2.1, x.2.2, .hbm a z)
    | _ => none

/-- The entries that point on the way to the mapping entry of a virtual address, from the root table on (19 R427). -/
def pointersTo (hbm : Memory) (va : Nat) : Levels → Nat → List Nat
  | [], _ => []
  | (lo, k, _, next) :: r, t =>
    let e : Dword := BitVec.ofNat 64 (readLE hbm (t + 8 * (va / 2 ^ lo % 2 ^ k)) 8)
    if ebits e 0 1 = 0 ∨ ebits e 1 1 = 1 ∨ next = 0 then [] else e.toNat :: pointersTo hbm va r (ebits e 7 42 * 2 ^ 7)

/-- The record of a page in a freeze image: its virtual address, its entry and the entries that point to it, up to three, each of 8
bytes (DESIGN CHOICE, log entry 19). -/
def frozenRecord (hbm : Memory) (ptroot : Dword) (va : Nat) (e : Dword) : List Byte :=
  bytesOf 8 va ++ bytesOf 8 e.toNat ++ ((pointersTo hbm va levels (ebits ptroot 19 30 * 2 ^ 19)).map (bytesOf 8)).flatten

/-- The part of a freeze image for one context, and where the next one lies: a directory entry of CTX, JOB, SAVEBASE, page count
and offset, each of 8 bytes, then a record per page (DESIGN CHOICE, log entry 19). -/
def Device.putFrozen (d : Device) (base off ctx : Nat) : Device × Nat :=
  match d.ctx ctx with
  | none => (d, off)
  | some c =>
    let pages := d.frozenPages ctx
    let entry := bytesOf 8 ctx ++ bytesOf 8 c.job ++ bytesOf 8 c.savebase.toNat ++ bytesOf 8 pages.length
      ++ bytesOf 8 (off + 64)
    let d := d.putSystem (base + off) 64 (ofBytes entry)
    pages.foldl (fun (x : Device × Nat) p =>
      let d := x.1.putSystem (base + x.2) 64 (ofBytes (frozenRecord x.1.hbm c.ptroot p.1 p.2.1))
      let n := 2 ^ p.2.2.1
      (d.putSystem (base + x.2 + 64) n (d.cut p.2.2.2 n), x.2 + 64 + n)) (d, off + 64)

/-- The freeze image of a device written at FREEZEBASE: header, SBM, and each frozen context. -/
def Device.putFreeze (d : Device) : Device :=
  let z := d.seizure
  let base := d.freezebase.toNat
  let head := bytesOf 4 0x5634465A ++ bytesOf 4 d.devnum.toNat ++ bytesOf 8 z.frozen.length ++ bytesOf 8 z.time
  let d := d.putSystem base 64 (ofBytes head)
  let d := d.putSystem (base + 64) sbmBytes (denseSbm d.sbm)
  (z.frozen.foldl (fun (x : Device × Nat) ctx => x.1.putFrozen base x.2 ctx) (d, 64 + sbmBytes)).1

/-- The entries of a virtual address put back into a tree, those that point from the root table on and then the mapping entry. -/
def putEntries (hbm : Memory) (va : Nat) : Levels → Nat → List Nat → Memory
  | [], _, _ => hbm
  | _, _, [] => hbm
  | (lo, k, _, _) :: r, t, e :: es =>
    putEntries (writeLE hbm (t + 8 * (va / 2 ^ lo % 2 ^ k)) 8 e) va r (ebits (BitVec.ofNat 64 e) 7 42 * 2 ^ 7) es

/-- A page of a freeze image put back: its entry in the context's tree with those that point to it, whatever stands there now, and
its bytes (17 R417, 21 R464, 19 R438). -/
def Device.thawPage (d : Device) (c : Ctx) (va : Nat) (e : Dword) (bits : Nat) (path : List Nat) (bytes : Option Memory) : Device :=
  let d := { d with hbm := putEntries d.hbm va levels (ebits c.ptroot 19 30 * 2 ^ 19) (path ++ [e.toNat]) }
  match bytes with
  | some m => d.put (leafHome e bits (va / 2 ^ bits * 2 ^ bits)) (2 ^ bits) m
  | none => d

/-- The log2 of the page of an entry (19 R426). -/
def pageBits (e : Dword) : Nat := match ebits e 49 2 with | 0 => 16 | 1 => 21 | 2 => 29 | _ => 33

/-- `n` pages of a context put back from a freeze image, from an offset on, and where the next part lies. -/
def Device.thawPages (c : Ctx) (base : Nat) : Nat → Device × Nat → Device × Nat
  | 0, x => x
  | n + 1, (d, off) =>
    match d.cutSystem (base + off) 64 with
    | none => (d, off)
    | some m =>
      let va := readLE m 0 8
      let e : Dword := BitVec.ofNat 64 (readLE m 8 8)
      let bits := pageBits e
      let path := ((List.range 3).map fun i => readLE m (16 + 8 * i) 8).takeWhile fun p => decide (p ≠ 0)
      let d' := d.thawPage c va e bits path (d.cutSystem (base + off + 64) (2 ^ bits))
      Device.thawPages c base n (d', off + 64 + 2 ^ bits)

/-- The part of a freeze image for one context put back. -/
def Device.thawContext (d : Device) (base off : Nat) : Device × Nat :=
  match d.cutSystem (base + off) 64 with
  | none => (d, off)
  | some m =>
    match d.ctx (readLE m 0 8) with
    | none => (d, off)
    | some c => Device.thawPages c base (readLE m 24 8) (d, off + 64)

/-- What a freeze image holds put back: SBM, entries and pages (17 R417, 21 R464). -/
def Device.takeFreeze (d : Device) : Device :=
  let base := d.freezebase.toNat
  let d := match d.cutSystem (base + 64) sbmBytes with
    | some m => { d with sbm := sparseSbm m }
    | none => d
  (d.seizure.frozen.foldl (fun (x : Device × Nat) _ => x.1.thawContext base x.2) (d, 64 + sbmBytes)).1

/-- A seizure ends: frozen memory is restored and its contexts can resume (17 R417). -/
def State.endSeizure (s : State) : State :=
  s.modDev fun d =>
    let job := d.seizure.job
    let d := d.takeFreeze
    { d with
      seizure := ⟨false, 0, 0, [], false, false⟩
      idleVisits := 0
      jobs := d.jobs.map fun j => if j.id = job then { j with seizing := false } else j }

/-- The bytes of the freeze image of a device. -/
def Device.freezeBytes (d : Device) : Nat :=
  64 + sbmBytes + (d.seizure.frozen.map fun ctx => 64 + ((d.frozenPages ctx).map fun p => 64 + 2 ^ p.2.2.1).sum).sum

/-- FREEZE_COMPLETE: every frozen context is saved or lost, and the freeze image is taken (17 R416, 21 R464), once the pages of
FREEZEBASE take the write (19 R436, 15 R361); a release that came before takes effect now. -/
def execFreezeComplete (s : State) : Result :=
  .next <|
    let z := s.dev.seizure
    let done := z.frozen.all fun ctx => match s.dev.ctx ctx with | some c => c.saved.isSome | none => true
    if !z.active || z.complete || !done || s.dev.systemWaits s.dev.freezebase.toNat s.dev.freezeBytes .write then s
    else
      let s := s.modDev fun d => { d.putFreeze with seizure := { z with complete := true } }
      if z.release then s.endSeizure else s

/-- A release: at once if the freeze is complete, else with its completion (17 R417). -/
def State.releaseSeizure (s : State) : State :=
  if !s.dev.seizure.active then s
  else if s.dev.seizure.complete then s.endSeizure
  else s.modDev fun d => { d with seizure := { d.seizure with release := true } }

/-- A seizure command or release of a job number (17 R416, R417; 21 R464). -/
def State.seizeWrite (s : State) (job : Nat) : State := if job = 0 then s.releaseSeizure else s.seizeFor job

/-- SEIZURE_RELEASE (17 R417). -/
def execSeizureRelease (s : State) : Result := .next s.releaseSeizure

/-- SEIZURE_COMMAND_ARRIVE (17 R416). -/
def execSeizureCommandArrive (job : Nat) (s : State) : Result := .next (s.seizeFor job)

/-- HOST_SEIZE_WRITE: a job to seize for; 0 releases (21 R460, R464). -/
def execHostSeizeWrite (v : Dword) (s : State) : Result :=
  .next (s.seizeWrite (v.toNat % 2 ^ 16))

/-- SEIZE: the command goes to every device of the pod; it reaches this one at the end of the ref cycle (05 R177, 17
R416, R417). The job is bits 15:0 of sA, the width of a job identifier (DESIGN CHOICE, log entry 42: 05 R177 names no bits). -/
def execSeize (a : SReg) (s : State) : Result :=
  s.word .c (.seize a) fun s => .ok (s.pushDue (.seize ((s.core.readS a).toNat % 2 ^ 16))) .seq

end Sys2Proof.Machine
end

