-- ==== Sys2Proof/Machine/Host.lean ====
section
/-! DEFINITION. The host: the queue blocks and registers of BAR0, the BAR2 window, device reset, and the invalidation of
translations (21 R459–R464; 19 R430–R436; 11 R320). -/

namespace Sys2Proof.Machine

/-! ## Tail pointers and queue control (21 R460–R462) -/

/-- SQTAIL of a queue. -/
def Device.setTail (d : Device) (q v : Nat) : Device := d.modQueue q fun x => { x with sqtail := v % 2 ^ (4 + x.sqs) }

/-- A tail-pointer write: ordered after every earlier host write, so it stands behind those that wait at the device (11
R320). -/
def State.writeTail (s : State) (q v : Nat) : State :=
  if s.dev.hostIf.parked.isEmpty then s.modDev fun d => d.setTail q v
  else s.modDev fun d => { d with hostIf := { d.hostIf with parked := d.hostIf.parked ++ [⟨0, 0, 0, 0, v, q, false, 0⟩] } }

/-- SQTAIL_WRITE (21 R461). -/
def execSqtailWrite (q : Fin 16) (v : BitVec 32) (s : State) : Result := .next (s.writeTail q.val v.toNat)

/-- QCTL: fields other than ENABLE are written only while ENABLE = 0; enabling the queue sets ACCEPTED_SEQ and
COMPLETED_SEQ to NEXTSEQ − 1 (21 R460, R462); CQS and SQS above 12 are kept as 12 (DEDUCED, log entry 26). -/
def Queue.control (x : Queue) (v : Nat) : Queue :=
  let on := v.testBit 31
  if x.enable then { x with enable := on }
  else
    let x := { x with
      devq := v.testBit 30
      sys := v.testBit 29
      job := v / 2 ^ 12 % 2 ^ 12
      cqs := min (v / 2 ^ 8 % 16) 12
      sqs := min (v / 2 ^ 4 % 16) 12
      enable := on }
    if on then
      let last := (x.nextSeq + (2 ^ 32 - 1)) % 2 ^ 32
      { x with acceptedSeq := last, completedSeq := last, doneSeqs := [] }
    else x

/-- A write of QCTL. -/
def State.writeQctl (s : State) (q v : Nat) : State :=
  s.modDev fun d => { d.modQueue q fun x => x.control v with idleVisits := 0 }

/-- QCTL_WRITE (21 R460, R462). -/
def execQctlWrite (q : Fin 16) (v : BitVec 32) (s : State) : Result := .next (s.writeQctl q.val v.toNat)

/-- CQHEAD of a queue, or ERRHEAD for ring 16. -/
def State.writeHead (s : State) (ring v : Nat) : State :=
  if ring < 16 then s.modDev fun d => d.modQueue ring fun x => { x with cqhead := v % x.ring }
  else s.modDev fun d => { d with hostIf := { d.hostIf with errhead := v % 256 } }

/-- HOST_RING_HEAD_WRITE (21 R461, 23 R485). -/
def execHostRingHeadWrite (ring : Fin 17) (v : BitVec 32) (s : State) : Result := .next (s.writeHead ring.val v.toNat)

/-! ## Device reset (21 R462; 23 R481, R483) -/

/-- The management core over a reset at a GLOBAL_TIME, which starts again at 0: its flash is kept, a staged firmware or image takes its
place, no error is lost, and the times of errors before the reset lie before 0 (15 R376; 23 R480–R483, R486). -/
def Mgmt.restart (m : Mgmt) (now : Nat) : Mgmt :=
  { Mgmt.reset with
    image := m.stagedImage.getD m.image
    version := match m.stagedImage with | some b => fld b 4 4 | none => m.version
    fence := m.fence
    firmware := m.stagedFirmware.getD m.firmware
    firmwareVersion := match m.stagedFirmware with | some b => fld b 4 4 | none => m.firmwareVersion
    errors := m.errors
    eccEvents := m.eccEvents.map fun e => (e.1, e.2 - (now : Int)) }

/-- DEVICE_RESET: the device is as after reset, every queue disabled; memory outside the cores and the module's flash
keep their bytes (21 R462, 23 R481; DEDUCED, log entry 18). -/
def execDeviceReset (s : State) : Result :=
  .next { State.reset with
    dev := { Device.reset with
      hbm := s.dev.hbm
      sbm := s.dev.sbm
      host := s.dev.host
      peer := s.dev.peer
      meta_ := s.dev.meta_
      agenda := s.dev.agenda
      fresh := s.dev.fresh
      draws := s.dev.draws
      devnum := s.dev.devnum
      mgmt := s.dev.mgmt.restart s.dev.globalTime.toNat } }

/-! ## The BAR2 window (21 R460, R461; 19 R430, R434, R436) -/

/-- A translation of a host access for the context of the window. -/
def State.hostTranslate (s : State) (ctx va : Nat) (kind : Kind) : Trans × State :=
  match s.dev.ctx ctx with
  | none => (.invalid, s)
  | some c =>
    let (t, tlb, hbm) := Machine.translate s.dev.hbm c.ptroot ctx s.dev.tlbHost 64 va kind
    (t, s.modDev fun d => { d with tlbHost := tlb, hbm := hbm })

/-- A window fault record in a queue (21 R461). -/
def State.windowFault (s : State) (ctx queue off : Nat) : State :=
  s.modDev fun d => d.report queue ⟨ctx, 0, 0, 3, 0, off, false, 0, 0⟩

/-- The units of a host access: itself if it is aligned, else its bytes (10 R299). -/
def hostUnits (va size : Nat) : List (Nat × Nat) :=
  if size = 0 then []
  else if (size = 1 ∨ size = 2 ∨ size = 4 ∨ size = 8) ∧ va % size = 0 then [(0, size)]
  else (List.range size).map fun i => (i, 1)

/-- What the units of a host read give: the value, a failure, or a wait at a sleeping bank. -/
def State.readWindow (s : State) (ctx va : Nat) : List (Nat × Nat) → Option (Option Nat) × State
  | [] => (some (some 0), s)
  | (i, n) :: r =>
    let (t, s) := s.hostTranslate ctx (va + i) .read
    match t with
    | .ok h _ =>
      if !s.dev.homeReady h then (none, s)
      else
        match s.readWindow ctx va r with
        | (some (some v), s) => (some (some (s.readHome 4096 h n * 256 ^ i + v)), s)
        | x => x
    | _ => (some none, s)

/-- The value that a host read gives. -/
def State.hostAnswer (s : State) (v : Nat) : State := s.modDev fun d =>
  { d with hostIf := { d.hostIf with lastRead := BitVec.ofNat 64 v, lastUnsupported := false } }

/-- A host read of BAR2: a translation that fails reads all ones and is recorded in HWCTX's queue, and one that reaches a sleeping
SBM bank waits there (19 R434, 15 R361). -/
def State.hostReadAt (s : State) (w : ParkedRead) : State :=
  match s.readWindow w.ctx w.va (hostUnits w.va w.size) with
  | (none, s) => s.modDev fun d => { d with hostIf := { d.hostIf with reads := d.hostIf.reads ++ [w] } }
  | (some (some v), s) => s.hostAnswer v
  | (some none, s) => (s.hostAnswer (2 ^ (8 * w.size) - 1)).windowFault w.ctx w.queue w.off

/-- HOST_WINDOW_READ: `size` bytes at an offset of BAR2 (21 R460, R461; 19 R434). -/
def execHostWindowRead (off : BitVec 36) (size : Fin 9) (s : State) : Result :=
  .next <|
    let ctx := s.dev.hostIf.hwctx % 4096
    let va := s.dev.hostIf.hwbase.toNat + off.toNat
    s.hostReadAt ⟨ctx, va, off.toNat, size.val, s.dev.hostIf.hwctx / 2 ^ 16 % 16⟩

/-- What becomes of a unit of a host write: performed, discarded, or kept waiting (19 R434, R436; 15 R361). -/
inductive HostUnit where
  | done
  | failed
  | waits (w : ParkedWrite)
  deriving DecidableEq, Repr

/-- The log2 of the page that the host window's translation just made gave (19 R430, R434). -/
def State.hostBits (s : State) (ctx va : Nat) : Nat :=
  match (s.dev.ctx ctx).map fun c => lookup s.dev.hbm c.ptroot ctx s.dev.tlbHost va with
  | some (.leaf _ pb _) => pb
  | _ => 16

/-- One unit of a host write. -/
def State.hostWriteUnit (s : State) (w : ParkedWrite) : HostUnit × State :=
  let (t, s) := s.hostTranslate w.ctx w.va .write
  match t with
  | .ok h _ => if s.dev.homeReady h then (.done, s.pokeHome h w.size w.v) else (.waits { w with parked := false }, s)
  | .parked => (.waits { w with parked := true, bits := s.hostBits w.ctx w.va }, s)
  | _ => (.failed, s)

/-- A unit of a host write that waits at the device. -/
def State.parkWrite (s : State) (w : ParkedWrite) : State :=
  s.modDev fun d => { d with hostIf := { d.hostIf with parked := d.hostIf.parked ++ [w] } }

/-- One unit of a host write after another, with the offset and the address of the last one discarded: a write has one record,
whose units stand at rising addresses (21 R461). -/
def State.hostUnitStep (x : State × Option (Nat × Nat)) (w : ParkedWrite) : State × Option (Nat × Nat) :=
  match x.1.hostWriteUnit w with
  | (.done, s) => (s, x.2)
  | (.waits w, s) => (s.parkWrite w, x.2)
  | (.failed, s) =>
    let again := match x.2 with | some (off, va) => decide (off = w.off ∧ va < w.va) | none => false
    (if again then s else s.windowFault w.ctx w.queue w.off, some (w.off, w.va))

/-- HOST_WINDOW_WRITE: `size` bytes at an offset of BAR2; one whose translation fails is discarded, one at a page being
moved is held at the device (21 R460; 19 R434, R436). -/
def execHostWindowWrite (off : BitVec 36) (size : Fin 9) (v : Dword) (s : State) : Result :=
  .next <|
    let ctx := s.dev.hostIf.hwctx % 4096
    let queue := s.dev.hostIf.hwctx / 2 ^ 16 % 16
    let va := s.dev.hostIf.hwbase.toNat + off.toNat
    let ws := (hostUnits va size.val).map fun u =>
      ({ ctx := ctx, va := va + u.1, off := off.toNat, size := u.2, v := v.toNat / 256 ^ u.1 % 256 ^ u.2, queue := queue,
         parked := false, bits := 16 } : ParkedWrite)
    (ws.foldl State.hostUnitStep (s, none)).1

/-- Host accesses that wait, tried again in order: writes to pages being moved where `moved` says so (19 R436), the others, which
wait at a sleeping SBM bank (15 R361), and reads; a tail-pointer write (size 0) comes once no earlier write waits (11 R320). -/
def State.retryParked (s : State) (moved : ParkedWrite → Bool) : State :=
  let all := s.dev.hostIf.parked
  let reads := s.dev.hostIf.reads
  let s := s.modDev fun d => { d with hostIf := { d.hostIf with parked := [], reads := [] } }
  let s := (all.foldl (fun (x : State × Option (Nat × Nat)) w =>
    if w.size = 0 then (x.1.writeTail w.queue w.v, none)
    else if w.parked && !moved w then (x.1.parkWrite w, x.2)
    else State.hostUnitStep x w) (s, none)).1
  reads.foldl State.hostReadAt s

/-- The host stores `size` bytes in its own memory (11 R320, R322). -/
def State.hostStore (s : State) (a size v : Nat) : State := s.modDev fun d => { d with host := writeLE d.host a size v }

/-- HOST_ATOMICOP: it completes with Unsupported Request and changes nothing else (21 R459). -/
def execHostAtomicop (off : BitVec 36) (v : Dword) (s : State) : Result :=
  .next <|
    let _ := (off, v)
    s.modDev fun d => { d with hostIf := { d.hostIf with lastUnsupported := true } }

/-! ## Ports and the time base (21 R459, R460, R463; 15 R376, R377) -/

/-- HOST_PORT_STATE_CHANGE: a PCIe port goes up or down, with its AtomicOp Requester Enable bit (21 R460, R463). -/
def execHostPortStateChange (port : Fin 2) (up atomics : Bool) (s : State) : Result :=
  .next (s.modDev fun d => { d with hostIf := { d.hostIf with
    portUp := vset d.hostIf.portUp port up, portAtomic := vset d.hostIf.portAtomic port atomics } })

/-- TIME_BASE_LOCK_CHANGE: TIMESTAT reports the lock and the offset (15 R377). -/
def execTimeBaseLockChange (locked : Bool) (offset : BitVec 32) (s : State) : Result :=
  .next (s.modDev fun d => { d with locked := locked, offset := offset })

/-! ## Invalidation of translations (19 R432, R433, R436) -/

/-- Whether a held translation is covered by an invalidation: its context's entries that map the page's address, of any
size; all of a context; all of the device. -/
def Inval.covers (i : Inval) (t : TlbEntry) : Bool :=
  match i.scope with
  | 0 => decide (t.ctx = i.ctx ∧ 2 ^ 16 * i.page / 2 ^ t.bits * 2 ^ t.bits = t.page)
  | 1 => decide (t.ctx = i.ctx)
  | _ => true

/-- Every covered translation dropped from every TLB of the device. -/
def State.dropCovered (s : State) (i : Inval) : State :=
  let keep := fun ts : List TlbEntry => ts.filter fun t => !i.covers t
  let drop := fun c : Core => { c with tlbC := keep c.tlbC, tlbA := keep c.tlbA, tlbX := keep c.tlbX }
  (s.mapCores drop).modDev fun d => { d with tlbHost := keep d.tlbHost, mgmt := { d.mgmt with core := drop d.mgmt.core } }

/-- An invalidation starts; one that comes while another is pending is discarded and sets DROP. -/
def State.invalidate (s : State) (scope ctx page : Nat) : State :=
  if s.dev.inval.pend then s.modDev fun d => { d with inval := { d.inval with drop := true } }
  else
    let i : Inval := ⟨s.dev.fresh, true, false, scope, page, ctx⟩
    (s.modDev fun d => { d with inval := i }).dropCovered i

/-- TLBINV, SCOPE 0 (19 R432). -/
def execTlbinvPage (ctx : BitVec 12) (page : BitVec 33) (s : State) : Result := .next (s.invalidate 0 ctx.toNat page.toNat)

/-- TLBINV, SCOPE 1 (19 R432). -/
def execTlbinvContext (ctx : BitVec 12) (s : State) : Result := .next (s.invalidate 1 ctx.toNat 0)

/-- TLBINV, SCOPE 2 (19 R432). -/
def execTlbinvDevice (s : State) : Result := .next (s.invalidate 2 0 0)

/-- Whether an invalidation covers the entry that a virtual address of a context was translated with: of SCOPE 0, the page is the
same, of the size 2^`bits` that the entry gave (19 R432). -/
def Inval.coversVa (i : Inval) (ctx va bits : Nat) : Bool :=
  match i.scope with
  | 0 => decide (i.ctx = ctx ∧ va / 2 ^ bits = 2 ^ 16 * i.page / 2 ^ bits)
  | 1 => decide (i.ctx = ctx)
  | _ => true

/-- Whether the core has an access translated with a covered entry before the invalidation began that has not performed (19
R432). A scale byte that has been read has performed. -/
def Inval.awaits (i : Inval) (c : Core) : Bool :=
  c.accesses.any fun a => decide (a.id < i.since) && a.units.any fun u =>
    (if u.got.isSome then { u with scale := none } else u).translated.any fun va =>
      a.pages.any fun p => decide (p.1 = va) && i.coversVa c.ctxId va p.2

/-- The parked accesses of a core to covered addresses translate again (19 R436). -/
def Core.unpark (c : Core) (covers : Nat → Nat → Bool) : Core :=
  let stop := fun t : Option Stop => match t with | some x => if x.parked && covers x.va x.bits then none else t | none => none
  let eng := fun x : Eng => match x.parked with | some p => if covers p.1 p.2 then { x with parked := none } else x | none => x
  { c with
    ec := eng c.ec
    ea := eng c.ea
    aHalt := stop c.aHalt
    xHalt := stop c.xHalt
    xc := { c.xc with
      walk := { c.xc.walk with stop := stop c.xc.walk.stop }
      copies := c.xc.copies.map fun k => { k with stop := stop k.stop } } }

/-- The parked hops of a transfer to covered addresses translate again (19 R436). -/
def Transfer.unpark (t : Transfer) (covers : Nat → Nat → Bool) : Transfer :=
  { t with hops := t.hops.map fun h => if h.parked.any fun p => covers p.1 p.2 then { h with parked := none } else h }

/-- TLBINV_COMPLETE: no TLB holds a covered entry and every access already translated with one has performed: PEND reads
0, and parked accesses to covered addresses translate again (19 R432, R436). -/
def execTlbinvComplete (s : State) : Result :=
  .next <|
    let i := s.dev.inval
    if !i.pend || (s.dev.mgmt.core :: s.cores).any i.awaits then s
    else
      let s := s.dropCovered i
      let s := s.modDev fun d => { d with
        inval := { d.inval with pend := false }, transfers := d.transfers.map fun t => t.unpark (i.coversVa t.ctx) }
      let s := s.mapCores fun c => c.unpark (i.coversVa c.ctxId)
      let s := s.modDev fun d => { d with mgmt := { d.mgmt with core := d.mgmt.core.unpark (i.coversVa d.mgmt.core.ctxId) } }
      s.retryParked fun w => i.coversVa w.ctx w.va w.bits

/-! ## BAR0 (21 R460, 23 R485) -/

/-- A write of a field of a queue block. -/
def State.writeQueueBlock (s : State) (q field v : Nat) : State :=
  let page := v / 2 ^ 12 % 2 ^ 52 * 2 ^ 12
  match field with
  | 0x00 => s.modDev fun d => d.modQueue q fun x => { x with sqbase := BitVec.ofNat 64 page }
  | 0x08 => s.modDev fun d => d.modQueue q fun x => { x with cqbase := BitVec.ofNat 64 page }
  | 0x10 => s.writeTail q (v % 2 ^ 32)
  | 0x18 => s.writeHead q (v % 2 ^ 32)
  | 0x28 => s.writeQctl q (v % 2 ^ 32)
  | 0x2C => s.modDev fun d => d.modQueue q fun x => if x.enable then x else { x with nextSeq := v % 2 ^ 32 }
  | _ => s

/-- A host write of a register of BAR0; one of a read-only register or of none is discarded. -/
def State.bar0Write (s : State) (off : Nat) (v : Dword) : State :=
  let mod := fun (f : HostIf → HostIf) => s.modDev fun d => { d with hostIf := f d.hostIf }
  if 0x1000 ≤ off ∧ off < 0x1400 then s.writeQueueBlock ((off - 0x1000) / 64) (off % 64) v.toNat
  else if 0x3000 ≤ off ∧ off < 0x3600 ∧ off % 8 = 0 then
    if v.getLsbD 0 then s.modDev fun d => { d with due := .clwake ((off - 0x3000) / 8) :: d.due } else s
  else if 0x10000 ≤ off ∧ off < 0x11200 ∧ off % 8 = 0 then
    s.atCore (CoreId.ofNumber ((off - 0x10000) / 8)) fun s => s.writeChainhead v
  else
    match off with
    | 0x2000 => s.seizeWrite (v.toNat % 2 ^ 16)
    | 0x2008 => mod fun h => { h with hwctx := v.toNat % 2 ^ 12 + v.toNat / 2 ^ 16 % 16 * 2 ^ 16 }
    | 0x2010 => mod fun h => { h with hwbase := keepBits v 36 13 }
    | 0x4000 => s.mbcmd v.toNat
    | 0x4008 => mod fun h => { h with mbarg := v }
    | 0x4020 => mod fun h => { h with errbase := keepBits v 12 52 }
    | 0x4028 => s.writeHead 16 v.toNat
    | _ => s

/-- A field of a queue block as the host reads it. -/
def Queue.field (x : Queue) (field : Nat) : Nat :=
  match field with
  | 0x00 => x.sqbase.toNat
  | 0x08 => x.cqbase.toNat
  | 0x10 => x.sqtail
  | 0x14 => x.sqhead
  | 0x18 => x.cqhead
  | 0x1C => x.cqtail
  | 0x20 => x.acceptedSeq
  | 0x24 => x.completedSeq
  | 0x28 => 2 ^ 31 * bit x.enable + 2 ^ 30 * bit x.devq + 2 ^ 29 * bit x.sys + 2 ^ 12 * x.job + 2 ^ 8 * x.cqs + 2 ^ 4 * x.sqs
  | 0x2C => x.nextSeq
  | _ => 0

/-- ATOMCAP (21 R460). -/
def HostIf.atomcap (h : HostIf) : Nat :=
  bit (vget h.portUp 0 false && vget h.portAtomic 0 false) + 2 * bit (vget h.portUp 1 false && vget h.portAtomic 1 false)

/-- MBSTAT (23 R485). -/
def Mgmt.mbstat (m : Mgmt) : Nat := bit m.command.isSome + 256 * m.result

/-- A register of BAR0 as the host reads it; write-only registers and none read zero. -/
def State.bar0Read (s : State) (off : Nat) : Nat :=
  let h := s.dev.hostIf
  if 0x1000 ≤ off ∧ off < 0x1400 then (s.dev.queue ((off - 0x1000) / 64)).field (off % 64)
  else if 0x3000 ≤ off ∧ off < 0x3600 ∧ off % 8 = 0 then bit (s.dev.cluster ((off - 0x3000) / 8)).wake
  else if 0x10000 ≤ off ∧ off < 0x11200 ∧ off % 8 = 0 then
    (s.coreAt (CoreId.ofNumber ((off - 0x10000) / 8))).xc.chainhead.toNat
  else
    match off with
    | 0x0 => s.dev.devnum.toNat + 2 ^ 16 * 0x0451
    | 0x2008 => h.hwctx
    | 0x2010 => h.hwbase.toNat
    | 0x2018 => h.atomcap
    | 0x4008 => h.mbarg.toNat
    | 0x4010 => s.dev.mgmt.mbstat
    | 0x4020 => h.errbase.toNat
    | 0x4028 => h.errhead + 2 ^ 16 * h.errtail
    | _ => 0

/-- A host read of BAR0. -/
def State.hostRead (s : State) (off : Nat) : State :=
  let v : Dword := BitVec.ofNat 64 (s.bar0Read off)
  s.modDev fun d => { d with hostIf := { d.hostIf with lastRead := v, lastUnsupported := false } }

end Sys2Proof.Machine
end

