-- ==== Sys2Proof/Machine/Alu.lean ====
section
/-! DEFINITION. The integer, logic, compare and constant words of the C stream (05 R153–R155). -/

namespace Sys2Proof.Machine

/-- A C word whose only effect is a scalar result at a fixed latency (05 R149). -/
def State.scalar (s : State) (i : Instr) (d : SReg) (v : Dword) (lat : Nat) : Result :=
  s.word .c i fun s => .ok (s.landS d v lat) .seq

/-- A C word whose only effect is a predicate at latency 1 (05 R153). -/
def State.predicate (s : State) (i : Instr) (q : QReg) (v : Bool) : Result :=
  s.word .c i fun s => .ok (s.modFocus fun c => c.land .c (.pred q) (.word (if v then 1 else 0)) 1) .seq

/-- Leading zeros; 64 of zero (05 R153). -/
def clz64 (a : Dword) : Dword := if a = 0 then 64 else BitVec.ofNat 64 (63 - Nat.log2 a.toNat)

/-- The number of set bits (05 R153). -/
def popc64 (a : Dword) : Dword := BitVec.ofNat 64 ((List.range 64).countP fun i => a.getLsbD i)

/-- The upper half of the signed product (05 R153). -/
def mulh64 (a b : Dword) : Dword := BitVec.ofInt 64 (a.toInt * b.toInt / 2 ^ 64)

/-- The upper half of the unsigned product (05 R153). -/
def mulhu64 (a b : Dword) : Dword := BitVec.ofNat 64 (a.toNat * b.toNat / 2 ^ 64)

/-- Signed division; by zero all ones (05 R153). -/
def div64 (a b : Dword) : Dword := if b = 0 then BitVec.allOnes 64 else a.sdiv b

/-- Unsigned division; by zero all ones (05 R153). -/
def divu64 (a b : Dword) : Dword := if b = 0 then BitVec.allOnes 64 else a / b

/-- Signed remainder; by zero the dividend (05 R153). -/
def rem64 (a b : Dword) : Dword := if b = 0 then a else a.srem b

/-- Unsigned remainder; by zero the dividend (05 R153). -/
def remu64 (a b : Dword) : Dword := if b = 0 then a else a % b

/-- ADD (05 R153). -/
def execAdd (d a b : SReg) (s : State) : Result := s.scalar (.add d a b) d (s.core.readS a + s.core.readS b) 1

/-- SUB (05 R153). -/
def execSub (d a b : SReg) (s : State) : Result := s.scalar (.sub d a b) d (s.core.readS a - s.core.readS b) 1

/-- AND (05 R153). -/
def execAnd (d a b : SReg) (s : State) : Result := s.scalar (.and d a b) d (s.core.readS a &&& s.core.readS b) 1

/-- OR (05 R153). -/
def execOr (d a b : SReg) (s : State) : Result := s.scalar (.or d a b) d (s.core.readS a ||| s.core.readS b) 1

/-- XOR (05 R153). -/
def execXor (d a b : SReg) (s : State) : Result := s.scalar (.xor d a b) d (s.core.readS a ^^^ s.core.readS b) 1

/-- SLL by b[5:0] (05 R153). -/
def execSll (d a b : SReg) (s : State) : Result :=
  s.scalar (.sll d a b) d (s.core.readS a <<< ((s.core.readS b).toNat % 64)) 1

/-- SRL by b[5:0] (05 R153). -/
def execSrl (d a b : SReg) (s : State) : Result :=
  s.scalar (.srl d a b) d (s.core.readS a >>> ((s.core.readS b).toNat % 64)) 1

/-- SRA by b[5:0] (05 R153). -/
def execSra (d a b : SReg) (s : State) : Result :=
  s.scalar (.sra d a b) d ((s.core.readS a).sshiftRight ((s.core.readS b).toNat % 64)) 1

/-- MIN, signed (05 R153). -/
def execMin (d a b : SReg) (s : State) : Result :=
  s.scalar (.min d a b) d (if (s.core.readS b).slt (s.core.readS a) then s.core.readS b else s.core.readS a) 1

/-- MAX, signed (05 R153). -/
def execMax (d a b : SReg) (s : State) : Result :=
  s.scalar (.max d a b) d (if (s.core.readS a).slt (s.core.readS b) then s.core.readS b else s.core.readS a) 1

/-- MINU, unsigned (05 R153). -/
def execMinu (d a b : SReg) (s : State) : Result :=
  s.scalar (.minu d a b) d (if (s.core.readS b).ult (s.core.readS a) then s.core.readS b else s.core.readS a) 1

/-- MAXU, unsigned (05 R153). -/
def execMaxu (d a b : SReg) (s : State) : Result :=
  s.scalar (.maxu d a b) d (if (s.core.readS a).ult (s.core.readS b) then s.core.readS b else s.core.readS a) 1

/-- CLZ (05 R153). -/
def execClz (d a : SReg) (s : State) : Result := s.scalar (.clz d a) d (clz64 (s.core.readS a)) 1

/-- POPC (05 R153). -/
def execPopc (d a : SReg) (s : State) : Result := s.scalar (.popc d a) d (popc64 (s.core.readS a)) 1

/-- MUL, latency 3 (05 R153). -/
def execMul (d a b : SReg) (s : State) : Result := s.scalar (.mul d a b) d (s.core.readS a * s.core.readS b) 3

/-- MULH, latency 3 (05 R153). -/
def execMulh (d a b : SReg) (s : State) : Result :=
  s.scalar (.mulh d a b) d (mulh64 (s.core.readS a) (s.core.readS b)) 3

/-- MULHU, latency 3 (05 R153). -/
def execMulhu (d a b : SReg) (s : State) : Result :=
  s.scalar (.mulhu d a b) d (mulhu64 (s.core.readS a) (s.core.readS b)) 3

/-- DIV, latency 18 (05 R153). -/
def execDiv (d a b : SReg) (s : State) : Result :=
  s.scalar (.div d a b) d (div64 (s.core.readS a) (s.core.readS b)) 18

/-- DIVU, latency 18 (05 R153). -/
def execDivu (d a b : SReg) (s : State) : Result :=
  s.scalar (.divu d a b) d (divu64 (s.core.readS a) (s.core.readS b)) 18

/-- REM, latency 18 (05 R153). -/
def execRem (d a b : SReg) (s : State) : Result :=
  s.scalar (.rem d a b) d (rem64 (s.core.readS a) (s.core.readS b)) 18

/-- REMU, latency 18 (05 R153). -/
def execRemu (d a b : SReg) (s : State) : Result :=
  s.scalar (.remu d a b) d (remu64 (s.core.readS a) (s.core.readS b)) 18

/-- CMP.EQ (05 R153). -/
def execCmpEq (d : QReg) (a b : SReg) (s : State) : Result :=
  s.predicate (.cmpEq d a b) d (decide (s.core.readS a = s.core.readS b))

/-- CMP.NE (05 R153). -/
def execCmpNe (d : QReg) (a b : SReg) (s : State) : Result :=
  s.predicate (.cmpNe d a b) d (decide (s.core.readS a ≠ s.core.readS b))

/-- CMP.LT, signed (05 R153). -/
def execCmpLt (d : QReg) (a b : SReg) (s : State) : Result :=
  s.predicate (.cmpLt d a b) d ((s.core.readS a).slt (s.core.readS b))

/-- CMP.LTU, unsigned (05 R153). -/
def execCmpLtu (d : QReg) (a b : SReg) (s : State) : Result :=
  s.predicate (.cmpLtu d a b) d ((s.core.readS a).ult (s.core.readS b))

/-- CMP.GE, signed (05 R153). -/
def execCmpGe (d : QReg) (a b : SReg) (s : State) : Result :=
  s.predicate (.cmpGe d a b) d (!(s.core.readS a).slt (s.core.readS b))

/-- CMP.GEU, unsigned (05 R153). -/
def execCmpGeu (d : QReg) (a b : SReg) (s : State) : Result :=
  s.predicate (.cmpGeu d a b) d (!(s.core.readS a).ult (s.core.readS b))

/-- SEL (05 R153). -/
def execSel (d : SReg) (q : QReg) (a b : SReg) (s : State) : Result :=
  s.scalar (.sel d q a b) d (if s.readQ q then s.core.readS a else s.core.readS b) 1

/-- ADDI (05 R154). -/
def execAddi (d a : SReg) (imm : BitVec 12) (s : State) : Result :=
  s.scalar (.addi d a imm) d (s.core.readS a + imm.signExtend 64) 1

/-- ANDI (05 R154). -/
def execAndi (d a : SReg) (imm : BitVec 12) (s : State) : Result :=
  s.scalar (.andi d a imm) d (s.core.readS a &&& imm.signExtend 64) 1

/-- ORI (05 R154). -/
def execOri (d a : SReg) (imm : BitVec 12) (s : State) : Result :=
  s.scalar (.ori d a imm) d (s.core.readS a ||| imm.signExtend 64) 1

/-- XORI (05 R154). -/
def execXori (d a : SReg) (imm : BitVec 12) (s : State) : Result :=
  s.scalar (.xori d a imm) d (s.core.readS a ^^^ imm.signExtend 64) 1

/-- SLLI (05 R154). -/
def execSlli (d a : SReg) (sh : Fin 64) (s : State) : Result :=
  s.scalar (.slli d a sh) d (s.core.readS a <<< sh.val) 1

/-- SRLI (05 R154). -/
def execSrli (d a : SReg) (sh : Fin 64) (s : State) : Result :=
  s.scalar (.srli d a sh) d (s.core.readS a >>> sh.val) 1

/-- SRAI (05 R154). -/
def execSrai (d a : SReg) (sh : Fin 64) (s : State) : Result :=
  s.scalar (.srai d a sh) d ((s.core.readS a).sshiftRight sh.val) 1

/-- LI (05 R155). -/
def execLi (d : SReg) (imm : BitVec 18) (s : State) : Result := s.scalar (.li d imm) d (imm.signExtend 64) 1

/-- LUI: sD read at issue (05 R155). -/
def execLui (d : SReg) (imm : BitVec 18) (s : State) : Result :=
  s.scalar (.lui d imm) d ((s.core.readS d <<< 18) ||| imm.zeroExtend 64) 1

end Sys2Proof.Machine
end

