-- ==== Sys2Proof/Machine/CFlow.lean ====
section
/-! DEFINITION. Control flow of the C stream, its engines and word registers (05 R164–R168, R176). -/

namespace Sys2Proof.Machine

/-- The target of a branch or jump: the address of the word + 4 × OFF (03 R106, 05 R164). -/
def State.target (s : State) (off : Dword) : Dword := s.core.ec.pc + 4 * off

/-- BR (05 R164). -/
def execBr (q : QReg) (off : BitVec 20) (s : State) : Result :=
  s.word .c (.br q off) fun s => .ok s (.transfer (if s.readQ q then some (s.target (off.signExtend 64)) else none))

/-- BRN (05 R164). -/
def execBrn (q : QReg) (off : BitVec 20) (s : State) : Result :=
  s.word .c (.brn q off) fun s => .ok s (.transfer (if s.readQ q then none else some (s.target (off.signExtend 64))))

/-- JMP (05 R164). -/
def execJmp (imm : BitVec 18) (s : State) : Result :=
  s.word .c (.jmp imm) fun s => .ok s (.transfer (some (s.target (imm.signExtend 64))))

/-- CALL: s63 receives the address of CALL + 8 at latency 1 (05 R164). -/
def execCall (imm : BitVec 18) (s : State) : Result :=
  s.word .c (.call imm) fun s => .ok (s.landS 63 (s.core.ec.pc + 8) 1) (.transfer (some (s.target (imm.signExtend 64))))

/-- CALLI: sA is read at issue (05 R164). -/
def execCalli (a : SReg) (s : State) : Result :=
  s.word .c (.calli a) fun s => .ok (s.landS 63 (s.core.ec.pc + 8) 1) (.transfer (some (s.core.readS a)))

/-- RET (05 R164). -/
def execRet (s : State) : Result := s.word .c .ret fun s => .ok s (.transfer (some (s.core.readS 63)))

/-- LOOP (05 R165). -/
def execLoop (cnt : SReg) (lvl : Fin 4) (len : BitVec 16) (s : State) : Result :=
  s.word .c (.loop cnt lvl len) fun s => s.startLoop .c lvl len.toNat (s.core.readS cnt).toNat

/-- The engines of a FORK or RENDEZ field (05 R166). -/
def forkSet (m : BitVec 4) : List Engine :=
  (if m.getLsbD 0 then [.a] else []) ++ (if m.getLsbD 1 then [.v] else []) ++ (if m.getLsbD 2 then [.m] else [])
    ++ (if m.getLsbD 3 then [.x] else [])

/-- The engines started at their entries s(OPA + j), each from its next cycle on (01 R34, 05 R166). -/
def startEngines (a : Nat) : Nat → List Engine → Core → Core
  | _, [], c => c
  | j, e :: r, c =>
    let entry := c.readS (Fin.ofNat 64 (a + j))
    startEngines a (j + 1) r (c.modEng e fun x => { x with state := .running, pc := entry, used := true, hold := none })

/-- FORK: holds until every named engine is Idle, then checks their domains (01 R34, 05 R166). -/
def execFork (es : BitVec 4) (a : SReg) (s : State) : Result :=
  s.word .c (.fork es a) fun s =>
    let set := forkSet es
    if set.any fun e => decide ((s.core.eng e).state ≠ .idle) then .hold s plainHold
    else
      match needDoms s.core (set.filterMap fun e => e.dom?) with
      | some f => .fault s f
      | none => .ok (s.modFocus fun c => startEngines a.val 0 set c) .seq

/-- RENDEZ: holds until each named engine is Joined or Idle, then sets each to Idle (01 R35, 05 R167). The producer of its hold is the
lowest-numbered named engine that is to become Joined, Running or Joining: an Idle one, for which it does not hold, is passed over (05
R167, 17 R398; DEDUCED, log entry 42). -/
def execRendez (es : BitVec 4) (stall : Stall) (s : State) : Result :=
  s.word .c (.rendez es stall) fun s =>
    let set := forkSet es
    match set.find? fun e => decide ((s.core.eng e).state = .running ∨ (s.core.eng e).state = .joining) with
    | some e => .hold s (mkHold 0xC0 (some e) (stallBound stall))
    | none => .ok (s.modFocus fun c => set.foldl (fun c e => c.modEng e fun x => { x with state := .idle }) c) .seq

/-- WPUT (05 R168). -/
def execWput (w : WNo) (a : SReg) (stall : Stall) (s : State) : Result :=
  s.word .c (.wput w a stall) fun s => s.putWord .c w (s.core.readS a) stall

/-- WGET, latency 1 (05 R168). -/
def execWget (d : SReg) (w : WNo) (stall : Stall) (s : State) : Result :=
  s.word .c (.wget d w stall) fun s => s.takeWord .c w false (stallBound stall) fun v s => .ok (s.landS d v 1) .seq

/-- NOP (05 R177). -/
def execNop (s : State) : Result := s.word .c .nop fun s => .ok s .seq

/-- TRAP raises *software trap* with DETAIL = code (05 R176). -/
def execTrap (code : Fin 64) (s : State) : Result := s.word .c (.trap code) fun s => .fault s (mkFault 0x17 code.val 0 0)

end Sys2Proof.Machine
end

