-- ==== Sys2Proof/Machine/Links.lean ====
section
/-! DEFINITION. Multicast packets at the routers of the dies, the hops of a communication step, link ports and
bridges (21 R445, R450–R457; 15 R361; 23 R486). -/

namespace Sys2Proof.Machine

/-! ## Routers (21 R445, R446) -/

/-- The router of a core: 12 × quadrant + its index there (21 R445, 16 R385). -/
def routerOf (id : CoreId) : Nat := 12 * (2 * (id.row / 4) + id.col / 9) + 3 * (id.row % 4) + id.col % 9 / 3

/-- The core at cluster position `p` of a router. -/
def routerCore (die router p : Nat) : CoreId :=
  let q := router / 12
  let i := router % 12
  ⟨die, 4 * (q / 2) + i / 3, 9 * (q % 2) + 3 * (i % 3) + p⟩

/-- The `j`-th number below 4 other than `q`, in ascending order. -/
def otherOf (q j : Nat) : Nat := if j < q then j else j + 1

/-- The place of `q` among the numbers below 4 other than `r`. -/
def placeAmong (r q : Nat) : Nat := if q < r then q else q - 1

/-- The routers that an entry's egresses lead to from a router, as die and router (21 R445, R451). -/
def egresses (entry : BitVec 22) (die router : Nat) : List (Nat × Nat) :=
  let q := router / 12
  let i := router % 12
  let rtr := ((List.range 12).filter fun k => entry.getLsbD (4 + k) && decide (k ≠ i)).map fun k => (die, 12 * q + k)
  let lnk := ((List.range 3).filter fun j => entry.getLsbD (16 + j) && decide (i = 9 + j)).map fun j =>
    (die, 12 * otherOf q j + 9 + placeAmong (otherOf q j) q)
  let brg := ((List.range 3).filter fun j => entry.getLsbD (19 + j) && decide (i = 8 ∧ q = j)).map fun j =>
    (otherOf die j, 12 * placeAmong (otherOf die j) die + 8)
  rtr ++ lnk ++ brg

/-- The scratchpad bytes of a copy delivered to a core: only if the core holds the sending context, with the banks
Awake (21 R451, 10 R289; DEDUCED, log entry 27). -/
def Core.deliver (c : Core) (p : Packet) : Core :=
  let n := p.bytes.length
  let awake := (List.range n).all fun i => c.awake (bankDom (p.off + i))
  if c.resident.isSome && decide (c.ctxId = p.ctx) && awake && decide (p.off + n ≤ 2 ^ 21) then
    { c with mem := { c.mem with spad := writeBytes c.mem.spad p.off p.bytes } }
  else c

/-- MULTICAST_COPY: the `k`-th packet leaves its router: one copy onto each egress that the entry of its group names;
a copy that would enter its ninth router is discarded and LOOP of the die is set (21 R451, R452). -/
def execMulticastCopy (k : Nat) (s : State) : Result :=
  .next <|
    match s.dev.packets[k]? with
    | none => s
    | some p =>
      if p.fresh then s
      else
      let entry := if p.group = 0 then 0 else spGet s.dev.mcg (256 * (48 * p.die + p.router) + p.group)
      let ways := egresses entry p.die p.router
      let copies := ways.map fun w => { p with fresh := true, die := w.1, router := w.2, passed := p.passed + 1 }
      let ids := ((List.range 3).filter fun i => entry.getLsbD i).map fun i => routerCore p.die p.router i
      let s := ids.foldl (fun (s : State) id => s.modCore id fun c => c.deliver p) s
      s.modDev fun d =>
        let rest := d.packets.eraseIdx k
        if 8 ≤ p.passed then
          { d with
            packets := rest
            mcgLoop := if ways.isEmpty then d.mcgLoop else d.mcgLoop ||| BitVec.ofNat 4 (2 ^ p.die) }
        else { d with packets := rest ++ copies }

/-! ## Hops (21 R453, R456) -/

/-- What a run of accesses of a hop comes to; a write that parks says at which virtual address, with the log2 of its page (19 R436). -/
inductive HopOut where
  | ok
  | wait
  | parked (va bits : Nat)
  | failed
  deriving DecidableEq, Repr

/-- The homes of `n` elements of `size` bytes from an address on, up to the first that cannot be reached; a write to a page being moved
parks (19 R436). -/
def State.homesRun (size : Nat) (kind : Kind) : Nat → Dword → State → HopOut × List Home × State
  | 0, _, s => (.ok, [], s)
  | n + 1, ea, s =>
    let (r, s) := s.reachEa ea none kind
    match r with
    | .home h =>
      let (o, hs, s) := State.homesRun size kind n (ea + BitVec.ofNat 64 size) s
      (o, h :: hs, s)
    | .wait => (.wait, [], s)
    | .stop true _ va => (.parked va (s.pageBits .x va), [], s)
    | _ => (.failed, [], s)

/-- `n` elements of `size` bytes read from an address on. -/
def State.readRun (size n : Nat) (ea : Dword) (s : State) : HopOut × List Nat × State :=
  let (o, hs, s) := State.homesRun size .read n ea s
  (o, hs.map fun h => s.readHome s.core.ctxId h size, s)

/-- Elements of `size` bytes written from an address on: none of them while one has to wait or parks, and those before one that cannot
be reached are final (21 R456). -/
def State.writeRun (size : Nat) (vs : List Nat) (ea : Dword) (s : State) : HopOut × State :=
  let (o, hs, s) := State.homesRun size .write vs.length ea s
  match o with
  | .wait | .parked _ _ => (o, s)
  | _ => (o, (hs.zip vs).foldl (fun (s : State) x => s.writeHome s.core.ctxId x.1 size x.2) s)

/-- The type of an element type code of a hop (21 R455, 03 R104). -/
def hopTy (code : Nat) : Ty := match code with | 2 => .bf16 | 3 => .e4m3 | 5 => .t8 | _ => .f32

/-- The elements a hop sends or writes: widened, added to the local ones, rounded to FOUT (21 R456). -/
def Hop.results (h : Hop) (xs local_ : List Nat) : List Nat :=
  let fin := hopTy h.fin
  let fout := hopTy h.fout
  let seed : Word32 := if h.seed = 0 then 1 else BitVec.ofNat 32 h.seed
  let gens := genRuns seed ((xs.length + 127) / 128)
  let wide := fun c => (decodeFp fin c).quiet
  (List.range xs.length).map fun e =>
    let x := wide (xs.getD e 0)
    let x := if h.act = 1 then
        decodeFp .f32 (roundFp .f32 .rne (numAdd false x (wide (local_.getD e 0))).1).1
      else x
    let mode : Mode1 := if h.rm = 5 then srMode (gens.getD (e / 128) 0) e fout else .rne
    (encodeFp fout mode true x).1

/-- The later of two blocks by the slot from which they are usable, the second where they do not differ. -/
def laterBlock (a b : Block) : Block := if b.usable.getD 0 < a.usable.getD 0 then a else b

/-- The block that arrives on its port for a hop of `n` bytes, usable by its first slot (21 R453, R456): the one that its sender ended in
the slot that the program gives, or, where the program has no sender of it, the latest (DESIGN CHOICE, log entry 27). -/
def Device.blockFor (d : Device) (h : Hop) (first n : Nat) : Option Block :=
  let fits := d.blocks.filter fun b => decide (b.port = h.inp ∧ n ≤ b.bytes.length) && b.usable.any fun u => decide (u ≤ first)
  match h.sender, fits with
  | some k, _ => fits.find? fun b => decide (b.sent = some k)
  | none, b :: r => some (r.foldl laterBlock b)
  | none, [] => none

/-- `n` numbers of `size` bytes each. -/
def splitBytes (size : Nat) (b : List Byte) (n : Nat) : List Nat := (List.range n).map fun i => fld b (size * i) size

/-- A block sent on a port, its last flit in slot `last`: a port wired to this device brings it back; what another device does with it is
not part of this one. -/
def Device.send (d : Device) (port last : Nat) (bytes : List Byte) : Device :=
  let p := vget d.ports port ⟨false, true, 0, 0⟩
  let awake := (vget d.ports p.pport.toNat ⟨false, true, 0, 0⟩).awake
  let block : Block := ⟨p.pport.toNat, if awake then some (last + 2) else none, some last, bytes⟩
  if p.peer = d.devnum then { d with blocks := d.blocks ++ [block] } else d

/-- One hop of a transfer on its core, in its first slot (21 R456). A transfer to a sleeping port is held (15 R361). The hop takes its
block whole, and reads and writes its elements, at one instant (DESIGN CHOICE, log entry 44). -/
def State.hop (s : State) (t : Transfer) (h : Hop) : HopOut × State :=
  let si := hopSize h.fin
  let so := hopSize h.fout
  let n := t.len / si
  let (first, slots) := h.slots t.len t.slot
  let (o, mine, s) : HopOut × List Nat × State :=
    if h.inp = 31 ∨ h.act = 1 then State.readRun si n t.src s else (.ok, [], s)
  let block := if h.inp = 31 then none else s.dev.blockFor h first (n * si)
  let port := vget s.dev.ports h.out ⟨false, true, 0, 0⟩
  let asleep := decide (h.out ≤ 17) && !(port.up && port.awake)
  let came : Bool := decide (h.inp = 31) || block.isSome
  match o with
  | .wait | .parked _ _ => (o, s)
  | .failed => (.failed, s)
  | .ok =>
    if !came then (.failed, s)
    else if asleep then (.wait, s)
    else
      let xs := match block with
        | some b => splitBytes si b.bytes n
        | none => mine
      let ys := h.results xs mine
      let bytes := (ys.map fun y => bytesOf so y).flatten
      if h.out = 31 then State.writeRun so ys t.dst s
      else if h.out = 30 then
        match classify t.dst with
        | .spad _ off =>
          let p : Packet := ⟨true, t.core.die, routerOf t.core, h.group, 1, t.ctx, t.launch, off, bytes⟩
          (.ok, s.modDev fun d => { d with packets := d.packets ++ [p] })
        | _ => (.failed, s)
      else (.ok, s.modDev fun d => d.send h.out (first + slots - 1) bytes)

/-- The `k`-th transfer changed. -/
def State.modTransfer (s : State) (k : Nat) (f : Transfer → Transfer) : State :=
  s.modDev fun d =>
    let one := fun i : Nat => d.transfers[i]?.map fun t => if i = k then f t else t
    { d with transfers := (List.range d.transfers.length).filterMap one }

/-- One hop of the `k`-th transfer is performed on its core; one that cannot finish is given up (21 R456), and one that parks stays until
an invalidation completes (19 R436). -/
def State.linkHop (s : State) (k : Nat) (t : Transfer) (h : Hop) : State :=
  s.atCore t.core fun s =>
    match s.hop t h with
    | (.ok, s) => s.modTransfer k fun t => { t with hops := t.hops.erase h }
    | (.failed, s) => s.modTransfer k fun t => { t with hops := t.hops.erase h, failed := true }
    | (.parked va bits, s) => s.modTransfer k fun t => { t with
        hops := t.hops.map fun g => if g = h then { g with parked := some (va, bits) } else g }
    | (.wait, s) => s

/-- LINK_HOP: every hop of a running communication step whose slot has begun (14 R353; 21 R453, R456). -/
def State.linkStep (s : State) : State :=
  let now := s.dev.nextTime
  (List.range s.dev.transfers.length).foldl (fun (s : State) k =>
    match s.dev.transfers[k]? with
    | none => s
    | some t =>
      match s.dev.launch t.launch with
      | none => s
      | some l =>
        match l.commStart with
        | none => s
        | some b =>
          if !t.carried then s
          else
            (t.hops.filter fun h => h.parked.isNone && decide (b + 64 * (t.slot + h.soff) ≤ now)).foldl
              (fun (s : State) h => match s.dev.transfers[k]? with | some t => s.linkHop k t h | none => s) s) s

/-! ## What comes from the other devices of the pod (21 R453; 17 R401, R408) -/

/-- The slot that runs now of the communication step that uses a port (14 R353). -/
def Device.slotNow (d : Device) (port : Nat) : Option Nat :=
  (d.launches.findSome? fun l => if l.record.ports.getLsbD port then l.commStart else none).map fun b =>
    (d.globalTime.toNat - b) / 64

/-- A block that another device sent has arrived on a port whole: its last flit was sent in the slot that runs now, so that it is
usable two slots later (21 R453). A sleeping port holds it, whether or not a communication step uses the port (15 R361). One that comes
at a port that is awake while no communication step uses it is lost (DESIGN CHOICE, log entry 27). -/
def State.blockArrive (s : State) (port : Nat) (bytes : List Byte) : State :=
  let sent := s.dev.slotNow port
  let put := fun usable => s.modDev fun d => { d with blocks := d.blocks ++ [⟨port, usable, sent, bytes⟩] }
  if (vget s.dev.ports port ⟨false, true, 0, 0⟩).awake then
    match sent with
    | some slot => put (some (slot + 2))
    | none => s
  else put none

/-- Another device of the job writes `n` bytes of HBM of this one: the line is logged in the context of the job here (17 R401). -/
def State.peerStore (s : State) (ctx a n v : Nat) : State :=
  if hbmBacked a && hbmBacked (a + n - 1) then s.writeHome ctx (.hbm a false) n v else s

/-- The device that owns a peer page writes `n` bytes of it, its own memory: a later read of that page returns them (11 R302, R303). -/
def State.peerWrite (s : State) (a n v : Nat) : State := s.modDev fun d => { d with peer := writeLE d.peer a n v }

/-- Another device of the job has closed its gyle number `seq` (17 R408). -/
def State.peerClose (s : State) (device ctx seq : Nat) : State :=
  s.modCtx ctx fun c =>
    let known := c.peerSeqs.filter fun p => decide (p.1 ≠ device)
    let seqs := (device, seq) :: known
    let least := seqs.foldl (fun (a : Nat) p => min a p.2) c.seq
    { c with peerSeqs := seqs, past := c.past.filter fun p => decide (least < p.seq) }

/-- Another device of the job rolls back over writes to peer pages, and with it every device of the job (17 R408). -/
def State.peerRollback (s : State) (ctx : Nat) : State := s.containWith ctx 0 [] false true

/-! ## Ports and bridges -/

/-- Whether a launch holds a reference on a link port, from its placement to its completion (14 R347). -/
def Device.portReferenced (d : Device) (port : Nat) : Bool := d.launches.any fun l => l.record.ports.getLsbD port && l.placed

/-- The blocks that a port has held while it slept come in: usable two slots later, as those that arrive now; lost, where no
communication step uses the port. One that was sent outside of a communication step counts as sent now (15 R361, 21 R453; DESIGN
CHOICE, log entry 27). -/
def Device.releaseBlocks (d : Device) (port : Nat) : Device :=
  let slot := d.slotNow port
  let one := fun b : Block =>
    if b.port = port ∧ b.usable = none then slot.map fun k => { b with usable := some (k + 2), sent := some (b.sent.getD k) } else some b
  { d with blocks := d.blocks.filterMap one }

/-- A link port is woken or put to sleep; one that a placed launch references stays awake (15 R361, 14 R347). -/
def State.portPower (s : State) (port : Nat) (awake : Bool) : State :=
  if !awake && s.dev.portReferenced port then s
  else s.modDev fun d =>
    let p := vget d.ports port ⟨false, true, 0, 0⟩
    let d := { d with ports := vput d.ports port { p with awake := awake } }
    if awake then d.releaseBlocks port else d

/-- LINK_PORT_TRAINED: UP reads 1 (21 R454). -/
def execLinkPortTrained (port : Fin 18) (s : State) : Result :=
  .next (s.modDev fun d =>
    let p := d.ports[port]
    { d with ports := vset d.ports port { p with up := true } })

/-- LINK_PORT_DOWN: UP reads 0, and an error record of kind 6 names the port (21 R454, 23 R486). -/
def execLinkPortDown (port : Fin 18) (s : State) : Result :=
  .next (s.modDev fun d =>
    let p := d.ports[port]
    { d with ports := vset d.ports port { p with up := false } }.logError 6 port.val 0)

/-- BRIDGE_RETRAIN: the latency bounds across the bridge are suspended, no access is lost, and an error record of kind 5
names it (21 R450, 23 R486). -/
def execBridgeRetrain (bridge : Fin 6) (s : State) : Result :=
  .next (s.modDev fun d => { d with bridges := vset d.bridges bridge true }.logError 5 bridge.val 0)

/-- BRIDGE_RETRAIN_END: the bounds hold again (21 R450). -/
def execBridgeRetrainEnd (bridge : Fin 6) (s : State) : Result :=
  .next (s.modDev fun d => { d with bridges := vset d.bridges bridge false })

end Sys2Proof.Machine
end

