-- ==== Sys2Proof/Machine/Dispatch.lean ====
section
/-! DEFINITION. The one dispatch from an instruction to its meaning. -/

namespace Sys2Proof.Machine

/-- The meaning of every instruction and of every step that is no word. -/
def exec (i : Instr) (s : State) : Host.Outcome State Fault Refusal :=
  match i with
  | .add d a b => Sys2Proof.Machine.execAdd d a b s
  | .sub d a b => Sys2Proof.Machine.execSub d a b s
  | .and d a b => Sys2Proof.Machine.execAnd d a b s
  | .or d a b => Sys2Proof.Machine.execOr d a b s
  | .xor d a b => Sys2Proof.Machine.execXor d a b s
  | .sll d a b => Sys2Proof.Machine.execSll d a b s
  | .srl d a b => Sys2Proof.Machine.execSrl d a b s
  | .sra d a b => Sys2Proof.Machine.execSra d a b s
  | .min d a b => Sys2Proof.Machine.execMin d a b s
  | .max d a b => Sys2Proof.Machine.execMax d a b s
  | .minu d a b => Sys2Proof.Machine.execMinu d a b s
  | .maxu d a b => Sys2Proof.Machine.execMaxu d a b s
  | .clz d a => Sys2Proof.Machine.execClz d a s
  | .popc d a => Sys2Proof.Machine.execPopc d a s
  | .mul d a b => Sys2Proof.Machine.execMul d a b s
  | .mulh d a b => Sys2Proof.Machine.execMulh d a b s
  | .mulhu d a b => Sys2Proof.Machine.execMulhu d a b s
  | .div d a b => Sys2Proof.Machine.execDiv d a b s
  | .divu d a b => Sys2Proof.Machine.execDivu d a b s
  | .rem d a b => Sys2Proof.Machine.execRem d a b s
  | .remu d a b => Sys2Proof.Machine.execRemu d a b s
  | .cmpEq d a b => Sys2Proof.Machine.execCmpEq d a b s
  | .cmpNe d a b => Sys2Proof.Machine.execCmpNe d a b s
  | .cmpLt d a b => Sys2Proof.Machine.execCmpLt d a b s
  | .cmpLtu d a b => Sys2Proof.Machine.execCmpLtu d a b s
  | .cmpGe d a b => Sys2Proof.Machine.execCmpGe d a b s
  | .cmpGeu d a b => Sys2Proof.Machine.execCmpGeu d a b s
  | .sel d q a b => Sys2Proof.Machine.execSel d q a b s
  | .addi d a imm => Sys2Proof.Machine.execAddi d a imm s
  | .andi d a imm => Sys2Proof.Machine.execAndi d a imm s
  | .ori d a imm => Sys2Proof.Machine.execOri d a imm s
  | .xori d a imm => Sys2Proof.Machine.execXori d a imm s
  | .slli d a sh => Sys2Proof.Machine.execSlli d a sh s
  | .srli d a sh => Sys2Proof.Machine.execSrli d a sh s
  | .srai d a sh => Sys2Proof.Machine.execSrai d a sh s
  | .li d imm => Sys2Proof.Machine.execLi d imm s
  | .lui d imm => Sys2Proof.Machine.execLui d imm s
  | .ldB d base off cls => Sys2Proof.Machine.execLdB d base off cls s
  | .ldBu d base off cls => Sys2Proof.Machine.execLdBu d base off cls s
  | .ldH d base off cls => Sys2Proof.Machine.execLdH d base off cls s
  | .ldHu d base off cls => Sys2Proof.Machine.execLdHu d base off cls s
  | .ldW d base off cls => Sys2Proof.Machine.execLdW d base off cls s
  | .ldWu d base off cls => Sys2Proof.Machine.execLdWu d base off cls s
  | .ldD d base off cls => Sys2Proof.Machine.execLdD d base off cls s
  | .stB d base off cls => Sys2Proof.Machine.execStB d base off cls s
  | .stH d base off cls => Sys2Proof.Machine.execStH d base off cls s
  | .stW d base off cls => Sys2Proof.Machine.execStW d base off cls s
  | .stD d base off cls => Sys2Proof.Machine.execStD d base off cls s
  | .ldAcqW d base run cls => Sys2Proof.Machine.execLdAcqW d base run cls s
  | .ldAcqD d base run cls => Sys2Proof.Machine.execLdAcqD d base run cls s
  | .stRelW d base run cls => Sys2Proof.Machine.execStRelW d base run cls s
  | .stRelD d base run cls => Sys2Proof.Machine.execStRelD d base run cls s
  | .ldw w base stall cls => Sys2Proof.Machine.execLdw w base stall cls s
  | .stw d base off cls => Sys2Proof.Machine.execStw d base off cls s
  | .stwRel d base run cls => Sys2Proof.Machine.execStwRel d base run cls s
  | .amoAddW d a b cls => Sys2Proof.Machine.execAmoAddW d a b cls s
  | .amoAndW d a b cls => Sys2Proof.Machine.execAmoAndW d a b cls s
  | .amoOrW d a b cls => Sys2Proof.Machine.execAmoOrW d a b cls s
  | .amoXorW d a b cls => Sys2Proof.Machine.execAmoXorW d a b cls s
  | .amoSminW d a b cls => Sys2Proof.Machine.execAmoSminW d a b cls s
  | .amoSmaxW d a b cls => Sys2Proof.Machine.execAmoSmaxW d a b cls s
  | .amoUminW d a b cls => Sys2Proof.Machine.execAmoUminW d a b cls s
  | .amoUmaxW d a b cls => Sys2Proof.Machine.execAmoUmaxW d a b cls s
  | .amoSwapW d a b cls => Sys2Proof.Machine.execAmoSwapW d a b cls s
  | .amoFaddW d a b cls => Sys2Proof.Machine.execAmoFaddW d a b cls s
  | .amoBfaddW d a b cls => Sys2Proof.Machine.execAmoBfaddW d a b cls s
  | .amoAddD d a b cls => Sys2Proof.Machine.execAmoAddD d a b cls s
  | .amoAndD d a b cls => Sys2Proof.Machine.execAmoAndD d a b cls s
  | .amoOrD d a b cls => Sys2Proof.Machine.execAmoOrD d a b cls s
  | .amoXorD d a b cls => Sys2Proof.Machine.execAmoXorD d a b cls s
  | .amoSminD d a b cls => Sys2Proof.Machine.execAmoSminD d a b cls s
  | .amoSmaxD d a b cls => Sys2Proof.Machine.execAmoSmaxD d a b cls s
  | .amoUminD d a b cls => Sys2Proof.Machine.execAmoUminD d a b cls s
  | .amoUmaxD d a b cls => Sys2Proof.Machine.execAmoUmaxD d a b cls s
  | .amoSwapD d a b cls => Sys2Proof.Machine.execAmoSwapD d a b cls s
  | .casW d a b cls => Sys2Proof.Machine.execCasW d a b cls s
  | .casD d a b cls => Sys2Proof.Machine.execCasD d a b cls s
  | .fenceC mask => Sys2Proof.Machine.execFenceC mask s
  | .br q off => Sys2Proof.Machine.execBr q off s
  | .brn q off => Sys2Proof.Machine.execBrn q off s
  | .jmp imm => Sys2Proof.Machine.execJmp imm s
  | .call imm => Sys2Proof.Machine.execCall imm s
  | .calli a => Sys2Proof.Machine.execCalli a s
  | .ret => Sys2Proof.Machine.execRet s
  | .loop cnt lvl len => Sys2Proof.Machine.execLoop cnt lvl len s
  | .fork engines a => Sys2Proof.Machine.execFork engines a s
  | .rendez engines stall => Sys2Proof.Machine.execRendez engines stall s
  | .wput w a stall => Sys2Proof.Machine.execWput w a stall s
  | .wget d w stall => Sys2Proof.Machine.execWget d w stall s
  | .ckwait d ck stall => Sys2Proof.Machine.execCkwait d ck stall s
  | .ckrel ck => Sys2Proof.Machine.execCkrel ck s
  | .steep set => Sys2Proof.Machine.execSteep set s
  | .kilnR set => Sys2Proof.Machine.execKilnR set s
  | .kilnL set => Sys2Proof.Machine.execKilnL set s
  | .steepReg a => Sys2Proof.Machine.execSteepReg a s
  | .kilnRReg a => Sys2Proof.Machine.execKilnRReg a s
  | .kilnLReg a => Sys2Proof.Machine.execKilnLReg a s
  | .domq d dom => Sys2Proof.Machine.execDomq d dom s
  | .clkdiv eng dv => Sys2Proof.Machine.execClkdiv eng dv s
  | .csrr d num => Sys2Proof.Machine.execCsrr d num s
  | .csrw num a => Sys2Proof.Machine.execCsrw num a s
  | .nop => Sys2Proof.Machine.execNop s
  | .clkwait => Sys2Proof.Machine.execClkwait s
  | .pwrack => Sys2Proof.Machine.execPwrack s
  | .eret => Sys2Proof.Machine.execEret s
  | .halt => Sys2Proof.Machine.execHalt s
  | .gyle => Sys2Proof.Machine.execGyle s
  | .tend => Sys2Proof.Machine.execTend s
  | .bsync => Sys2Proof.Machine.execBsync s
  | .trap code => Sys2Proof.Machine.execTrap code s
  | .launch a => Sys2Proof.Machine.execLaunch a s
  | .tspawn a => Sys2Proof.Machine.execTspawn a s
  | .cancelL a => Sys2Proof.Machine.execCancelL a s
  | .cancelG a => Sys2Proof.Machine.execCancelG a s
  | .cancelP a => Sys2Proof.Machine.execCancelP a s
  | .cancelJ a => Sys2Proof.Machine.execCancelJ a s
  | .seize a => Sys2Proof.Machine.execSeize a s
  | .tld x => Sys2Proof.Machine.execTld x s
  | .tst x => Sys2Proof.Machine.execTst x s
  | .tldRaw x => Sys2Proof.Machine.execTldRaw x s
  | .tldx x => Sys2Proof.Machine.execTldx x s
  | .tstx x => Sys2Proof.Machine.execTstx x s
  | .apf ab stride rows rbytes off => Sys2Proof.Machine.execApf ab stride rows rbytes off s
  | .qdef q base len => Sys2Proof.Machine.execQdef q base len s
  | .apush w a stall => Sys2Proof.Machine.execApush w a stall s
  | .apop a w stall => Sys2Proof.Machine.execApop a w stall s
  | .aadd d a b => Sys2Proof.Machine.execAadd d a b s
  | .aaddi d a imm => Sys2Proof.Machine.execAaddi d a imm s
  | .aloop lvl count len => Sys2Proof.Machine.execAloop lvl count len s
  | .aCkwait d ck stall => Sys2Proof.Machine.execACkwait d ck stall s
  | .aCkrel ck => Sys2Proof.Machine.execACkrel ck s
  | .afence mask => Sys2Proof.Machine.execAfence mask s
  | .ajoin => Sys2Proof.Machine.execAjoin s
  | .anop => Sys2Proof.Machine.execAnop s
  | .vadd ty mask rm vd va vb => Sys2Proof.Machine.execVadd ty mask rm vd va vb s
  | .vsub ty mask rm vd va vb => Sys2Proof.Machine.execVsub ty mask rm vd va vb s
  | .vmul ty mask rm vd va vb => Sys2Proof.Machine.execVmul ty mask rm vd va vb s
  | .vfma ty mask rm vd va vb vc => Sys2Proof.Machine.execVfma ty mask rm vd va vb vc s
  | .vfms ty mask rm vd va vb vc => Sys2Proof.Machine.execVfms ty mask rm vd va vb vc s
  | .vnfma ty mask rm vd va vb vc => Sys2Proof.Machine.execVnfma ty mask rm vd va vb vc s
  | .vmin ty mask rm vd va vb => Sys2Proof.Machine.execVmin ty mask rm vd va vb s
  | .vmax ty mask rm vd va vb => Sys2Proof.Machine.execVmax ty mask rm vd va vb s
  | .vabs ty mask rm vd va => Sys2Proof.Machine.execVabs ty mask rm vd va s
  | .vneg ty mask rm vd va => Sys2Proof.Machine.execVneg ty mask rm vd va s
  | .vaddi ty mask rm vd va imm => Sys2Proof.Machine.execVaddi ty mask rm vd va imm s
  | .vmovi mask vd imm => Sys2Proof.Machine.execVmovi mask vd imm s
  | .vcmpEq ty mask md va vb => Sys2Proof.Machine.execVcmpEq ty mask md va vb s
  | .vcmpNe ty mask md va vb => Sys2Proof.Machine.execVcmpNe ty mask md va vb s
  | .vcmpLt ty mask md va vb => Sys2Proof.Machine.execVcmpLt ty mask md va vb s
  | .vcmpLe ty mask md va vb => Sys2Proof.Machine.execVcmpLe ty mask md va vb s
  | .vcmpGt ty mask md va vb => Sys2Proof.Machine.execVcmpGt ty mask md va vb s
  | .vcmpGe ty mask md va vb => Sys2Proof.Machine.execVcmpGe ty mask md va vb s
  | .vcmpUn ty mask md va vb => Sys2Proof.Machine.execVcmpUn ty mask md va vb s
  | .vsel mask vd va vb mc => Sys2Proof.Machine.execVsel mask vd va vb mc s
  | .vand mask vd va vb => Sys2Proof.Machine.execVand mask vd va vb s
  | .vor mask vd va vb => Sys2Proof.Machine.execVor mask vd va vb s
  | .vxor mask vd va vb => Sys2Proof.Machine.execVxor mask vd va vb s
  | .vandn mask vd va vb => Sys2Proof.Machine.execVandn mask vd va vb s
  | .vnot mask vd va => Sys2Proof.Machine.execVnot mask vd va s
  | .vsll ty mask vd va vb => Sys2Proof.Machine.execVsll ty mask vd va vb s
  | .vsrl ty mask vd va vb => Sys2Proof.Machine.execVsrl ty mask vd va vb s
  | .vsra ty mask vd va vb => Sys2Proof.Machine.execVsra ty mask vd va vb s
  | .vslli ty mask vd va sh => Sys2Proof.Machine.execVslli ty mask vd va sh s
  | .vsrli ty mask vd va sh => Sys2Proof.Machine.execVsrli ty mask vd va sh s
  | .vsrai ty mask vd va sh => Sys2Proof.Machine.execVsrai ty mask vd va sh s
  | .vcvt dst src mx ns mask rm vd va => Sys2Proof.Machine.execVcvt dst src mx ns mask rm vd va s
  | .vroundi ty mask rm vd va => Sys2Proof.Machine.execVroundi ty mask rm vd va s
  | .vfexp2 mask rm vd va => Sys2Proof.Machine.execVfexp2 mask rm vd va s
  | .vscaleb mask rm vd va vb => Sys2Proof.Machine.execVscaleb mask rm vd va vb s
  | .vgetexp mask rm vd va => Sys2Proof.Machine.execVgetexp mask rm vd va s
  | .vgetmant mask rm vd va => Sys2Proof.Machine.execVgetmant mask rm vd va s
  | .vrcp mask rm vd va => Sys2Proof.Machine.execVrcp mask rm vd va s
  | .vrsq mask rm vd va => Sys2Proof.Machine.execVrsq mask rm vd va s
  | .vlog2 mask rm vd va => Sys2Proof.Machine.execVlog2 mask rm vd va s
  | .vclass mask vd va => Sys2Proof.Machine.execVclass mask vd va s
  | .vredSum ty mask rm vd va => Sys2Proof.Machine.execVredSum ty mask rm vd va s
  | .vredMax ty mask rm vd va => Sys2Proof.Machine.execVredMax ty mask rm vd va s
  | .vredMin ty mask rm vd va => Sys2Proof.Machine.execVredMin ty mask rm vd va s
  | .vperm mask vd va vb => Sys2Proof.Machine.execVperm mask vd va vb s
  | .vbcast mask vd w keep stall => Sys2Proof.Machine.execVbcast mask vd w keep stall s
  | .viota mask vd => Sys2Proof.Machine.execViota mask vd s
  | .vmov mask vd src => Sys2Proof.Machine.execVmov mask vd src s
  | .vpop mask vd tile part keep stall => Sys2Proof.Machine.execVpop mask vd tile part keep stall s
  | .vpush mask va tile part partial_ stall => Sys2Proof.Machine.execVpush mask va tile part partial_ stall s
  | .vpute mask va => Sys2Proof.Machine.execVpute mask va s
  | .vdrain ty mask rm vd acc row lg stall => Sys2Proof.Machine.execVdrain ty mask rm vd acc row lg stall s
  | .vmand mask md ma mb => Sys2Proof.Machine.execVmand mask md ma mb s
  | .vmor mask md ma mb => Sys2Proof.Machine.execVmor mask md ma mb s
  | .vmxor mask md ma mb => Sys2Proof.Machine.execVmxor mask md ma mb s
  | .vmandn mask md ma mb => Sys2Proof.Machine.execVmandn mask md ma mb s
  | .vmnot mask md ma => Sys2Proof.Machine.execVmnot mask md ma s
  | .vmmov mask md ma => Sys2Proof.Machine.execVmmov mask md ma s
  | .vloop lvl count len => Sys2Proof.Machine.execVloop lvl count len s
  | .vjoin => Sys2Proof.Machine.execVjoin s
  | .vnop => Sys2Proof.Machine.execVnop s
  | .mset lvl trip sa sb sc => Sys2Proof.Machine.execMset lvl trip sa sb sc s
  | .mwin win => Sys2Proof.Machine.execMwin win s
  | .mfmt fa fb => Sys2Proof.Machine.execMfmt fa fb s
  | .msrc x => Sys2Proof.Machine.execMsrc x s
  | .mgo => Sys2Proof.Machine.execMgo s
  | .mgoS md => Sys2Proof.Machine.execMgoS md s
  | .mzero tiles => Sys2Proof.Machine.execMzero tiles s
  | .malloc banks => Sys2Proof.Machine.execMalloc banks s
  | .mfree banks => Sys2Proof.Machine.execMfree banks s
  | .mclaim tile frow lrow lg => Sys2Proof.Machine.execMclaim tile frow lrow lg s
  | .mrelease tile frow lrow lg => Sys2Proof.Machine.execMrelease tile frow lrow lg s
  | .mdrain tile frow lrow dst fmt rm => Sys2Proof.Machine.execMdrain tile frow lrow dst fmt rm s
  | .mflags tile dst stall => Sys2Proof.Machine.execMflags tile dst stall s
  | .mflagsC tile dst stall => Sys2Proof.Machine.execMflagsC tile dst stall s
  | .mchk w stall => Sys2Proof.Machine.execMchk w stall s
  | .mwait => Sys2Proof.Machine.execMwait s
  | .mloop lvl count len => Sys2Proof.Machine.execMloop lvl count len s
  | .mjoin => Sys2Proof.Machine.execMjoin s
  | .mnop => Sys2Proof.Machine.execMnop s
  | .xcopy x => Sys2Proof.Machine.execXcopy x s
  | .xconv x => Sys2Proof.Machine.execXconv x s
  | .xmcast x => Sys2Proof.Machine.execXmcast x s
  | .xcsr x => Sys2Proof.Machine.execXcsr x s
  | .xgather x => Sys2Proof.Machine.execXgather x s
  | .xscatter x => Sys2Proof.Machine.execXscatter x s
  | .xsmd x => Sys2Proof.Machine.execXsmd x s
  | .xred x => Sys2Proof.Machine.execXred x s
  | .xamo x => Sys2Proof.Machine.execXamo x s
  | .xmig x => Sys2Proof.Machine.execXmig x s
  | .xlink x => Sys2Proof.Machine.execXlink x s
  | .xchain x => Sys2Proof.Machine.execXchain x s
  | .xcask ck slots bytes => Sys2Proof.Machine.execXcask ck slots bytes s
  | .xsig ck bytes => Sys2Proof.Machine.execXsig ck bytes s
  | .xjoin queues => Sys2Proof.Machine.execXjoin queues s
  | .xfence mask => Sys2Proof.Machine.execXfence mask s
  | .xloop lvl count len => Sys2Proof.Machine.execXloop lvl count len s
  | .xhalt => Sys2Proof.Machine.execXhalt s
  | .xnop => Sys2Proof.Machine.execXnop s
  | .resultLanding e => Sys2Proof.Machine.execResultLanding e s
  | .ldwDataArrive w => Sys2Proof.Machine.execLdwDataArrive w s
  | .tileDataLand t => Sys2Proof.Machine.execTileDataLand t s
  | .accessPerform k => Sys2Proof.Machine.execAccessPerform k s
  | .domainAwake d => Sys2Proof.Machine.execDomainAwake d s
  | .engineJoined e => Sys2Proof.Machine.execEngineJoined e s
  | .haltRetire => Sys2Proof.Machine.execHaltRetire s
  | .tendRetire => Sys2Proof.Machine.execTendRetire s
  | .rowBarrierReached row => Sys2Proof.Machine.execRowBarrierReached row s
  | .commStepStart launch => Sys2Proof.Machine.execCommStepStart launch s
  | .commStepEnd launch => Sys2Proof.Machine.execCommStepEnd launch s
  | .xQueueEntry => Sys2Proof.Machine.execXQueueEntry s
  | .copyComplete copy => Sys2Proof.Machine.execCopyComplete copy s
  | .caskCreditArrive k => Sys2Proof.Machine.execCaskCreditArrive k s
  | .xsigCreditApply k => Sys2Proof.Machine.execXsigCreditApply k s
  | .copyStop copy => Sys2Proof.Machine.execCopyStop copy s
  | .aTranslationHalt => Sys2Proof.Machine.execATranslationHalt s
  | .faultReportWrite k => Sys2Proof.Machine.execFaultReportWrite k s
  | .chainRecordRead => Sys2Proof.Machine.execChainRecordRead s
  | .nestStep misses => Sys2Proof.Machine.execNestStep misses s
  | .nestComplete => Sys2Proof.Machine.execNestComplete s
  | .mWriteComplete k => Sys2Proof.Machine.execMWriteComplete k s
  | .stallBoundExpire e => Sys2Proof.Machine.execStallBoundExpire e s
  | .watchdogExpire => Sys2Proof.Machine.execWatchdogExpire s
  | .faultStop => Sys2Proof.Machine.execFaultStop s
  | .rowDrainComplete row => Sys2Proof.Machine.execRowDrainComplete row s
  | .handlerEntry => Sys2Proof.Machine.execHandlerEntry s
  | .doubleFault => Sys2Proof.Machine.execDoubleFault s
  | .uncorrectableData unit num addr => Sys2Proof.Machine.execUncorrectableData unit num addr s
  | .freplyRetry ctx fseq => Sys2Proof.Machine.execFreplyRetry ctx fseq s
  | .freplyAbort ctx fseq => Sys2Proof.Machine.execFreplyAbort ctx fseq s
  | .boundaryPreempt ctx => Sys2Proof.Machine.execBoundaryPreempt ctx s
  | .deepPreempt ctx => Sys2Proof.Machine.execDeepPreempt ctx s
  | .saveDeadlineExpire ctx => Sys2Proof.Machine.execSaveDeadlineExpire ctx s
  | .contextResume ctx => Sys2Proof.Machine.execContextResume ctx s
  | .seizureCommandArrive job => Sys2Proof.Machine.execSeizureCommandArrive job s
  | .seizureRelease => Sys2Proof.Machine.execSeizureRelease s
  | .hostSeizeWrite v => Sys2Proof.Machine.execHostSeizeWrite v s
  | .sqtailWrite q v => Sys2Proof.Machine.execSqtailWrite q v s
  | .recordAccept q => Sys2Proof.Machine.execRecordAccept q s
  | .launchReady launch => Sys2Proof.Machine.execLaunchReady launch s
  | .dispatchVisit => Sys2Proof.Machine.execDispatchVisit s
  | .taskBind launch => Sys2Proof.Machine.execTaskBind launch s
  | .taskStart launch => Sys2Proof.Machine.execTaskStart launch s
  | .launchComplete launch => Sys2Proof.Machine.execLaunchComplete launch s
  | .completionRecordWrite q => Sys2Proof.Machine.execCompletionRecordWrite q s
  | .reRelocate copy => Sys2Proof.Machine.execReRelocate copy s
  | .codeObjectLoad img => Sys2Proof.Machine.execCodeObjectLoad img s
  | .patch copy reloc v => Sys2Proof.Machine.execPatch copy reloc v s
  | .qctlWrite q v => Sys2Proof.Machine.execQctlWrite q v s
  | .deviceReset => Sys2Proof.Machine.execDeviceReset s
  | .hostWindowRead off size => Sys2Proof.Machine.execHostWindowRead off size s
  | .hostWindowWrite off size v => Sys2Proof.Machine.execHostWindowWrite off size v s
  | .hostAtomicop off v => Sys2Proof.Machine.execHostAtomicop off v s
  | .chainhead v => Sys2Proof.Machine.execChainhead v s
  | .srseed v => Sys2Proof.Machine.execSrseed v s
  | .csrWrite num v => Sys2Proof.Machine.execCsrWrite num v s
  | .tlbinvPage ctx page => Sys2Proof.Machine.execTlbinvPage ctx page s
  | .tlbinvContext ctx => Sys2Proof.Machine.execTlbinvContext ctx s
  | .tlbinvDevice => Sys2Proof.Machine.execTlbinvDevice s
  | .tlbinvComplete => Sys2Proof.Machine.execTlbinvComplete s
  | .mcgsel v => Sys2Proof.Machine.execMcgsel v s
  | .mcgent v => Sys2Proof.Machine.execMcgent v s
  | .multicastCopy k => Sys2Proof.Machine.execMulticastCopy k s
  | .bridgeRetrain bridge => Sys2Proof.Machine.execBridgeRetrain bridge s
  | .linkPortDown port => Sys2Proof.Machine.execLinkPortDown port s
  | .railStep cluster => Sys2Proof.Machine.execRailStep cluster s
  | .boostTokenTick => Sys2Proof.Machine.execBoostTokenTick s
  | .boostRefill => Sys2Proof.Machine.execBoostRefill s
  | .powerLimitSet cluster => Sys2Proof.Machine.execPowerLimitSet cluster s
  | .powerLimitClear cluster => Sys2Proof.Machine.execPowerLimitClear cluster s
  | .ackTimerExpire cluster => Sys2Proof.Machine.execAckTimerExpire cluster s
  | .ackGrantExpire cluster => Sys2Proof.Machine.execAckGrantExpire cluster s
  | .thermalLimit die => Sys2Proof.Machine.execThermalLimit die s
  | .thermalTrip die => Sys2Proof.Machine.execThermalTrip die s
  | .sbmBankStateChange bank state => Sys2Proof.Machine.execSbmBankStateChange bank state s
  | .clctlRun => Sys2Proof.Machine.execClctlRun s
  | .clctlQuiesce => Sys2Proof.Machine.execClctlQuiesce s
  | .clctlRetain => Sys2Proof.Machine.execClctlRetain s
  | .clctlClockoff => Sys2Proof.Machine.execClctlClockoff s
  | .clctlRailoff => Sys2Proof.Machine.execClctlRailoff s
  | .clwake cluster => Sys2Proof.Machine.execClwake cluster s
  | .clusterQuiesced cluster => Sys2Proof.Machine.execClusterQuiesced cluster s
  | .clusterRetainDone cluster => Sys2Proof.Machine.execClusterRetainDone cluster s
  | .clusterWakeComplete cluster => Sys2Proof.Machine.execClusterWakeComplete cluster s
  | .moduleBoot image => Sys2Proof.Machine.execModuleBoot image s
  | .mbcmdAttest => Sys2Proof.Machine.execMbcmdAttest s
  | .mbcmdStageFirmware => Sys2Proof.Machine.execMbcmdStageFirmware s
  | .mbcmdStageImage => Sys2Proof.Machine.execMbcmdStageImage s
  | .mbcmdComplete => Sys2Proof.Machine.execMbcmdComplete s
  | .errorRecordWrite => Sys2Proof.Machine.execErrorRecordWrite s
  | .linkPortTrained port => Sys2Proof.Machine.execLinkPortTrained port s
  | .bridgeRetrainEnd bridge => Sys2Proof.Machine.execBridgeRetrainEnd bridge s
  | .hostPortStateChange port up atomics => Sys2Proof.Machine.execHostPortStateChange port up atomics s
  | .timeBaseLockChange locked offset => Sys2Proof.Machine.execTimeBaseLockChange locked offset s
  | .preemptionRequest ctx => Sys2Proof.Machine.execPreemptionRequest ctx s
  | .saveComplete ctx => Sys2Proof.Machine.execSaveComplete ctx s
  | .freezeComplete => Sys2Proof.Machine.execFreezeComplete s
  | .hostRingHeadWrite ring v => Sys2Proof.Machine.execHostRingHeadWrite ring v s
  | .jobCreation spec => Sys2Proof.Machine.execJobCreation spec s

end Sys2Proof.Machine
end

