-- ==== Sys2Proof/Machine/Turn.lean ====
section
/-! DEFINITION. What the machine does by itself: fetching and issuing words, the turns of the cores in a ref cycle, the end
of a ref cycle, and the beginning of the next (01 R19–R22, R30, R37–R40, R44, R487; 03 R88–R92; 15 R362, R373, R376; 17
R387–R392; log entries 3, 9). -/

namespace Sys2Proof.Machine

/-- The state after a step that answers a next state; the state before it otherwise. -/
def stateOr (r : Result) (s : State) : State := match r with | .next t => t | _ => s

/-! ## Fetch (03 R88, R89; 19 R425, R440) -/

/-- What fetching a word gives. -/
inductive Fetched where
  | word (w : Nat)
  | bound
  deriving DecidableEq, Repr

/-- The word of `n` bytes at a stream address of a context (03 R88, R89). The code arena lies in HBM: an address between CODEBASE and
CODEBOUND that no memory backs is outside it (19 R425, R440; DEDUCED, log entry 29). -/
def fetch (hbm : Memory) (c : Ctx) (pc n : Nat) : Fetched :=
  let base := c.codebase.toNat % 2 ^ 49
  let bound := c.codebound.toNat % 2 ^ 49
  let inHbm := decide (c.codebase.toNat / 2 ^ 51 = 0 ∧ c.codebound.toNat / 2 ^ 51 = 0)
    && hbmBacked base && hbmBacked bound
  if pc % n ≠ 0 ∨ pc < base ∨ bound < pc + n ∨ !inHbm ∨ !hbmBacked pc then .bound
  else .word (readLE hbm pc n)

/-- What is held for the next word of an engine of the focus core counts again (01 R58, 09 R253). -/
def State.replayed (s : State) (e : Engine) : State :=
  if (s.core.eng e).held.isEmpty && (decide (e ≠ .x) || s.core.xc.waiting.isEmpty) then s else s.modFocus fun c => c.replay e

/-- A word of an engine is decoded and executed: the checks of 03 R92 behind those of its fetch. -/
def State.execWord (s : State) (e : Engine) (w : Nat) : Result :=
  let op := w / 2 ^ (8 * e.wordBytes - 6)
  match decode e w with
  | .ok i => exec i s
  | .error .illegal => .next (s.raise e (mkFault 0x01 op 0 0))
  | .error (.reserved i) => .next (s.raise e (mkFault (if s.contextIllegal e i then 0x01 else 0x02) op 0 0))

/-- The word at an engine's program counter is fetched, decoded and executed: the checks of 03 R92 begin here. -/
def State.issue (s : State) (e : Engine) : Result :=
  match s.ctx with
  | none => .next (s.modFocus fun c => c.modEng e fun x => { x with used := true })
  | some c =>
    let pc := (s.core.eng e).pc
    match fetch s.dev.hbm c pc.toNat e.wordBytes with
    | .bound => .next (s.raise e (mkFault 0x03 0 0 pc))
    | .word w => s.execWord e w

/-- The word that the fetch unit of the focus core gives an engine, if any. -/
def State.fetched (s : State) (e : Engine) : Option Nat :=
  match s.ctx with
  | none => none
  | some c => match fetch s.dev.hbm c (s.core.eng e).pc.toNat e.wordBytes with | .word w => some w | _ => none

/-! ## Which engine may issue -/

/-- Whether the clocks of a core run: not on a die with a thermal trip (23 R478). -/
def Device.clocked (d : Device) (id : CoreId) : Bool := !(vget d.mgmt.stopped id.die false)

/-- Whether an engine of a core that is not stopped begins a cycle in this ref cycle and has not used it (01 R19; 15 R362; 17
R387, R392, R410). -/
def Core.cycles (c : Core) (e : Engine) : Bool :=
  let x := c.eng e
  decide (x.phase = 0) && !x.used && !(vget c.flt.drained e.num false)
    && (match c.flt.stop with
        | .run | .draining => true
        | .handler => decide (e = .c)
        | _ => false)

/-- Whether the engine of the focus core begins a cycle in this ref cycle in which it can issue a word, the row of a wave
launch apart (01 R19, R33, R36). -/
def Core.ready (c : Core) (e : Engine) : Bool :=
  decide ((c.eng e).state = .running) && c.cycles e
    && (decide (e ≠ .c) || (match c.ctl.wait with | .halt | .tend => false | _ => true))

/-- The fetch unit that serves the core is Awake (01 R37, R38). -/
def Core.fetching (c : Core) : Bool :=
  match c.resident with
  | some r => (decide (r.mode = .wave) && decide (r.col ≠ 0)) || c.awake 0
  | none => false

/-! ### Gang rows (01 R39, R40, R487; 17 R388, R389) -/

/-- The logical column of a core; 0 outside a gang row. -/
def Core.col (c : Core) : Nat := match c.resident with | some k => k.col | none => 0

/-- Whether a column's next word of a stream is due in its current cycle: two cycles after each column west of it (01
R39); in a drain, below the drain target (17 R388). -/
def Row.due (r : Row) (c : Core) (e : Engine) (col : Nat) : Bool :=
  let x := c.eng e
  let below := !r.draining || !c.atTarget r e
  below &&
    (if col = 0 then true
     else match r.issued e x.index with
       | some (t, _) => decide (t + 2 * col ≤ x.slot)
       | none => false)

/-- Every result of the core that is due, landed: the registers as the words of this ref cycle read them. -/
def Core.landAll (c : Core) : Core := engines.foldl Core.landDue c

/-- A column at the address of its next word, as column 0 fetched it. -/
def State.atWord (s : State) (r : Row) (e : Engine) (col : Nat) : State :=
  match (if col = 0 then none else r.issued e (s.core.eng e).index) with
  | some (_, some (pc, _)) => s.modFocus fun c => c.modEng e fun x => { x with pc := pc }
  | _ => s

/-- The next word of a stream executed in a column of a row: the fetch unit fetches and checks it once for the row, and every other
column takes it as fetched (03 R89). It is fetched at the program counter of column 0, and a word that column 0 passes behind its
skip count at that of the lowest-numbered column that issues it (17 R389; DEDUCED, log entry 9). -/
def State.rowWord (s : State) (r : Row) (e : Engine) (col : Nat) : Result :=
  match (if col = 0 then none else r.issued e (s.core.eng e).index) with
  | some (_, some (_, w)) => s.execWord e w
  | _ => s.issue e

/-- The word at which column 0 of a row stands, as its fetch unit gives it: address and word. -/
def State.headWord (s : State) (r : Row) (e : Engine) : Option (Dword × Nat) :=
  let c := s.coreAt (r.members.head?.getD s.core.id)
  let t : State := { s with core := c }
  (t.fetched e).map fun w => ((c.eng e).pc, w)

/-- Whether the next word of an engine of the focus core, a column of a row, would hold (01 R40). The wait of a barrier word is no such hold
(01 R487), and a stream that is not Running has no word to hold: it issues the words that are due once it is (DEDUCED, log
entry 9). -/
def State.wouldHold (s : State) (r : Row) (e : Engine) (col : Nat) : Bool :=
  let x := s.core.eng e
  if x.state ≠ .running then false
  else if 0 < x.skip then false
  else
    match s.rowWord r e col with
    | .next t =>
      decide (t.core.flt.raised.length = s.core.flt.raised.length) && (t.core.eng e).hold.isSome
        && !decide (e = .c ∧ (t.core.ctl.wait = .gyle ∨ t.core.ctl.wait = .bsync))
    | _ => false

/-- Whether the focus core, a column of a row, would hold at its due word of a stream. -/
def State.columnHolds (s : State) (r : Row) (e : Engine) : Bool :=
  let c := s.core
  match c.resident with
  | none => false
  | some k =>
    let live := decide (c.flt.stop = .run) || (decide (c.flt.stop = .handler) && decide (e = .c))
    live && (decide (k.col ≠ 0) || (c.ready e && c.fetching)) && r.due c e k.col && (s.atWord r e k.col).wouldHold r e k.col

/-- Whether the word of an index has been fetched for its row: its fetch comes with the first column that issues it. -/
def Row.fetchedAt (r : Row) (e : Engine) (index : Nat) : Bool :=
  match r.issued e index with
  | some (_, some _) => true
  | _ => false

/-- The word that a column fetched for its row at an index, in the slot that column 0 gave it. -/
def State.noteFetch (s : State) (id : Nat) (e : Engine) (index : Nat) (word : Option (Dword × Nat)) : State :=
  let note := fun t : Nat × Nat × Option (Dword × Nat) => if t.1 = index then (t.1, t.2.1, word) else t
  s.modRow id fun r => { r with times := vput r.times e.num ((vget r.times e.num []).map note) }

/-- A word that column 0 issued or skipped, remembered for the columns east of it until each of them has passed it. -/
def State.noteIssue (s : State) (id : Nat) (e : Engine) (index slot : Nat) (word : Option (Dword × Nat)) :
    State :=
  let at_ := fun m : CoreId => ((s.coreAt m).eng e).index
  s.modRow id fun r =>
    let least := r.members.foldl (fun (n : Nat) m => Nat.min n (at_ m)) index
    let old := (vget r.times e.num []).filter fun t => decide (least ≤ t.1)
    { r with times := vput r.times e.num ((index, slot, word) :: old) }

/-- A word that a column behind its skip count passes: it takes its slot and has no effect (17 R389). -/
def State.skipWord (s : State) (e : Engine) : State :=
  s.modFocus fun c => c.modEng e fun x => { x with index := x.index + 1, skip := x.skip - 1, used := true, hold := none }

/-- Whether a column stands at a BSYNC whose communication step was overrun: each raises the fault there (14 R354; DEDUCED, log entry 24).
-/
def State.overrunHere (s : State) (r : Row) : Bool :=
  r.barrier && match s.dev.launch r.launch with
    | some l => l.overrun && l.commEnd.isSome && l.commStart.isNone
    | none => false

/-- The state behind a word that a column of a row has issued, where that column fetched it. -/
def State.rowNote (s n : State) (r : Row) (e : Engine) (col : Nat) : State :=
  let x := s.core.eng e
  let word := (s.fetched e).map fun w => (x.pc, w)
  if col = 0 then n.noteIssue r.id e x.index x.slot word
  else if r.fetchedAt e x.index then n
  else n.noteFetch r.id e x.index word

/-- One engine of a column of a gang row (01 R38–R40, R487; 17 R388, R389): none if it does nothing now. -/
def State.waveIssue (s : State) (r : Row) (col : Nat) (e : Engine) : Option Result :=
  let c := s.core
  let x := c.eng e
  let over_ := decide (e = .c) && decide (col ≠ 0) && (r.issued e x.index).isNone && s.overrunHere r
  if !c.fetching || !(c.ready e || (c.cycles e && decide (0 < x.skip))) then none
  else if over_ then
    (s.headWord r e).map fun w => ((s.modFocus fun c => c.modEng e fun x => { x with pc := w.1 }).replayed e).execWord e w.2
  else if !r.due c e col then none
  else
    let t := s.atWord r e col
    if 0 < x.skip then
      if r.heldIn e then none
      else
        let n := t.skipWord e
        some (.next (if col = 0 then n.noteIssue r.id e x.index x.slot none else n))
    else if r.draining then
      if t.wouldHold r e col then some (.next (s.modFocus fun c => c.drainEngine e))
      else
        match (t.replayed e).rowWord r e col with
        | .next n =>
          some (.next (if n.core.flt.raised.length = c.flt.raised.length then s.rowNote n r e col
            else n.modFocus fun c => c.drainEngine e))
        | o => some o
    else if r.heldIn e && !t.wouldHold r e col then none
    else
      match (t.replayed e).rowWord r e col with
      | .next n =>
        let went := (n.core.eng e).hold.isNone && decide (n.core.flt.raised.length = c.flt.raised.length)
        some (.next (if went then s.rowNote n r e col else n))
      | o => some o

/-- The word that one engine of the focus core issues in this ref cycle, if any. -/
def State.engineTurn (s : State) (e : Engine) : Option Result :=
  match s.rowOf s.core with
  | some r => s.waveIssue r s.core.col e
  | none => if s.core.ready e && s.core.fetching then some ((s.replayed e).issue e) else none

/-! ## What comes by itself at its time -/

/-- The access that must perform before another one can, followed to its start; `n` bounds the way. -/
def firstBefore (as : List Access) : Nat → Nat → Nat
  | 0, k => k
  | n + 1, k => match blocker as k with | some j => firstBefore as n j | none => k

/-- Whether an access must have performed by now: a C access of the scratchpad whose result is due, or 5 C cycles after
its issue (10 R291, 11 R307). -/
def Core.overdue (c : Core) (a : Access) : Bool :=
  a.fixed && (decide (spadCycles ≤ a.age) || c.ec.landing.any fun l => decide (l.rem = 0 ∧ l.val = .access a.id))

/-- The place of an access that performs now because its time is fixed. -/
def State.dueAccess (s : State) : Option Nat :=
  match s.core.accesses.findIdx? s.core.overdue with
  | none => none
  | some k =>
    let j := firstBefore s.core.accesses k k
    if s.canPerform j then some j else none

/-- Whether results of an engine land: they are kept while it is stopped (01 R56, 17 R387, R392). -/
def Core.lands (c : Core) (e : Engine) : Bool :=
  !(vget c.flt.drained e.num false) &&
    match c.flt.stop with
    | .run | .draining => true
    | .handler => decide (e = .c)
    | _ => false

/-- Whether an engine that is Joining has joined (01 R35). -/
def State.joins (s : State) (e : Engine) : Bool :=
  decide ((s.core.eng e).state = .joining) && decide (((stateOr (execEngineJoined e s) s).core.eng e).state = .joined)

/-- A stop that has not been reported. -/
def Stop.fresh (t : Option Stop) : Bool := match t with | some x => x.fseq.isNone && !x.parked | none => false

/-- The number of a copy whose stop is to be reported; one that no copy has for a stop of a word or of the walk. -/
def State.freshStop (s : State) : Option Nat :=
  match s.core.xc.copies.find? fun k => Stop.fresh k.stop with
  | some k => some k.id
  | none => if Stop.fresh s.core.xHalt || Stop.fresh s.core.xc.walk.stop then some s.dev.fresh else none

/-- A step of the focus core whose time has come, and which is no word: none if there is none. -/
def State.internalStep (s : State) : Option Result :=
  let c := s.core
  match s.dueAccess with
  | some k => some (execAccessPerform k s)
  | none =>
  match engines.find? fun e => (c.eng e).due && c.lands e with
  | some e => some (execResultLanding e s)
  | none =>
  match (List.range 31).find? fun d => match c.dom d with | .waking _ 0 => true | _ => false with
  | some d => some (execDomainAwake (Fin.ofNat 31 d) s)
  | none =>
  if c.xc.entries.any fun x => decide (x.rem = 0) then some (execXQueueEntry s)
  else
  match engines.find? s.joins with
  | some e => some (execEngineJoined e s)
  | none =>
  if c.ctl.wait = .halt ∧ c.flt.stop = .run ∧ s.canRetire then some (execHaltRetire s)
  else if c.ctl.wait = .tend ∧ c.flt.stop = .run ∧ s.canRetire then some (execTendRetire s)
  else
  match s.freshStop with
  | some k => some (execCopyStop k s)
  | none => if Stop.fresh c.aHalt then some (execATranslationHalt s) else none

/-- An engine whose held word has passed its bound (17 R398). -/
def Core.boundPassed (c : Core) (e : Engine) : Bool :=
  match (c.eng e).hold with
  | some h => (match h.bound, h.producer with | some b, some _ => decide (b < h.count) | _, _ => false)
  | none => false

/-- Whether the watchdog's time has run out (17 R399). -/
def State.wdPassed (s : State) : Bool :=
  match s.ctx with
  | none => false
  | some x => decide (x.wdlimit.toNat ≠ 0 ∧ 3000 * x.wdlimit.toNat ≤ s.core.flt.wd) && s.watched
      && decide (s.core.flt.stop = .run ∨ s.core.flt.stop = .handler)

/-- The row of which the focus core is column 0, if its holds are not yet decided in this ref cycle. -/
def State.undecided (s : State) : Option Row :=
  match s.rowOf s.core with
  | some r => if r.members.head? = some s.core.id ∧ !r.decided then some r else none
  | none => none

/-- A core with what has come due done; `n` bounds the steps. -/
def State.settled : Nat → State → State
  | 0, s => s
  | n + 1, s => match s.internalStep with | some r => State.settled n (stateOr r s) | none => s

/-- A stream of the focus core, a column of a row, judged in its turn: the row with the column among its holders if the word
holds, else the state behind the word (01 R30, R40). -/
def State.judge (r : Row) (s : State) (e : Engine) : Row × State :=
  let old := vget r.holders e.num []
  let col := s.core.col
  if !s.core.cycles e then (r, s)
  else if !r.draining && s.columnHolds r e then
    ({ r with holders := vput r.holders e.num (if old.contains col then old else col :: old) }, s)
  else (r, match s.waveIssue r col e with | some o => stateOr o s | none => s)

/-- Every column of a row judged in the order of their turns, each with what comes due in it done, on the state that the turns
before it leave (01 R30, R40). -/
def State.judgeRow (s : State) (r : Row) : Row :=
  (r.members.foldl (fun (y : Row × State) id =>
    engines.foldl (fun (y : Row × State) e => State.judge y.1 y.2 e) (y.1, State.settled 64 (y.2.focusOn id))) (r, s)).1

/-- The streams of a row that hold in this ref cycle, judged one after the other: a stream holds if its word would hold in some column
while the streams judged before issue or hold as found, and a stream found to hold issues in no column (01 R30, R40; DEDUCED, log
entry 9). `old` are the columns whose cycle does not begin now. -/
def State.rowHolds (s : State) (old : Vector (List Nat) 5) : List Engine → Row → Row
  | [], r => r
  | e :: es, r =>
    let q := s.judgeRow { r with holders := vput r.holders e.num (vget old e.num []) }
    State.rowHolds s old es { r with holders := vput r.holders e.num (vget q.holders e.num []) }

/-- The holds of a row in this ref cycle, decided once for all its columns and streams (01 R40). A column whose cycle does not
begin now holds as it did. -/
def State.decideRow (s : State) (r : Row) : State :=
  let begins := fun (id : CoreId) e => (s.coreAt id).cycles e
  if r.members.any fun id => engines.any (begins id) then
    let kept := fun (e : Engine) col => match r.members[col]? with | some id => !begins id e | none => false
    let old : Vector (List Nat) 5 := if r.draining then Vector.replicate 5 []
      else vof 5 fun i => (vget r.holders i []).filter (kept (engineNo i))
    let out := s.rowHolds old (engines ++ engines) { r with holders := old }
    s.modRow r.id fun r => { r with holders := out.holders, decided := true }
  else s.modRow r.id fun r => { r with decided := true }

/-! ## What may come at any time, and comes now if nothing else is asked for (DESIGN CHOICE, log entry 3) -/

/-- Accesses of the focus core perform in order as far as they can; `n` bounds the units. -/
def State.performReady : Nat → State → State
  | 0, s => s
  | n + 1, s =>
    match (List.range s.core.accesses.length).find? s.canPerform with
    | some k => State.performReady n (s.performAt k)
    | none => s

/-- The accesses of one copy that can be made now, at most `n`. -/
def State.runCopy (id : Nat) : Nat → State → State
  | 0, s => s
  | n + 1, s => State.runCopy id n (s.copyAccess id)

/-- The tiles whose completing A write has all its data. -/
def Core.landingTiles (c : Core) : List (Fin 32) :=
  (List.range 32).filterMap fun t =>
    let i : Fin 32 := Fin.ofNat 32 t
    let r := c.tiles.t[i]
    if r.outstanding && decide (r.flag = .filling .a) && !c.tileLoading i then some i else none

/-- The data of long loads on their way come. -/
def State.dataArrive (s : State) : State :=
  s.core.arrivals.foldl (fun (s : State) x => stateOr (execLdwDataArrive x.1 s) s) s

/-- What a core's memory traffic, nest and copies do in a ref cycle. -/
def State.coreDefaults (s : State) : State :=
  let s := State.performReady s.core.unitsLeft s
  let s := s.dataArrive
  let s := s.core.landingTiles.foldl (fun (s : State) t => stateOr (execTileDataLand t s) s) s
  let s := stateOr (execNestStep 0 s) s
  let s := stateOr (execNestComplete s) s
  let s := s.core.mx.writes.foldl (fun (s : State) _ => stateOr (execMWriteComplete 0 s) s) s
  let s := s.core.xc.copies.foldl (fun (s : State) k => (State.runCopy k.id 64 s).completeCopy k.id) s
  let s := (List.range s.core.xc.sigs.length).foldl (fun (s : State) k => stateOr (execXsigCreditApply k s) s) s
  let s := stateOr (execChainRecordRead s) s
  State.writeBack s.core.xc.walk.open_.length s

/-! ## Turns -/

/-- Whether a core has anything to do: a context, or a walk. A restored core that is held for its copy does nothing (22 R471). -/
def Device.active (d : Device) (c : Core) : Bool :=
  let back := match c.resident with
    | some r => (match d.launch r.launch with | some l => l.heldBack | none => false)
    | none => false
  d.clocked c.id && !back && (c.resident.isSome || c.xc.walkBusy)

/-- The first core takes its turn again. -/
def State.rewind (s : State) : State :=
  match s.cores with
  | c :: r => { s with left := [], core := c, right := r }
  | [] => s

/-- The next core east of the focus with anything to do takes its turn; after the last the ref cycle closes, unless a gang
row has resumed in it, whose column 0 issues in this cycle yet (17 R393; DEDUCED, log entry 22). -/
def State.nextTurn (s : State) : State :=
  let idle := s.right.takeWhile fun c => !s.dev.active c
  match s.right.drop idle.length with
  | [] =>
    if s.dev.rows.any Row.again then
      (s.modDev fun d => { d with rows := d.rows.map fun r => { r with again := false } }).rewind
    else s.modDev fun d => { d with closing := true }
  | c :: r => { s with left := s.left ++ s.core :: idle, core := c, right := r }

/-- One turn of the focus core: what has come due, then the next word of C, A, V, M or X, then a stall bound that has
passed, and at last what may come at any time. -/
def State.coreTurn (s : State) (defaults : Bool) : Result :=
  if !s.dev.active s.core then .next s.nextTurn
  else
    match s.internalStep with
    | some r => r
    | none =>
      match s.undecided with
      | some r => .next (s.decideRow r)
      | none =>
        match engines.findSome? s.engineTurn with
        | some r => r
        | none =>
          match engines.find? s.core.boundPassed with
          | some e => execStallBoundExpire e s
          | none =>
            if s.wdPassed then execWatchdogExpire s
            else .next (if defaults then s.coreDefaults else s).nextTurn

/-! ## The end of a ref cycle -/

/-- A step of each core that meets a condition. -/
def State.eachCore (s : State) (p : Core → Bool) (f : State → State) : State :=
  ((s.cores.filter p).map Core.id).foldl (fun (s : State) id => s.atCore id f) s

/-- The control writes of the words of this ref cycle (05 R171, R173, R175; 06 R189). -/
def State.endWords (s : State) : State := s.eachCore (fun c => !c.ctl.atEnd.isEmpty) State.applyEnds

/-- The divisors that take effect in this ref cycle in the columns of gang rows (15 R365). -/
def State.endRowGrants (s : State) : State :=
  s.eachCore (fun c => engines.any fun e => (c.eng e).grantAt.isSome) State.endGrants

/-- The credits that reached the cores (09 R279, R280). -/
def State.endCasks (s : State) : State :=
  s.eachCore (fun c => !c.xc.arrived.isEmpty || !c.xc.held.isEmpty) fun s =>
    let (c, done) := s.core.settleCasks
    done.foldl (fun (s : State) k => s.modCore k.src fun c => c.creditDone k) { s with core := c }

/-- The faults raised in this ref cycle stop their cores or, in handler mode, are contained; drains that are complete
and stops that are complete go on (17 R387–R392). -/
def State.endFaults (s : State) : State :=
  let s := s.eachCore (fun c => !c.flt.raised.isEmpty && c.resident.isSome && decide (c.flt.stop ≠ .stopped)) fun s =>
    if s.core.inHandler then stateOr (execDoubleFault s) s else stateOr (execFaultStop s) s
  let s := s.eachCore (fun c => c.resident.isSome) fun s =>
    match s.rowOf s.core with
    | some r =>
      let s := if r.draining then s.settleFixed else s
      if s.core.flt.stop = .draining then s.modFocus fun c => c.endDrain r
      else if r.draining && (match s.ctx with | some x => x.saveBy.isSome || x.saved.isSome || x.contained.isSome | none => false) then
        s.modFocus fun c => c.endSaveDrain r
      else s
    | none => s
  let s := s.dev.rows.foldl (fun (s : State) r => stateOr (execRowDrainComplete r.id s) s) s
  let s := (s.dev.ctxs.map Ctx.id).foldl State.endContainment s
  s.eachCore (fun c => decide (c.flt.stop = .stopped) && c.resident.isSome) fun s =>
    if (match s.ctx with | some x => x.contained.isSome | none => false) then s else stateOr (execHandlerEntry s) s

/-- A device event of the end of this ref cycle. -/
def State.runDue (s : State) (e : DueEvent) : State :=
  match e with
  | .gate n req => s.gateRequest n req
  | .clwake n => s.wakeCluster n
  | .tlbinvPage ctx page => s.invalidate 0 ctx page
  | .tlbinvContext ctx => s.invalidate 1 ctx 0
  | .tlbinvDevice => s.invalidate 2 0 0
  | .freply abort ctx fseq => s.answer ctx fseq abort
  | .mcgsel v => stateOr (execMcgsel v s) s
  | .mcgent v => stateOr (execMcgent v s) s
  | .ackTimer n => stateOr (execAckTimerExpire (Fin.ofNat 192 n) s) s
  | .ackGrant n => stateOr (execAckGrantExpire (Fin.ofNat 192 n) s) s
  | .railStep n => stateOr (execRailStep (Fin.ofNat 192 n) s) s
  | .quiesced n => stateOr (execClusterQuiesced (Fin.ofNat 192 n) s) s
  | .retainDone n => stateOr (execClusterRetainDone (Fin.ofNat 192 n) s) s
  | .wakeDone n => stateOr (execClusterWakeComplete (Fin.ofNat 192 n) s) s
  | .seize job => s.seizeWrite job
  | .fence id bits => s.applyFence id bits

/-- The tokens of the µs and ms that end in this ref cycle, ahead of the divisors that take effect at its end: they run in the next
(15 R362, R369, R370). -/
def State.endBoost (s : State) : State :=
  let s := stateOr (execBoostTokenTick s) s
  stateOr (execBoostRefill s) s

/-- Whether an event is a write of CLCTL or CLWAKE. -/
def DueEvent.gating : DueEvent → Bool
  | .gate _ _ | .clwake _ => true
  | _ => false

/-- Every other event, in order. -/
def State.endDue (s : State) : State :=
  let now := s.dev.due.filter fun e => !e.gating
  now.foldl State.runDue (s.modDev fun d => { d with due := d.due.filter DueEvent.gating })

/-- The writes of CLCTL and CLWAKE of this ref cycle, behind its placements and wakes first (15 R382). -/
def State.endGating (s : State) : State :=
  let wakes := s.dev.due.filter fun e => match e with | .clwake _ => true | _ => false
  let gates := s.dev.due.filter fun e => match e with | .gate _ _ => true | _ => false
  (wakes ++ gates).foldl State.runDue (s.modDev fun d => { d with due := d.due.filter fun e => !e.gating })

/-- The changes of LIMITED take effect; requests for boost and ramps hold or go on (15 R368, R371, R372). -/
def State.endLimits (s : State) : State :=
  let limits := (List.range 192).filter fun n => (s.dev.cluster n).limitNext.isSome
  limits.foldl (fun (s : State) n =>
    let s := s.modDev fun d => d.modCluster n Cluster.applyLimit
    (s.grantRequests n).retarget n) s

/-- A step for each launch. -/
def State.eachLaunch (s : State) (f : State → Launch → State) : State :=
  (s.dev.launches.map Launch.key).foldl (fun (s : State) key =>
    match s.dev.launch key with
    | some l => f s l
    | none => s) s

/-- What the scheduler and the links do at fixed times: readiness, barriers and communication steps (14 R338, R353, R354;
21 R456). -/
def State.endTimed (s : State) : State :=
  let s := s.eachLaunch fun s l => stateOr (execLaunchReady l.key s) s
  let s := s.dev.rows.foldl (fun (s : State) r => if r.barrier then s else stateOr (execRowBarrierReached r.id s) s) s
  let s := s.eachLaunch fun s l => if l.state = .running then (s.settleGyle l).settleBsync l else s
  let s := s.eachLaunch fun s l => if l.state = .running then stateOr (execCommStepStart l.key s) s else s
  let s := s.linkStep
  s.eachLaunch fun s l => if l.state = .running then stateOr (execCommStepEnd l.key s) s else s

/-- The dispatcher, the packets and credits on their way, and the writers of records in a ref cycle (DESIGN CHOICE, log entry 3). -/
def State.deviceDefaults (s : State) : State :=
  let s := s.dev.packets.foldl (fun (s : State) _ => stateOr (execMulticastCopy 0 s) s) s
  let s := s.dev.credits.foldl (fun (s : State) _ => stateOr (execCaskCreditArrive 0 s) s) s
  let s := s.retryParked fun _ => false
  let s := stateOr (execTlbinvComplete s) s
  let s := s.dev.ctxs.foldl (fun (s : State) c =>
    let s := stateOr (execBoundaryPreempt c.id s) s
    let s := stateOr (execDeepPreempt c.id s) s
    let s := stateOr (execSaveComplete c.id s) s
    let s := stateOr (execSaveDeadlineExpire c.id s) s
    match s.dev.ctx c.id with
    | some x =>
      (match x.saved with
       | some i => if i.kind = 2 ∧ !s.dev.seizure.active then stateOr (execContextResume c.id s) s else s
       | none => s)
    | none => s) s
  let s := stateOr (execFreezeComplete s) s
  let s := (List.range 16).foldl (fun (s : State) q => stateOr (execRecordAccept (Fin.ofNat 16 q) s) s) s
  let s := s.eachLaunch fun s l => if l.state = .ready ∧ l.resume then s.resumeFromGyle l else s
  let s := stateOr (execDispatchVisit s) s
  let s := s.eachLaunch fun s l => if l.state = .bound then stateOr (execTaskStart l.key s) s else s
  let s := (List.range s.dev.loaded.length).foldl (fun (s : State) k => stateOr (execReRelocate k s) s) s
  let s := s.eachLaunch fun s l => stateOr (execLaunchComplete l.key s) s
  let s := (List.range 16).foldl (fun (s : State) q => stateOr (execCompletionRecordWrite (Fin.ofNat 16 q) s) s) s
  let s := stateOr (execFaultReportWrite 0 s) s
  let s := stateOr (execErrorRecordWrite s) s
  stateOr (execMbcmdComplete s) s

/-! ## The management core (23 R479) -/

/-- The system context of a management core before system software has made one: with no address space (DESIGN CHOICE, log
entry 33). -/
def mgmtCtx : Ctx := newCtx
  { job := 0, ctx := 4096, system := true, codebase := 0, codebound := 0, trapvec := 0, ptroot := 0, savebase := 0, logbase := 0
    frqbase := 0 }

/-- The management core in the place of the focus core, in the system context. -/
def State.withMgmt (s : State) : State :=
  let ctx := s.dev.ctxs.find? Ctx.system
  let s := if ctx.isNone then s.modDev fun d => { d with ctxs := d.ctxs ++ [mgmtCtx] } else s
  let held : Resident := ⟨(ctx.getD mgmtCtx).id, 0, BitVec.allOnes 24, .detached, 0, 0, 0, 0, 0⟩
  { s with core := { s.dev.mgmt.core with resident := some held }, right := s.core :: s.right }

/-- The management core has no A, V, M or X engine: their domains stay Off, so that a FORK of one raises *sleeping resource*
(23 R479, 01 R34). -/
def Core.controlOnly (c : Core) : Core :=
  let off := fun (doms : Vector Dom 31) d => vput doms d .off
  { c with doms := [2, 3, 4, 5].foldl off c.doms }

/-- The management core back from the place of the focus core. A fault stops its engine (DESIGN CHOICE, log entry 33). -/
def State.fromMgmt (s : State) : State :=
  match s.right with
  | [] => s
  | c :: r =>
    let m := if s.core.flt.raised.isEmpty then s.core else { s.core with
      ec := { s.core.ec with state := .idle }
      flt := { s.core.flt with raised := [] } }
    { s with
      core := c
      right := r
      dev := { s.dev with
        ctxs := s.dev.ctxs.filter fun x => decide (x.id ≠ mgmtCtx.id)
        mgmt := { s.dev.mgmt with core := m.controlOnly } } }

/-- A ref cycle of the management core: what is due comes, the next word of its firmware region issues in a cycle of its C engine,
and the control writes of the word take effect. A word outside the region stops the engine (23 R479; DESIGN CHOICE, log entry 33). -/
def State.mgmtTurn (s : State) : State :=
  let c := s.dev.mgmt.core
  if c.ec.state ≠ .running ∧ c.accesses.isEmpty ∧ c.ec.landing.isEmpty ∧ c.arrivals.isEmpty then s
  else
    let region := (s.dev.mgmt.firmware.drop 64).take (fld s.dev.mgmt.firmware 8 4)
    let pc := c.ec.pc.toNat
    let s := State.settled 64 s.withMgmt
    let s :=
      if !s.core.ready .c then s
      else if pc % 4 ≠ 0 ∨ region.length < pc + 4 then s.raise .c (mkFault 0x03 0 0 c.ec.pc)
      else stateOr (s.execWord .c (fld region pc 4)) s
    let s := State.performReady s.core.unitsLeft s
    s.dataArrive.applyEnds.fromMgmt

/-! ## The beginning of a ref cycle -/

/-- Whether the next ref cycle is withheld from a cluster: forced skipping of it or of one linked to it, and at most 7
withheld in a row (15 R373, R374; DEDUCED, log entry 9). -/
def Device.withholds (d : Device) (n : Nat) : Bool :=
  let x := d.cluster n
  if !x.skip && d.rows.isEmpty then false
  else
    let group := linkedAll d 6 [n]
    let run := group.foldl (fun a m => max a (d.cluster m).withheldRun) 0
    group.any (fun m => (d.cluster m).skip) && decide (run < 7) && Config.withheld d.draws

/-- An engine at the beginning of a ref cycle: with a new cycle of its own, one less to wait for its results (01 R20;
15 R362); the cycles of a gang row's column are counted but for those in which its stream held (01 R39, R40). -/
def Eng.tick (x : Eng) (held live : Bool) : Eng :=
  let p := if x.phase = 0 then x.divisor - 1 else x.phase - 1
  let hold := x.hold.map fun h => { h with fresh := false }
  let stuck := if x.phase = 0 then held else x.stuck
  if p = 0 then
    let landing := if live then x.landing.map fun l => { l with rem := l.rem - 1 } else x.landing
    { x with
      phase := 0, used := false, hold := hold, landing := landing, stuck := false
      slot := if stuck then x.slot else x.slot + 1 }
  else { x with phase := p, hold := hold, stuck := stuck }

/-- A domain that wakes, one C cycle on. -/
def Dom.tick (x : Dom) : Dom := match x with | .waking r n => .waking r (n - 1) | x => x

/-- The flags of a ref cycle have taken effect (01 R30). -/
def Core.settleFlags (c : Core) : Core :=
  { c with
    regs := { c.regs with w := c.regs.w.map Coupled.settle }
    tiles := { c.tiles with t := c.tiles.t.map Coupled.settle }
    csr := { c.csr with landed := 0 }
    xc := { c.xc with fresh := [], freed := [] } }

/-- A core at the beginning of a ref cycle; `held` says which streams hold in its gang row (01 R40). A domain whose count
runs out is Awake from the beginning of that ref cycle on (01 R49). -/
def Core.tick (c : Core) (held : Engine → Bool) (withheld watched saving : Bool) : Core :=
  let c := c.settleFlags
  let c := { c with flt := { c.flt with wd := if watched then c.flt.wd + 1 else c.flt.wd } }
  if withheld then engines.foldl (fun c e => c.modEng e fun x => { x with used := true }) c
  else
    let c := engines.foldl (fun c e => c.modEng e fun x => x.tick (held e) (c.lands e)) c
    let c := if c.ec.phase = 0 then
        let doms : Vector Dom 31 := if c.flt.wakesHeld then vput c.doms 0 (c.dom 0).tick else c.doms.map Dom.tick
        let age := fun a : Access => { a with age := a.age + 1 }
        (List.range 31).foldl Core.endWake { c with doms := doms, accesses := c.accesses.map age }
      else c
    if c.ex.phase = 0 then c.modXc fun x => x.tickEntries (c.lands .x) saving else c

/-- The cores with a context and the management core, at the beginning of a ref cycle. -/
def State.tickCores (s : State) : State :=
  let s := s.modDev fun d => { d with mgmt := { d.mgmt with core := d.mgmt.core.tick (fun _ => false) false false false } }
  s.mapCores fun c =>
    if !s.dev.active c then c
    else
      let held := match s.rowOf c with
        | some r => r.heldIn
        | none => fun _ => false
      let t : State := { s with core := c }
      c.tick held (s.dev.withholds c.id.cluster) t.watched t.saving

/-- A timer one ref cycle on. -/
def timer (t : Option Nat) : Option Nat := t.map fun n => n - 1

/-- Whether a timer runs out in the ref cycle that begins. -/
def runsOut (t : Option Nat) : Bool := decide (t = some 1)

/-- A cluster at the beginning of a ref cycle, and the events of its timers (15 R364, R371, R372, R380). -/
def Cluster.tick (x : Cluster) (n : Nat) (withheld held : Bool) : Cluster × List DueEvent :=
  let vacant := decide (x.gate = .draining) && !held
  let due := (if runsOut x.ackTimer then [.ackTimer n] else []) ++ (if runsOut x.grant then [.ackGrant n] else [])
    ++ (if runsOut x.railTimer then [.railStep n] else [])
    ++ (if runsOut x.busy then [if x.gate = .waking then .wakeDone n else .retainDone n] else [])
    ++ (if vacant then [.quiesced n] else [])
  let run := if withheld then x.withheldRun + 1 else 0
  ({ x with
      ackTimer := timer x.ackTimer
      grant := timer x.grant
      railTimer := timer x.railTimer
      busy := timer x.busy
      vacant := vacant
      withheldRun := run }, due)

/-- The clusters at the beginning of a ref cycle. -/
def State.tickClusters (s : State) : State :=
  let all := (List.range 192).map fun n =>
    (s.dev.cluster n).tick n (s.dev.withholds n) (decide (s.clusterHeld n ≠ 0))
  let clusters : Vector Cluster 192 := vof 192 fun n => (all.getD n (Cluster.reset, [])).1
  s.modDev fun d => { d with clusters := clusters, due := d.due ++ (all.map Prod.snd).flatten }

/-- The device at the beginning of a ref cycle: three to a nanosecond of GLOBAL_TIME (15 R362, R376), and the event counters
as launches see them (14 R338). -/
def Device.tick (d : Device) : Device :=
  let up := d.timeAdvances
  let gain := d.timeGain
  let skips := d.clusters.toList.any Cluster.skip
  let see := fun j : Job => { j with before := j.counters }
  { d with
    closing := false
    now := d.now + 1
    globalTime := if up then d.globalTime + 1 else d.globalTime
    timeFrac := if up then d.timeFrac + gain - 3000000 else d.timeFrac + gain
    paid := d.paid && !up
    refilled := d.refilled && !up
    freshAt := d.fresh
    draws := if skips then d.draws + 1 else d.draws
    jobs := d.jobs.map see }

/-- The next ref cycle begins. -/
def State.tick (s : State) : State :=
  let s := s.tickCores.tickClusters
  let s := s.modDev fun d => { d with
    rows := d.rows.map fun r => { r with decided := false }
    packets := d.packets.map fun p => { p with fresh := false } }
  ((s.modDev Device.tick).noteBoost).rewind

/-- The end of a ref cycle and the beginning of the next. -/
def State.closeTurn (s : State) (defaults : Bool) : State :=
  let s := s.mgmtTurn.endBoost.endWords.endRowGrants.endCasks.endFaults.endDue.endTimed
  (if defaults then s.deviceDefaults else s).endGating.endLimits.tick

/-- The machine's own next turn (DESIGN CHOICE, log entry 3). -/
def State.ownTurn (s : State) (defaults : Bool) : Result :=
  if s.dev.closing then .next (s.closeTurn defaults) else s.coreTurn defaults

end Sys2Proof.Machine
end

