-- ==== Sys2Proof/Machine/Step.lean ====
section
/-! DEFINITION. One step of the machine, and the placing of one instruction where the next step fetches (log entries 2,
3). -/

namespace Sys2Proof.Machine

/-- One step. The head of the agenda comes first: an event, an access of the host, or what another device, system software or the
time base does; where it says so, or when the agenda is empty, the machine takes its own next turn (DESIGN CHOICE, log entry 3). A word of a stream is no event: it is
fetched. -/
def step (s : State) : Host.Outcome State Fault Refusal :=
  match s.dev.agenda with
  | [] => s.ownTurn true
  | x :: r =>
    let s := s.modDev fun d => { d with agenda := r }
    match x with
    | .go => s.ownTurn false
    | .event i => if i.stream.isSome then .next s else exec i s
    | .hostWrite off v => .next (s.bar0Write off v)
    | .hostRead off => .next (s.hostRead off)
    | .hostStore a size v => .next (s.hostStore a size v)
    | .blockArrive port bytes => .next (s.blockArrive port bytes)
    | .peerStore ctx a size v => .next (s.peerStore ctx a size v)
    | .peerWrite a size v => .next (s.peerWrite a size v)
    | .peerClose device ctx seq => .next (s.peerClose device ctx seq)
    | .peerRollback ctx => .next (s.peerRollback ctx)
    | .portPower port awake => .next (s.portPower port awake)
    | .timeStep v => .next (s.modDev fun d => d.stepTime v)
    | .timeRate ppm => .next (s.modDev fun d => d.setRate ppm)
    | .nestRead steps second off n => .next (s.readAhead steps second off n)
    | .eccCorrected unit num addr => .next (s.eccCorrected unit num addr)

/-- The engine whose stream a word of `nbits` bits belongs to, as `decodeTableWord` reads it. -/
def wordEngine (nbits w : Nat) : Engine :=
  if nbits ≤ 32 then .c
  else if nbits ≤ 64 then
    if (decode .a (w % 2 ^ 64)).toOption.isSome then .a
    else if (decode .v (w % 2 ^ 64)).toOption.isSome then .v
    else .x
  else .m

/-- The stream address at which `withFetchWord` places its word. -/
def fetchAddr : Nat := 0x10000

/-- The context that `withFetchWord` gives the core: number 0, CODEBASE 0, CODEBOUND 1 MiB, all else as at its creation. -/
def fetchCtx : Ctx := newCtx
  { job := 0, ctx := 0, system := false, codebase := 0, codebound := 0x100000, trapvec := 0, ptroot := 0, savebase := 0,
    logbase := 0, frqbase := 0 }

/-- A core on which a detached launch of that context runs, whose next step issues the word at `fetchAddr` on one engine:
nothing else of the core is running or due. -/
def Core.fetchNext (c : Core) (e : Engine) : Core :=
  let idle := fun x : Eng => { x with state := .idle, landing := [], held := [], hold := none, parked := none, skip := 0 }
  let c := { c with
    enabled := true
    capmask := BitVec.allOnes 24
    resident := some ⟨0, 0, BitVec.allOnes 24, .detached, 0, 0, 0, 0, 0⟩
    ec := idle c.ec
    ea := idle c.ea
    ev := idle c.ev
    em := idle c.em
    ex := idle c.ex
    ctl := { c.ctl with slot := none, wait := .none }
    doms := Vector.replicate 31 .awake
    xc := { c.xc with entries := [], waiting := [], copies := [], walk := { c.xc.walk with stop := none } }
    flt := { c.flt with stop := .run, drained := Vector.replicate 5 false, raised := [] }
    accesses := []
    aHalt := none
    xHalt := none }
  c.modEng e fun x => { x with
    state := .running, pc := BitVec.ofNat 64 fetchAddr, phase := 0, used := false, loops := Vector.replicate 4 Loop.reset }

/-- The state with a word stored at `fetchAddr` of HBM and the focus core about to fetch it: this stands for the loading,
the submission and the placement of a program (DESIGN CHOICE, log entry 2). -/
def State.withFetchWord (s : State) (nbits w : Nat) : State :=
  let e := wordEngine nbits w
  { s with
    core := s.core.fetchNext e
    dev := { s.dev with
      closing := false
      agenda := []
      hbm := writeLE s.dev.hbm fetchAddr e.wordBytes (w % 2 ^ (8 * e.wordBytes))
      ctxs := fetchCtx :: s.dev.ctxs.filter fun x => decide (x.id ≠ 0)
      mgmt := { s.dev.mgmt with stopped := Vector.replicate 4 false } } }

end Sys2Proof.Machine
end

