-- ==== Sys2Proof/Safety.lean ====
section
/-! DEFINITION. What counts as a safe run, and the terms in which the statements speak: what a word leaves unchanged, the
canonical forms, and where an access is stored. -/

namespace Sys2Proof

open Machine

/-- A run from a state that never stops: no step of it ends in a fault of the machine or in a refusal. An exception that
the hardware takes is a next state. -/
def SafeRun (s : State) : Prop := ∀ n, ∃ t, Host.Core.run core n s = .next t

/-! ## What a word leaves unchanged -/

/-- An engine without what every issue may change: program counter, index, slot use, hold, loop levels, results in
flight. -/
def Machine.Eng.still (x : Eng) : Eng :=
  { x with pc := 0, index := 0, used := false, hold := none, loops := Vector.replicate 4 Loop.reset, landing := [] }

/-- A core without what the issue of a word that only computes may change: its engines as `Eng.still`, the delay slot, the
watchdog's count, and whether the domains of a resumed core still wait for its first C word (17 R414). -/
def Machine.Core.still (c : Core) : Core :=
  { c with
    ec := c.ec.still
    ea := c.ea.still
    ev := c.ev.still
    em := c.em.still
    ex := c.ex.still
    ctl := { c.ctl with slot := none }
    flt := { c.flt with wd := 0, wakesHeld := false } }

/-- The state with its focus core `still`. -/
def Machine.State.still (s : State) : State := { s with core := s.core.still }

/-- A stream keeps its program counter, index, loop levels and results in flight. -/
def Machine.Eng.sameStream (x y : Eng) : Prop :=
  y.pc = x.pc ∧ y.index = x.index ∧ y.loops = x.loops ∧ y.landing = x.landing

/-- The frame of a word of engine `e` whose results are still in flight: every register, flag, control register, memory
and other core is unchanged, the other streams stand where they stood, and only the word's own stream goes on. -/
def OnlyStream (e : Engine) (s t : State) : Prop :=
  t.still = s.still ∧ ∀ o, o ≠ e → (s.core.eng o).sameStream (t.core.eng o)

/-- The program counter of an engine whose word is neither in a delay slot nor at the end of a loop body. -/
def Straight (s : State) (e : Engine) : Prop :=
  (e = .c → s.core.ctl.slot = none) ∧
    atLoopEnd (s.core.eng e).loops e.wordBytes (s.core.eng e).pc.toNat = false

/-- The stream of an engine goes on behind a word: to the next word where it runs straight on, one index further, and the
word no longer holds. -/
def GoesOn (e : Engine) (s t : State) : Prop :=
  (Straight s e → (t.core.eng e).pc = (s.core.eng e).pc + BitVec.ofNat 64 e.wordBytes) ∧
    (t.core.eng e).index = (s.core.eng e).index + 1 ∧ (t.core.eng e).used = true ∧ (t.core.eng e).hold = none

/-- The results in flight of an engine after a word: those before it, in order, and then the word's own. -/
def Lands (e : Engine) (s t : State) (l : List Landing) : Prop :=
  (t.core.eng e).landing = (s.core.eng e).landing ++ l

/-- The state in which a word has issued, all else it does being done: its stream goes on, the holds that wait for its
engine count it, and the watchdog starts again. -/
def Machine.State.behind (s : State) (e : Engine) (n : NextPc) : State :=
  s.modFocus fun c => (c.advance e n).countIssue e

/-! ## Canonical forms -/

/-- Every store of a core is in its canonical form: scratchpad, side memory, accumulators, cask slots and tiles. -/
def Machine.Core.canonical (c : Core) : Prop :=
  Memory.wf c.mem.spad = true ∧ Memory.wf c.mem.side = true ∧ spWf c.mem.acc = true ∧ spWf c.xc.slots = true ∧
    ∀ t ∈ c.tiles.t.toList, Memory.wf t.data = true

/-- The images that a context keeps for a resumption or a rollback. -/
def Machine.Ctx.images (x : Ctx) : List Image := x.image.toList ++ x.saved.toList ++ x.past.filterMap GylePast.image

/-- Every core of the device is canonical, the management core among them, and so is every core record that a context keeps
for a resumption. -/
def Machine.State.coresCanonical (s : State) : Prop :=
  (∀ c ∈ s.dev.mgmt.core :: s.cores, c.canonical) ∧ ∀ x ∈ s.dev.ctxs, ∀ i ∈ x.images, ∀ k ∈ i.cores, k.2.canonical

/-- Every memory of the device is in its canonical form: HBM, SBM, the host's and the peers' memory, the stored lengths, the
states of the SBM banks and the multicast tables. -/
def Machine.Device.canonical (d : Device) : Prop :=
  Memory.wf d.hbm = true ∧ Memory.wf d.sbm = true ∧ Memory.wf d.host = true ∧ Memory.wf d.peer = true ∧
    spWf d.meta_ = true ∧ spWf d.sbmState = true ∧ spWf d.mcg = true

end Sys2Proof
end

