-- ==== Sys2Proof/Certificates/Slice0/Obligations.lean ====
section
/-! DEFINITION. The statements for the provers, from the numbered rules of spec/. -/

open Sys2Proof Sys2Proof.Machine

/-! ## The issue of a word (01 R19–R30, 03 R92) -/

/-- A word that fails a check of 03 R92 raises the first fault of the order and does nothing else: the fault is kept
with the word's program counter, and no register, no memory and no other stream changes. -/
def Sys2Proof.Claim.failedCheckRaisesItsFault : Prop :=
  ∀ (i : Instr) (e : Engine) (s : State) (f : FaultRec),
    i.stream = some e → s.precheck e i = some f →
      exec i s = .next (s.raise e f) ∧ (s.raise e f).core.flt.raised = s.core.flt.raised ++ [(e, { f with pc := (s.core.eng e).pc })] ∧
        (s.raise e f).core.regs = s.core.regs ∧ (s.raise e f).core.vec = s.core.vec ∧ (s.raise e f).core.tiles = s.core.tiles ∧
        (s.raise e f).core.mem = s.core.mem ∧ (s.raise e f).core.csr = s.core.csr ∧ (s.raise e f).dev = s.dev ∧
        (∀ o, ((s.raise e f).core.eng o).pc = (s.core.eng o).pc ∧ ((s.raise e f).core.eng o).landing = (s.core.eng o).landing)

/-- The checks of 03 R92 before the last pass: the word is no *illegal encoding* in its context, and each of its
capabilities is used by the launch (handler mode apart) and present in the core. -/
def Sys2Proof.Claim.reachesLastCheck (s : State) (e : Engine) (i : Instr) : Prop :=
  s.contextIllegal e i = false ∧ (s.core.inHandler = true ∨ ∀ k ∈ i.caps s.core.mx, s.core.useMask.getLsbD k = true) ∧
    ∀ k ∈ i.caps s.core.mx, s.core.capmask.getLsbD k = true

/-- The order of the checks behind decoding: *illegal encoding*, *undeclared use* for the lowest capability of the word
that the launch does not use (not in handler mode), *fenced capability* for the lowest that the core does not have (that
of several missing ones DETAIL names the lowest is the model's choice, log entry 37), and *privileged operation*: which
words raise that is in ControlRegistersAreGuarded. A word passes exactly when none applies. -/
def Sys2Proof.Claim.checksComeInTheirOrder : Prop :=
  ∀ (i : Instr) (e : Engine) (s : State),
    (s.contextIllegal e i = true → s.precheck e i = some (mkFault 0x01 (i.op e) 0 0)) ∧
    (s.contextIllegal e i = false → s.core.inHandler = false → ∀ k ∈ i.caps s.core.mx, s.core.useMask.getLsbD k = false →
      (∀ j ∈ i.caps s.core.mx, s.core.useMask.getLsbD j = false → k ≤ j) → s.precheck e i = some (mkFault 0x07 k 0 0)) ∧
    (s.contextIllegal e i = false → (s.core.inHandler = true ∨ ∀ k ∈ i.caps s.core.mx, s.core.useMask.getLsbD k = true) →
      ∀ k ∈ i.caps s.core.mx, s.core.capmask.getLsbD k = false →
      (∀ j ∈ i.caps s.core.mx, s.core.capmask.getLsbD j = false → k ≤ j) → s.precheck e i = some (mkFault 0x06 k 0 0)) ∧
    (Claim.reachesLastCheck s e i → ∀ f, s.privileged i = some f → s.precheck e i = some f) ∧
    (s.precheck e i = none ↔ Claim.reachesLastCheck s e i ∧ s.privileged i = none)

/-- A word whose checks fail raises the first fault of the order of 03 R92 and does nothing else; the order of the
checks. -/
def Obligations.FailedChecksRaiseTheirFault : Prop := Claim.failedCheckRaisesItsFault ∧ Claim.checksComeInTheirOrder

/-- What the issue of a word that goes on changes, whatever else the word does: its own stream goes on by one word, and
behind a transfer, the word in the delay slot goes to the target; registers, memory and the other streams are untouched.
-/
def Sys2Proof.Claim.issueMovesOnlyItsStream : Prop :=
  ∀ (s : State) (e : Engine),
    (GoesOn e s (s.behind e .seq) ∧ Lands e s (s.behind e .seq) [] ∧ OnlyStream e s (s.behind e .seq)) ∧
    (∀ target, e = .c → s.core.ctl.slot = some target →
      ((s.behind e .seq).core.ec.pc = target.getD (s.core.ec.pc + 4) ∧ (s.behind e .seq).core.ctl.slot = none))

/-- A loop level whose last body word issues: with more than one pass left the stream goes back to the first body word
and the level counts one down; with one left the level ends (05 R165, 06 R191). -/
def Sys2Proof.Claim.loopLevelCountsDown : Prop :=
  ∀ (s : State) (e : Engine) (lvl : Fin 4) (l : Loop),
    (s.core.eng e).loops[lvl] = l → l.rem ≠ 0 → (e = .c → s.core.ctl.slot = none) →
    (s.core.eng e).pc.toNat % 2 ^ 48 = l.lastAddr e.wordBytes % 2 ^ 48 →
    (∀ k : Fin 4, k ≠ lvl → (s.core.eng e).loops[k].rem = 0) →
      (1 < l.rem → ((s.behind e .seq).core.eng e).pc = BitVec.ofNat 64 l.start ∧
        ((s.behind e .seq).core.eng e).loops = vset (s.core.eng e).loops lvl { l with rem := l.rem - 1 }) ∧
      (l.rem = 1 → ((s.behind e .seq).core.eng e).pc = (s.core.eng e).pc + BitVec.ofNat 64 e.wordBytes ∧
        ((s.behind e .seq).core.eng e).loops = vset (s.core.eng e).loops lvl { l with rem := 0 })

/-- What the issue of a word changes in its own stream: the next word, the delay slot, and the loop levels. -/
def Obligations.IssueMovesOnlyItsStream : Prop := Claim.issueMovesOnlyItsStream ∧ Claim.loopLevelCountsDown

/-! ## Words of C that compute (05 R153–R155) -/

/-- The scalar result of a C word of 05 R153–R155: destination, value and latency, from the registers of a state. -/
def Sys2Proof.Claim.scalar (i : Instr) (s : State) : Option (SReg × Dword × Nat) :=
  let u := fun r : SReg => (s.core.readS r).toNat
  let z := fun r : SReg => (s.core.readS r).toInt
  let nat := fun (d : SReg) (n lat : Nat) => some (d, BitVec.ofNat 64 n, lat)
  let int := fun (d : SReg) (n : Int) (lat : Nat) => some (d, BitVec.ofInt 64 n, lat)
  match i with
  | .add d a b => nat d (u a + u b) 1
  | .sub d a b => int d (z a - z b) 1
  | .and d a b => nat d (u a &&& u b) 1
  | .or d a b => nat d (u a ||| u b) 1
  | .xor d a b => nat d (u a ^^^ u b) 1
  | .sll d a b => nat d (u a * 2 ^ (u b % 64)) 1
  | .srl d a b => nat d (u a / 2 ^ (u b % 64)) 1
  | .sra d a b => int d (z a / 2 ^ (u b % 64)) 1
  | .min d a b => int d (min (z a) (z b)) 1
  | .max d a b => int d (max (z a) (z b)) 1
  | .minu d a b => nat d (min (u a) (u b)) 1
  | .maxu d a b => nat d (max (u a) (u b)) 1
  | .clz d a => nat d (64 - (u a).size) 1
  | .popc d a => nat d ((List.range 64).map fun k => u a / 2 ^ k % 2).sum 1
  | .mul d a b => nat d (u a * u b) 3
  | .mulh d a b => int d (z a * z b / 2 ^ 64) 3
  | .mulhu d a b => nat d (u a * u b / 2 ^ 64) 3
  | .div d a b => int d (if z b = 0 then -1 else (z a).tdiv (z b)) 18
  | .divu d a b => nat d (if u b = 0 then 2 ^ 64 - 1 else u a / u b) 18
  | .rem d a b => int d (if z b = 0 then z a else (z a).tmod (z b)) 18
  | .remu d a b => nat d (if u b = 0 then u a else u a % u b) 18
  | .sel d q a b => nat d (if s.readQ q then u a else u b) 1
  | .addi d a imm => int d (z a + imm.toInt) 1
  | .andi d a imm => nat d (u a &&& (BitVec.ofInt 64 imm.toInt).toNat) 1
  | .ori d a imm => nat d (u a ||| (BitVec.ofInt 64 imm.toInt).toNat) 1
  | .xori d a imm => nat d (u a ^^^ (BitVec.ofInt 64 imm.toInt).toNat) 1
  | .slli d a sh => nat d (u a * 2 ^ sh.val) 1
  | .srli d a sh => nat d (u a / 2 ^ sh.val) 1
  | .srai d a sh => int d (z a / 2 ^ sh.val) 1
  | .li d imm => int d imm.toInt 1
  | .lui d imm => nat d (u d * 2 ^ 18 + imm.toNat) 1
  | _ => none

/-- Every scalar word of 05 R153–R155 whose checks pass issues, its result on its way at the latency of its row. -/
def Sys2Proof.Claim.scalarWordsComplete : Prop :=
  ∀ (i : Instr) (s : State) (d : SReg) (v : Dword) (lat : Nat),
    Claim.scalar i s = some (d, v, lat) → s.precheck .c i = none →
      ∃ t, exec i s = .next t ∧ Lands .c s t [⟨s.core.destS d, .word v, lat, 0⟩] ∧ GoesOn .c s t ∧ OnlyStream .c s t

/-- The predicate of a CMP word (05 R153). -/
def Sys2Proof.Claim.compare (i : Instr) (s : State) : Option (QReg × Bool) :=
  let u := fun r : SReg => (s.core.readS r).toNat
  let z := fun r : SReg => (s.core.readS r).toInt
  match i with
  | .cmpEq q a b => some (q, decide (u a = u b))
  | .cmpNe q a b => some (q, decide (u a ≠ u b))
  | .cmpLt q a b => some (q, decide (z a < z b))
  | .cmpLtu q a b => some (q, decide (u a < u b))
  | .cmpGe q a b => some (q, decide (z b ≤ z a))
  | .cmpGeu q a b => some (q, decide (u b ≤ u a))
  | _ => none

/-- Every compare whose checks pass issues, its predicate on its way at latency 1. -/
def Sys2Proof.Claim.compareWordsComplete : Prop :=
  ∀ (i : Instr) (s : State) (q : QReg) (v : Bool),
    Claim.compare i s = some (q, v) → s.precheck .c i = none →
      ∃ t, exec i s = .next t ∧ Lands .c s t [⟨.pred q, .word (if v then 1 else 0), 1, 0⟩] ∧ GoesOn .c s t ∧
        OnlyStream .c s t

/-- The other sentences of 05 R153: a CMP names its predicate in DST[2:0], and DST[5:3] is reserved; a result for s0, q0
or q7 is discarded; q0 reads true and s0 zero. -/
def Sys2Proof.Claim.compareNamesItsPredicate : Prop :=
  (∀ w : Nat, w < 2 ^ 32 → w / 2 ^ 26 = 3 → w / 2 ^ 4 % 2 ^ 4 < 6 → w / 2 ^ 23 % 2 ^ 3 ≠ 0 →
    ∃ i, decode .c w = .error (.reserved i)) ∧
  (∀ (w : Nat) (i : Instr) (s : State) (q : QReg) (v : Bool), decode .c w = .ok i → Claim.compare i s = some (q, v) →
    q.val = w / 2 ^ 20 % 2 ^ 6) ∧
  (∀ (c : Machine.Core) (x : Landing), x.dest = .sreg 0 ∨ x.dest = .pred 0 ∨ x.dest = .pred 7 →
    c.landOne x = c.orFlags x.flags) ∧
  (∀ s : State, s.core.readS 0 = 0 ∧ s.readQ 0 = true)

/-! ## Results land (01 R20, R21, R8) -/

/-- RESULT_LANDING of an engine with one result due: it leaves the buffer, its flags are set in FPSTATUS, and its
register takes the value; s0, q0, q7 and m0 discard it, and every other register, memory and the device are unchanged.
The result of a scratchpad access is due once the access has performed, and stays until then. -/
def Obligations.DueResultLands : Prop :=
  ∀ (e : Engine) (s : State) (l : Landing) (before after : List Landing),
    (s.core.eng e).landing = before ++ l :: after → l.rem = 0 → (∀ x ∈ before ++ after, x.rem ≠ 0) →
    (∀ id, l.val = .access id → exec (.resultLanding e) s = .next s) ∧
    ((∀ id, l.val ≠ .access id) →
      ∃ t, exec (.resultLanding e) s = .next t ∧ (t.core.eng e).landing = before ++ after ∧
        t.core.csr = { s.core.csr with
          fpstatus := s.core.csr.fpstatus ||| l.flags.zeroExtend 7, landed := s.core.csr.landed ||| l.flags } ∧
        t.dev = s.dev ∧ t.left = s.left ∧ t.right = s.right ∧ t.core.mem = s.core.mem ∧ t.core.mx = s.core.mx ∧
        (∀ v : Dword, l.val = .word v →
          (∀ r : Fin 64, l.dest = .sreg r →
            t.core.regs = (if r = 0 then s.core.regs else { s.core.regs with s := vset s.core.regs.s r v }) ∧
              t.core.vec = s.core.vec ∧ t.core.tiles = s.core.tiles) ∧
          (∀ r : Fin 8, l.dest = .handlerReg r →
            t.core.regs = { s.core.regs with h := vset s.core.regs.h r v } ∧ t.core.vec = s.core.vec ∧
              t.core.tiles = s.core.tiles) ∧
          (∀ q : Fin 8, l.dest = .pred q →
            t.core.regs.s = s.core.regs.s ∧ t.core.regs.h = s.core.regs.h ∧ t.core.regs.w = s.core.regs.w ∧
              t.core.regs.a = s.core.regs.a ∧ t.core.vec = s.core.vec ∧ t.core.tiles = s.core.tiles ∧
              ∀ k : Nat, t.core.regs.qs.getLsbD k =
                (if k = q.val ∧ q ≠ 0 ∧ q ≠ 7 then decide (v ≠ 0) else s.core.regs.qs.getLsbD k)) ∧
          (∀ a : Fin 16, l.dest = .areg a →
            t.core.regs = { s.core.regs with a := vset s.core.regs.a a v } ∧ t.core.vec = s.core.vec ∧
              t.core.tiles = s.core.tiles) ∧
          (∀ w : Fin 16, l.dest = .word w →
            (t.core.regs.w[w]).data = v ∧ (t.core.regs.w[w]).flag = .full ∧ (t.core.regs.w[w]).outstanding = false ∧
              (∀ k : Fin 16, k ≠ w → t.core.regs.w[k] = s.core.regs.w[k]) ∧ t.core.regs.s = s.core.regs.s ∧
              t.core.regs.qs = s.core.regs.qs ∧ t.core.regs.a = s.core.regs.a ∧ t.core.vec = s.core.vec ∧
              t.core.tiles = s.core.tiles)) ∧
        (∀ (x : Vector Word32 128) (v : Fin 32) (en : Mask), l.val = .lanes x → l.dest = .vreg v en →
          t.core.regs = s.core.regs ∧ t.core.tiles = s.core.tiles ∧ t.core.vec.m = s.core.vec.m ∧
            (∀ k : Fin 32, k ≠ v → t.core.vec.v[k] = s.core.vec.v[k]) ∧
            ∀ i : Fin 128, (t.core.vec.v[v])[i] = (if en.getLsbD i then x[i] else (s.core.vec.v[v])[i])) ∧
        (∀ (x : Mask) (m : Fin 8) (en : Mask), l.val = .mask x → l.dest = .mreg m en →
          t.core.regs = s.core.regs ∧ t.core.tiles = s.core.tiles ∧ t.core.vec.v = s.core.vec.v ∧
            (∀ k : Fin 8, k ≠ m → t.core.vec.m[k] = s.core.vec.m[k]) ∧
            ∀ i : Nat, (t.core.vec.m[m]).getLsbD i =
              (if en.getLsbD i ∧ m ≠ 0 then x.getLsbD i else (s.core.vec.m[m]).getLsbD i)) ∧
        (∀ (x : Vector Word32 128) (n : Fin 32) (part : Fin 8) (en : Mask) (completing : Bool),
          l.val = .lanes x → l.dest = .tileRow n part en completing → Memory.wf (s.core.tiles.t[n]).data = true →
            t.core.regs = s.core.regs ∧ t.core.vec = s.core.vec ∧
            (∀ k : Fin 32, k ≠ n → t.core.tiles.t[k] = s.core.tiles.t[k]) ∧
            (completing = true → (t.core.tiles.t[n]).flag = .full ∧ (t.core.tiles.t[n]).outstanding = false) ∧
            ∀ a : Nat, readByte (t.core.tiles.t[n]).data a =
              (if 512 * part.val ≤ a ∧ a < 512 * part.val + 512 ∧ en.getLsbD ((a - 512 * part.val) / 4) then
                BitVec.ofNat 8 ((vget x ((a - 512 * part.val) / 4) 0).toNat / 256 ^ (a % 4))
              else readByte (s.core.tiles.t[n]).data a)))

/-! ## Memory words of C (05 R150–R163) -/

/-- A load word: destination, address, size, sign, class and acquired run (05 R156, R157). -/
def Sys2Proof.Claim.load (i : Instr) (s : State) : Option (SReg × Dword × Nat × Bool × Cls × BitVec 16) :=
  let at_ := fun (b : SReg) (off : BitVec 8) (n : Nat) => s.core.readS b + BitVec.ofInt 64 (off.toInt * (n : Int))
  match i with
  | .ldB d b off k => some (d, at_ b off 1, 1, true, k, 0)
  | .ldBu d b off k => some (d, at_ b off 1, 1, false, k, 0)
  | .ldH d b off k => some (d, at_ b off 2, 2, true, k, 0)
  | .ldHu d b off k => some (d, at_ b off 2, 2, false, k, 0)
  | .ldW d b off k => some (d, at_ b off 4, 4, true, k, 0)
  | .ldWu d b off k => some (d, at_ b off 4, 4, false, k, 0)
  | .ldD d b off k => some (d, at_ b off 8, 8, false, k, 0)
  | .ldAcqW d b run k => some (d, s.core.readS b, 4, true, k, run.mask)
  | .ldAcqD d b run k => some (d, s.core.readS b, 8, false, k, run.mask)
  | _ => none

/-- A store word: value, address, size, whether it takes virtual addresses, class and released run (05 R156, R157,
R159). -/
def Sys2Proof.Claim.store (i : Instr) (s : State) : Option (Dword × Dword × Nat × Bool × Cls × BitVec 16) :=
  let at_ := fun (b : SReg) (off : BitVec 8) (n : Nat) => s.core.readS b + BitVec.ofInt 64 (off.toInt * (n : Int))
  match i with
  | .stB d b off k => some (s.core.readS d, at_ b off 1, 1, false, k, 0)
  | .stH d b off k => some (s.core.readS d, at_ b off 2, 2, false, k, 0)
  | .stW d b off k => some (s.core.readS d, at_ b off 4, 4, false, k, 0)
  | .stD d b off k => some (s.core.readS d, at_ b off 8, 8, false, k, 0)
  | .stRelW d b run k => some (s.core.readS d, s.core.readS b, 4, false, k, run.mask)
  | .stRelD d b run k => some (s.core.readS d, s.core.readS b, 8, false, k, run.mask)
  | .stw d b off k => some (s.core.readS d, at_ b off 8, 8, true, k, 0)
  | .stwRel d b run k => some (s.core.readS d, s.core.readS b, 8, true, k, run.mask)
  | _ => none

/-- The pages of an access of one unit at a home: none for a scratchpad address, else the page that its address was
translated with (19 R432). -/
def Sys2Proof.Claim.pages (s : State) (sel : TlbSel) (h : Home) (va : Nat) : List (Nat × Nat) :=
  match h with
  | .spad _ _ => []
  | _ => [(va, s.pageBits sel va)]

/-- Where a C access goes: a misaligned address faults first, then one of no accepted class, then a sleeping scratchpad
bank; a scratchpad address of an Awake bank is at its byte of the scratchpad that PEER names, and nothing changes; a
virtual address is translated for a word that takes one, and a word that has parked at it holds. -/
def Obligations.CAccessFindsItsPlace : Prop :=
  ∀ (s : State) (ea : Dword) (size : Nat) (kind : Kind) (virt : Bool),
    (ea.toNat % size ≠ 0 → s.cPlace ea size kind virt = .stop (.fault s (mkFault 0x0F size 0 ea))) ∧
    (ea.toNat % size = 0 →
      (classify ea = .bad → s.cPlace ea size kind virt = .stop (.fault s (mkFault 0x0A 1 0 ea))) ∧
      (∀ va, classify ea = .virt va → virt = false →
        s.cPlace ea size kind virt = .stop (.fault s (mkFault 0x0A 1 0 ea))) ∧
      (∀ peer off f, classify ea = .spad peer off → s.touchSpad peer off = some f →
        s.cPlace ea size kind virt = .stop (.fault s f)) ∧
      (∀ peer off, classify ea = .spad peer off → s.touchSpad peer off = none →
        s.cPlace ea size kind virt = .at_ s (.spad (s.core.peerId peer) off)) ∧
      (∀ va h e, classify ea = .virt va → virt = true → (∀ n, s.core.ec.parked ≠ some (va, n)) → (s.translate .c va kind).1 = .ok h e →
        s.cPlace ea size kind virt = .at_ (s.translate .c va kind).2 h) ∧
      (∀ va, classify ea = .virt va → virt = true → (∀ n, s.core.ec.parked ≠ some (va, n)) → (s.translate .c va kind).1 = .invalid →
        s.cPlace ea size kind virt = .stop (.fault (s.translate .c va kind).2 (mkFault 0x09 kind.num 0 ea))) ∧
      (∀ va d, classify ea = .virt va → virt = true → (∀ n, s.core.ec.parked ≠ some (va, n)) → (s.translate .c va kind).1 = .forbidden d →
        s.cPlace ea size kind virt = .stop (.fault (s.translate .c va kind).2 (mkFault 0x0A d 0 ea))) ∧
      (∀ va n, classify ea = .virt va → virt = true → s.core.ec.parked = some (va, n) →
        s.cPlace ea size kind virt = .stop (.hold s plainHold)))

/-- Every load issues where its address is found and no earlier virtual access of its class is pending: it is put behind
the earlier accesses, and its register waits for its value at latency 5. -/
def Obligations.LoadWordsComplete : Prop :=
  ∀ (i : Instr) (s s' : State) (d : SReg) (ea : Dword) (size : Nat) (sg : Bool) (cls : Cls) (run : BitVec 16) (h : Home),
    Claim.load i s = some (d, ea, size, sg, cls, run) → s.precheck .c i = none → s.spadHolds ea cls 0 = false →
    s.cPlace ea size .read false = .at_ s' h →
      ∃ t, exec i s = .next t ∧ Lands .c s t [⟨s.core.destS d, .access s.dev.fresh, 5, 0⟩] ∧ GoesOn .c s t ∧
        t.core.accesses = s.core.accesses ++
          [⟨s.dev.fresh, .c, cls, run, .load size sg, [⟨h, ea.toNat, size, 0, 0, 0, none, none, false⟩], 0, true,
            Claim.pages s .c h ea.toNat⟩] ∧
        t.dev = { s.dev with fresh := s.dev.fresh + 1 } ∧
        OnlyStream .c s { t with core := { t.core with accesses := s.core.accesses }, dev := s.dev }

/-- Every store issues where its address is found: it is put behind the earlier accesses with the low bytes of its
register; no byte of memory and no register is written before it performs. `s'` is the state behind the translation. -/
def Sys2Proof.Claim.storeWordsComplete : Prop :=
  ∀ (i : Instr) (s s' : State) (v ea : Dword) (size : Nat) (virt : Bool) (cls : Cls) (run : BitVec 16) (h : Home),
    Claim.store i s = some (v, ea, size, virt, cls, run) → s.precheck .c i = none → s.spadHolds ea cls run = false →
    s.cPlace ea size .write virt = .at_ s' h →
      ∃ t fixed, exec i s = .next t ∧ GoesOn .c s t ∧ Lands .c s t [] ∧
        (fixed = true ↔ ∃ c off, h = .spad c off) ∧
        t.core.accesses = s'.core.accesses ++
          [⟨s'.dev.fresh, .c, cls, run, .store, [⟨h, ea.toNat, size, 0, v.toNat % 256 ^ size, 0, none, none, false⟩], 0, fixed,
            Claim.pages s' .c h ea.toNat⟩] ∧
        t.dev = { s'.dev with fresh := s'.dev.fresh + 1 } ∧
        OnlyStream .c s' { t with core := { t.core with accesses := s'.core.accesses }, dev := s'.dev }

/-- LDW issues where its word register can be written and its address is found: the register is filling, and its data
come with the access. -/
def Sys2Proof.Claim.longLoadCompletes : Prop :=
  ∀ (w : WNo) (b : SReg) (stall : Stall) (cls : Cls) (s s' : State) (h : Home),
    s.precheck .c (.ldw w b stall cls) = none → (s.core.regs.w[w]).canWrite .c = true →
    s.spadHolds (s.core.readS b) cls 0 = false → s.cPlace (s.core.readS b) 8 .read true = .at_ s' h →
      ∃ t, exec (.ldw w b stall cls) s = .next t ∧ GoesOn .c s t ∧ Lands .c s t [] ∧
        t.core.accesses = s'.core.accesses ++
          [⟨s'.dev.fresh, .c, cls, 0, .ldw w, [⟨h, (s.core.readS b).toNat, 8, 0, 0, 0, none, none, false⟩], 0, false,
            Claim.pages s' .c h (s.core.readS b).toNat⟩] ∧
        (t.core.regs.w[w]).flag = .filling .c ∧ (t.core.regs.w[w]).outstanding = true ∧
        (t.core.regs.w[w]).data = (s'.core.regs.w[w]).data ∧
        (∀ k : Fin 16, k ≠ w → t.core.regs.w[k] = s'.core.regs.w[k]) ∧
        t.dev = { s'.dev with fresh := s'.dev.fresh + 1 } ∧
        OnlyStream .c s'
          { t with core := { t.core with accesses := s'.core.accesses, regs := s'.core.regs }, dev := s'.dev }

/-- Every store and LDW issues, its access behind the earlier ones. -/
def Obligations.StoresAndLongLoadsComplete : Prop := Claim.storeWordsComplete ∧ Claim.longLoadCompletes

/-- An atomic word: destination, address, function, size, operand, comparand and class (05 R160, R161). -/
def Sys2Proof.Claim.atomic (i : Instr) (s : State) : Option (SReg × Dword × Nat × Nat × Dword × Dword × Cls) :=
  let r := s.core.readS
  let amo := fun (d a b : SReg) (k : Cls) (fn size : Nat) => some (d, r a, fn, size, r b, (0 : Dword), k)
  match i with
  | .amoAddW d a b k => amo d a b k 0 4
  | .amoAndW d a b k => amo d a b k 1 4
  | .amoOrW d a b k => amo d a b k 2 4
  | .amoXorW d a b k => amo d a b k 3 4
  | .amoSminW d a b k => amo d a b k 4 4
  | .amoSmaxW d a b k => amo d a b k 5 4
  | .amoUminW d a b k => amo d a b k 6 4
  | .amoUmaxW d a b k => amo d a b k 7 4
  | .amoSwapW d a b k => amo d a b k 8 4
  | .amoFaddW d a b k => amo d a b k 9 4
  | .amoBfaddW d a b k => amo d a b k 10 4
  | .amoAddD d a b k => amo d a b k 0 8
  | .amoAndD d a b k => amo d a b k 1 8
  | .amoOrD d a b k => amo d a b k 2 8
  | .amoXorD d a b k => amo d a b k 3 8
  | .amoSminD d a b k => amo d a b k 4 8
  | .amoSmaxD d a b k => amo d a b k 5 8
  | .amoUminD d a b k => amo d a b k 6 8
  | .amoUmaxD d a b k => amo d a b k 7 8
  | .amoSwapD d a b k => amo d a b k 8 8
  | .casW d a b k => some (d, r a, 16, 4, r b, r d, k)
  | .casD d a b k => some (d, r a, 16, 8, r b, r d, k)
  | _ => none

/-- Every atomic completes. On the scratchpad it issues at once, its old value at latency 5. On a virtual address that
can perform it the word holds with its access in order, its operand and comparand those of its registers in the cycle in
which it sends the access (the model's choice, log entry 35: 05 R162 is silent on it), and once the location has
performed it, it issues with the old value at latency 5. -/
def Obligations.AtomicWordsComplete : Prop :=
  ∀ (i : Instr) (s : State) (d : SReg) (ea : Dword) (fn size : Nat) (x y : Dword) (cls : Cls),
    Claim.atomic i s = some (d, ea, fn, size, x, y, cls) → s.precheck .c i = none →
      (∀ (s' : State) (id : CoreId) (off : Nat), s.core.ctl.amo = none → s.spadHolds ea cls 0 = false →
        s.cPlace ea size .atomic true = .at_ s' (.spad id off) →
          ∃ t, exec i s = .next t ∧ Lands .c s t [⟨s.core.destS d, .access s.dev.fresh, 5, 0⟩] ∧ GoesOn .c s t ∧
            t.core.accesses = s.core.accesses ++ [⟨s.dev.fresh, .c, cls, 0, .amo fn size x y,
              [⟨.spad id off, ea.toNat, size, 0, 0, 0, none, none, false⟩], 0, true, []⟩] ∧
            t.dev = { s.dev with fresh := s.dev.fresh + 1 } ∧
            OnlyStream .c s { t with core := { t.core with accesses := s.core.accesses }, dev := s.dev }) ∧
      (∀ (s' : State) (h : Home), s.core.ctl.amo = none → s.spadHolds ea cls 0 = false →
        s.cPlace ea size .atomic true = .at_ s' h → (∀ c off, h ≠ .spad c off) → s'.dev.amoSupported h fn = true →
          ∃ t, exec i s = .next t ∧ t.core.ctl.amo = some (s'.dev.fresh, none) ∧ t.core.ec.hold.isSome = true ∧
            t.core.ec.pc = s.core.ec.pc ∧ t.core.regs = s.core.regs ∧
            t.core.accesses = s'.core.accesses ++ [⟨s'.dev.fresh, .c, cls, 0, .amo fn size x y,
              [⟨h, ea.toNat, size, 0, 0, 0, none, none, false⟩], 0, false, [(ea.toNat, s'.pageBits .c ea.toNat)]⟩]) ∧
      (∀ (s' : State) (h : Home), s.core.ctl.amo = none → s.spadHolds ea cls 0 = false →
        s.cPlace ea size .atomic true = .at_ s' h → s'.dev.amoSupported h fn = false →
          exec i s = .next (s.raise .c (mkFault 0x0E (if fn = 16 then size / 8 else fn) 0 ea))) ∧
      (∀ (id : Nat) (old : Dword), s.core.ctl.amo = some (id, some old) →
        ∃ t, exec i s = .next t ∧ Lands .c s t [⟨s.core.destS d, .word old, 5, 0⟩] ∧ GoesOn .c s t ∧
          t.core.ctl.amo = none ∧
          OnlyStream .c s { t with core := { t.core with ctl := { t.core.ctl with amo := some (id, some old) } } })

/-! ## Accesses perform (10 R297, R299; 11 R303; 05 R156–R161) -/

/-- The memory and the byte of it that a home names; two homes with one key are one byte. -/
def Sys2Proof.Claim.key : Home → Nat × CoreId × Nat
  | .spad c off => (0, c, off)
  | .hbm a _ => (1, ⟨0, 0, 0⟩, a)
  | .metadata b => (2, ⟨0, 0, 0⟩, b)
  | .sbm a => (3, ⟨0, 0, 0⟩, a)
  | .host a => (4, ⟨0, 0, 0⟩, a)
  | .peer a => (5, ⟨0, 0, 0⟩, a)

/-- The byte that a home holds. -/
def Sys2Proof.Claim.byteAt (s : State) : Home → Byte
  | .spad c off => readByte (s.coreAt c).mem.spad off
  | .hbm a _ => readByte s.dev.hbm a
  | .metadata b => metaByte s.dev b
  | .sbm a => readByte s.dev.sbm a
  | .host a => readByte s.dev.host a
  | .peer a => readByte s.dev.peer a

/-- Whether a home lies in a memory of the device that instructions write byte by byte. -/
def Sys2Proof.Claim.plain (s : State) : Home → Prop
  | .spad c _ => ∃ x ∈ s.cores, x.id = c
  | .metadata _ => False
  | _ => True

/-- A write needs no release of held host effects: the context is unprotected already, or its log has room. -/
def Sys2Proof.Claim.logRoom (s : State) (ctx : Nat) : Prop :=
  ∀ c, s.dev.ctx ctx = some c → c.unprot = true ∨ c.used + 16 ≤ c.logCapacity

/-- The little-endian bytes of a value at `n` bytes from a home, and every other byte as before. -/
def Sys2Proof.Claim.stored (s t : State) (h : Home) (n v : Nat) : Prop :=
  ∀ g : Home, Claim.plain s g →
    (∀ k, k < n → Claim.key g = Claim.key (h.shift k) → Claim.byteAt t g = BitVec.ofNat 8 (v / 256 ^ k)) ∧
    ((∀ k, k < n → Claim.key g ≠ Claim.key (h.shift k)) → Claim.byteAt t g = Claim.byteAt s g)

/-- The access that performs: the `k`-th of the core, the last of its units, in its turn, behind the scale byte of an MX
element. -/
def Sys2Proof.Claim.performs (s : State) (k : Nat) (a : Access) (u : AUnit) : Prop :=
  s.core.accesses[k]? = some a ∧ a.units = [u] ∧ (u.scale = none ∨ u.got ≠ none) ∧ s.canPerform k = true

/-- A load that performs gives its register the bytes at its home, sign-extended or zero-extended, and leaves the queue;
no memory, no other register and no other core changes. -/
def Sys2Proof.Claim.loadPerforms : Prop :=
  ∀ (s : State) (k : Nat) (a : Access) (u : AUnit) (size : Nat) (sg : Bool),
    Claim.performs s k a u → a.op = .load size sg →
      ∃ t, exec (.accessPerform k) s = .next t ∧
        t.core.accesses = s.core.accesses.filter (fun b => decide (b.id ≠ a.id)) ∧
        t.core.ec.landing = s.core.ec.landing.map (fun l => if l.val = .access a.id then
          { l with val := .word (extend sg size (s.readHome s.core.ctxId u.home u.size)) } else l) ∧
        t.core.flt.savedC = s.core.flt.savedC.map (fun l => if l.val = .access a.id then
          { l with val := .word (extend sg size (s.readHome s.core.ctxId u.home u.size)) } else l) ∧
        t.dev = s.dev ∧ t.left = s.left ∧ t.right = s.right ∧ t.core.regs = s.core.regs ∧ t.core.mem = s.core.mem ∧
        t.core.vec = s.core.vec ∧ t.core.tiles = s.core.tiles ∧ t.core.csr = s.core.csr

/-- A store, a unit of a tile store or of a drain, that performs writes the low bytes of its value at its home, least
significant first, and no other byte of any memory. The home is one that can be written at once: a write to the host is
held while its gyle is protected. -/
def Obligations.StorePerforms : Prop :=
  ∀ (s : State) (k : Nat) (a : Access) (u : AUnit),
    Claim.performs s k a u → (a.op = .store ∨ a.op = .tileStore ∨ a.op = .drain) → u.tag = 0 → 0 < u.size → u.size ≤ 8 →
    Claim.plain s u.home → s.dev.canonical → s.coresCanonical →
    Claim.logRoom s s.core.ctxId →
    (∀ x, u.home = .host x → ∀ c, s.dev.ctx s.core.ctxId = some c → c.unprot = true) →
      ∃ t, exec (.accessPerform k) s = .next t ∧ Claim.stored s t u.home u.size u.data ∧
        t.core.accesses = s.core.accesses.filter (fun b => decide (b.id ≠ a.id)) ∧
        t.core.regs = s.core.regs ∧ t.core.vec = s.core.vec ∧ t.core.tiles = s.core.tiles ∧ t.core.csr = s.core.csr ∧
        (∀ e, t.core.eng e = s.core.eng e)

/-- A write of a protected context to host memory is held: no byte of host memory changes, the write is kept in order,
the context itself reads it, and what any other context, or the host, reads stays (17 R402, 11 R317). -/
def Obligations.HostWriteIsHeld : Prop :=
  ∀ (d : Device) (ctx a n v : Nat) (c : Ctx),
    d.ctx ctx = some c → c.unprot = false → c.used + 1 ≤ c.logCapacity → Memory.wf d.host = true →
      (d.hostWrite ctx a n v).host = d.host ∧
      ((d.hostWrite ctx a n v).ctx ctx).map Ctx.held = some (c.held ++ [⟨a, n, v⟩]) ∧
      (∀ i, i < n → readByte (hostView (d.hostWrite ctx a n v) ctx) (a + i) = BitVec.ofNat 8 (v / 256 ^ i)) ∧
      (∀ b, (b < a ∨ a + n ≤ b) → readByte (hostView (d.hostWrite ctx a n v) ctx) b = readByte (hostView d ctx) b) ∧
      (∀ x, x ≠ ctx → hostView (d.hostWrite ctx a n v) x = hostView d x ∧
        ((d.hostWrite ctx a n v).ctx x).map Ctx.held = (d.ctx x).map Ctx.held)

/-- The new value of an integer AMO of FN 0–8, of `w` bits (05 R160). -/
def Sys2Proof.Claim.amo (fn w old x : Nat) : Nat :=
  let b := x % 2 ^ w
  let z := fun n : Nat => (BitVec.ofNat w n).toInt
  match fn with
  | 0 => (old + b) % 2 ^ w
  | 1 => old &&& b
  | 2 => old ||| b
  | 3 => old ^^^ b
  | 4 => if z b < z old then b else old
  | 5 => if z old < z b then b else old
  | 6 => if b < old then b else old
  | 7 => if old < b then b else old
  | _ => b

/-- An atomic that performs at a scratchpad byte or in SBM is one read and one write: its register receives the old
value, and the location the new one of its function; a compare and swap writes only where the old value equals the
comparand, else no byte changes. -/
def Obligations.AtomicPerforms : Prop :=
  ∀ (s : State) (k : Nat) (a : Access) (u : AUnit) (fn size : Nat) (x y : Dword),
    Claim.performs s k a u → a.op = .amo fn size x y → (fn < 9 ∨ fn = 16) → (size = 4 ∨ size = 8) → Claim.plain s u.home →
    s.dev.canonical → s.coresCanonical → Claim.logRoom s s.core.ctxId → ((∃ c off, u.home = .spad c off) ∨ ∃ b, u.home = .sbm b) →
      ∃ t, exec (.accessPerform k) s = .next t ∧
        (let old := s.readHome s.core.ctxId u.home size
         t.core.ec.landing = s.core.ec.landing.map (fun l => if l.val = .access a.id then
           { l with val := .word (extend (decide (size = 4)) size old) } else l) ∧
         (fn < 9 → Claim.stored s t u.home size (Claim.amo fn (8 * size) old x.toNat)) ∧
         (fn = 16 → old = y.toNat % 2 ^ (8 * size) → Claim.stored s t u.home size (x.toNat % 2 ^ (8 * size))) ∧
         (fn = 16 → old ≠ y.toNat % 2 ^ (8 * size) → Claim.stored s t u.home 0 0)) ∧
        t.core.accesses = s.core.accesses.filter (fun b => decide (b.id ≠ a.id)) ∧ t.core.regs = s.core.regs

/-- LDW_DATA_ARRIVE and TILE_DATA_LAND: the register whose data have come holds them and is full; nothing else changes.
-/
def Sys2Proof.Claim.arrivedDataFillTheirRegister : Prop :=
  (∀ (w : Fin 16) (v : Dword) (s : State), s.core.arrivals = [(w, v)] →
    ∃ t, exec (.ldwDataArrive w) s = .next t ∧ (t.core.regs.w[w]).data = v ∧ (t.core.regs.w[w]).flag = .full ∧
      (t.core.regs.w[w]).outstanding = false ∧ (∀ k : Fin 16, k ≠ w → t.core.regs.w[k] = s.core.regs.w[k]) ∧
      t.core.arrivals = [] ∧ t = { s with core := { s.core with arrivals := [], regs := t.core.regs } } ∧
      t.core.regs = { s.core.regs with w := t.core.regs.w }) ∧
  (∀ (n : Fin 32) (s : State), (s.core.tiles.t[n]).outstanding = true → (s.core.tiles.t[n]).flag = .filling .a →
    s.core.tileLoading n = false →
    ∃ t, exec (.tileDataLand n) s = .next t ∧ (t.core.tiles.t[n]).flag = .full ∧
      (t.core.tiles.t[n]).outstanding = false ∧ (t.core.tiles.t[n]).data = (s.core.tiles.t[n]).data ∧
      (∀ k : Fin 32, k ≠ n → t.core.tiles.t[k] = s.core.tiles.t[k]) ∧
      t = { s with core := { s.core with tiles := { s.core.tiles with t := t.core.tiles.t } } })

/-- A load that performs, and the data of a long load or of a tile load that arrive, fill their register and change
nothing else. -/
def Obligations.LoadsPerform : Prop := Claim.loadPerforms ∧ Claim.arrivedDataFillTheirRegister

/-! ## Control flow of C, and the streams (05 R164–R168; 06 R190–R193; 07 R224, R225; 08 R251; 09 R282) -/

/-- A transfer: its target if it is taken, and the value it puts into s63 (05 R164). -/
def Sys2Proof.Claim.transfer (i : Instr) (s : State) : Option (Option Dword × Option Dword) :=
  let pc := s.core.ec.pc
  let to_ := fun off : Int => pc + BitVec.ofInt 64 (4 * off)
  match i with
  | .br q off => some (if s.readQ q then some (to_ off.toInt) else none, none)
  | .brn q off => some (if s.readQ q then none else some (to_ off.toInt), none)
  | .jmp imm => some (some (to_ imm.toInt), none)
  | .call imm => some (some (to_ imm.toInt), some (pc + 8))
  | .calli a => some (some (s.core.readS a), some (pc + 8))
  | .ret => some (some (s.core.readS 63), none)
  | _ => none

/-- Every transfer whose checks pass issues: the word behind it is in its delay slot, whatever the condition, and s63
receives the address of the call + 8 at latency 1. -/
def Sys2Proof.Claim.transferWordsComplete : Prop :=
  ∀ (i : Instr) (s : State) (target link : Option Dword),
    Claim.transfer i s = some (target, link) → s.precheck .c i = none →
      ∃ t, exec i s = .next t ∧ t.core.ec.pc = s.core.ec.pc + 4 ∧ t.core.ctl.slot = some target ∧
        t.core.ec.index = s.core.ec.index + 1 ∧ t.core.ec.loops = s.core.ec.loops ∧
        Lands .c s t (match link with | some v => [⟨s.core.destS 63, .word v, 1, 0⟩] | none => []) ∧ OnlyStream .c s t

/-- The loop words: engine, level, body length, and the count, immediate or in a word register. -/
def Sys2Proof.Claim.loop : Instr → Option (Engine × Fin 4 × Nat × LoopCount)
  | .aloop lvl n len => some (.a, lvl, len.toNat, n)
  | .vloop lvl n len => some (.v, lvl, len.toNat, n)
  | .mloop lvl n len => some (.m, lvl, len.toNat, n)
  | .xloop lvl n len => some (.x, lvl, len.toNat, n)
  | _ => none

/-- The engine of a stream runs, and the domain it needs is Awake; an X word moreover finds no stopped word or copy. -/
def Sys2Proof.Claim.engineUp (s : State) (e : Engine) : Prop :=
  (∀ d, e.dom? = some d → s.core.awake d = true) ∧
    (e = .x → s.core.xHalt = none ∧ ∀ k ∈ s.core.xc.copies, k.stop = none)

/-- A loop level that starts: the level holds the length, the address behind the loop word and the count, and the stream
goes on there, or behind the body where the count is 0. -/
def Sys2Proof.Claim.loopStarted (s t : State) (e : Engine) (lvl : Fin 4) (len count : Nat) : Prop :=
  let start := (s.core.eng e).pc + BitVec.ofNat 64 e.wordBytes
  (t.core.eng e).loops = vset (s.core.eng e).loops lvl ⟨len, start.toNat % 2 ^ 48, count⟩ ∧
    (t.core.eng e).pc = (if count = 0 then start + BitVec.ofNat 64 (e.wordBytes * len) else start) ∧
    (t.core.eng e).index = (s.core.eng e).index + 1 ∧ Lands e s t []

/-- Every loop word completes: LOOP with its count in a register, the others with an immediate count or with one in a
full word register, which is consumed. -/
def Sys2Proof.Claim.loopWordsComplete : Prop :=
  (∀ (cnt : SReg) (lvl : Fin 4) (len : BitVec 16) (s : State), s.precheck .c (.loop cnt lvl len) = none →
    ∃ t, exec (.loop cnt lvl len) s = .next t ∧
      Claim.loopStarted s t .c lvl len.toNat (s.core.readS cnt).toNat ∧ OnlyStream .c s t) ∧
  (∀ (i : Instr) (e : Engine) (lvl : Fin 4) (len : Nat) (n : LoopCount) (s : State),
    Claim.loop i = some (e, lvl, len, n) → s.precheck e i = none → Claim.engineUp s e →
      (∀ k : BitVec 20, n = .imm k →
        ∃ t, exec i s = .next t ∧ Claim.loopStarted s t e lvl len k.toNat ∧ OnlyStream e s t) ∧
      (∀ (w : WNo) (st : Stall), n = .word w st → (s.core.regs.w[w]).canRead false = true →
        ∃ t, exec i s = .next t ∧ Claim.loopStarted s t e lvl len (s.core.regs.w[w]).data.toNat ∧
          (t.core.regs.w[w]).flag = .empty ∧ (t.core.regs.w[w]).data = (s.core.regs.w[w]).data ∧
          (∀ k : Fin 16, k ≠ w → t.core.regs.w[k] = s.core.regs.w[k]) ∧
          OnlyStream e s { t with core := { t.core with regs := s.core.regs } }))

/-- Every transfer and every loop word completes. -/
def Obligations.TransfersAndLoopsComplete : Prop := Claim.transferWordsComplete ∧ Claim.loopWordsComplete

/-- FORK: once every named engine is Idle and their domains are Awake, each starts at its entry in the registers from sA
on, taken in the order A, V, M, X; nothing else changes. -/
def Sys2Proof.Claim.forkStartsEngines : Prop :=
  ∀ (es : BitVec 4) (a : SReg) (s : State), s.precheck .c (.fork es a) = none →
    (∀ e ∈ forkSet es, (s.core.eng e).state = .idle ∧ ∀ d, e.dom? = some d → s.core.awake d = true) →
      ∃ t, exec (.fork es a) s = .next t ∧ GoesOn .c s t ∧ Lands .c s t [] ∧ t.dev = s.dev ∧ t.left = s.left ∧ t.right = s.right ∧
        ({ t.core with ea := s.core.ea, ev := s.core.ev, em := s.core.em, ex := s.core.ex } : Core).still = s.core.still ∧
        (∀ e : Engine, e ≠ .c → t.core.eng e = { s.core.eng e with
          state := (t.core.eng e).state, pc := (t.core.eng e).pc, used := (t.core.eng e).used, hold := (t.core.eng e).hold }) ∧
        ∀ (e : Engine), e ≠ .c →
          (∀ j, (forkSet es)[j]? = some e → (t.core.eng e).state = .running ∧
            (t.core.eng e).pc = s.core.readS (Fin.ofNat 64 (a.val + j))) ∧
          (e ∉ forkSet es → (t.core.eng e).state = (s.core.eng e).state ∧ (t.core.eng e).pc = (s.core.eng e).pc)

/-- RENDEZ: once each named engine is Joined or Idle, each is Idle and the word issues; nothing else changes. -/
def Sys2Proof.Claim.rendezMakesEnginesIdle : Prop :=
  ∀ (es : BitVec 4) (st : Stall) (s : State), s.precheck .c (.rendez es st) = none →
    (∀ e ∈ forkSet es, (s.core.eng e).state = .joined ∨ (s.core.eng e).state = .idle) →
      ∃ t, exec (.rendez es st) s = .next t ∧ GoesOn .c s t ∧ Lands .c s t [] ∧ t.dev = s.dev ∧ t.left = s.left ∧ t.right = s.right ∧
        ({ t.core with ea := s.core.ea, ev := s.core.ev, em := s.core.em, ex := s.core.ex } : Core).still = s.core.still ∧
        (∀ e : Engine, e ≠ .c → t.core.eng e = { s.core.eng e with
          state := (t.core.eng e).state, pc := (t.core.eng e).pc, used := (t.core.eng e).used, hold := (t.core.eng e).hold }) ∧
        ∀ (e : Engine), (t.core.eng e).state =
          (if e ∈ forkSet es then EngState.idle else (s.core.eng e).state)

/-- AJOIN, VJOIN and MJOIN make their engine Joining and stay at their word, XHALT makes its engine Joined; a Joining
engine whose results have landed, and with A whose tile writes have, becomes Joined, also in a column that drains, as
long as it has not stopped (01 R33, R35). -/
def Sys2Proof.Claim.enginesJoin : Prop :=
  (∀ (i : Instr) (e : Engine) (s : State), (i, e) ∈ [(Instr.ajoin, Engine.a), (.vjoin, .v), (.mjoin, .m)] →
    s.precheck e i = none → Claim.engineUp s e →
      ∃ t, exec i s = .next t ∧ (t.core.eng e).state = .joining ∧ (t.core.eng e).pc = (s.core.eng e).pc ∧
        (t.core.eng e).index = (s.core.eng e).index + 1 ∧
        (t.core.eng e).landing = (s.core.eng e).landing ∧ t.core.regs = s.core.regs ∧ t.core.mem = s.core.mem ∧
        t.dev = s.dev) ∧
  (∀ s : State, s.precheck .x .xhalt = none → Claim.engineUp s .x →
    ∃ t, exec .xhalt s = .next t ∧ t.core.ex.state = .joined ∧ t.core.ex.pc = s.core.ex.pc ∧
      t.core.regs = s.core.regs ∧ t.core.mem = s.core.mem ∧ t.dev = s.dev) ∧
  (∀ (e : Engine) (s : State), (s.core.eng e).state = .joining → (s.core.eng e).landing = [] →
    (e = .m → s.core.matrixBusy = false) → (e = .a → s.core.tileWriting = false) → (s.core.flt.stop = .run ∨ s.core.flt.stop = .draining) →
    vget s.core.flt.drained e.num false = false →
    exec (.engineJoined e) s = .next { s with core := s.core.setEng e { s.core.eng e with state := .joined } })

/-- FORK starts its engines, a JOIN word stops its own, and RENDEZ makes the joined ones Idle. -/
def Obligations.StreamsForkAndJoin : Prop := Claim.forkStartsEngines ∧ Claim.rendezMakesEnginesIdle ∧ Claim.enginesJoin

/-- WPUT and APUSH fill an empty word register at latency 1; WGET and APOP take a full one, and their register receives
its 64 bits at latency 1 (05 R168, 06 R190). -/
def Sys2Proof.Claim.wordRegisterWordsComplete : Prop :=
  ∀ (w : WNo) (r : SReg) (a : ANo) (st : Stall) (s : State),
    (s.precheck .c (.wput w r st) = none → (s.core.regs.w[w]).canWrite .c = true →
      exec (.wput w r st) s = .next ((s.modFocus fun c =>
        (c.modW w fun x => { x with flag := .filling .c, was := some x.seen, outstanding := true, writer := some .c }).land
          .c (.word w) (.word (s.core.readS r)) 1).behind .c .seq)) ∧
    (s.precheck .a (.apush w a st) = none → s.core.awake 2 = true → (s.core.regs.w[w]).canWrite .a = true →
      exec (.apush w a st) s = .next ((s.modFocus fun c =>
        (c.modW w fun x => { x with flag := .filling .a, was := some x.seen, outstanding := true, writer := some .a }).land
          .a (.word w) (.word s.core.regs.a[a]) 1).behind .a .seq)) ∧
    (s.precheck .c (.wget r w st) = none → (s.core.regs.w[w]).canRead false = true →
      exec (.wget r w st) s = .next ((s.modFocus fun c =>
        (c.modW w fun x => { x with flag := .empty, was := some x.seen, reader := some .c }).land
          .c (s.core.destS r) (.word (s.core.regs.w[w]).data) 1).behind .c .seq)) ∧
    (s.precheck .a (.apop a w st) = none → s.core.awake 2 = true → (s.core.regs.w[w]).canRead false = true →
      exec (.apop a w st) s = .next ((s.modFocus fun c =>
        (c.modW w fun x => { x with flag := .empty, was := some x.seen, reader := some .a }).land
          .a (.areg a) (.word (s.core.regs.w[w]).data) 1).behind .a .seq))

/-- A word of an engine holds at its word: at an object, with a producer, and nothing but its own hold changes. -/
def Sys2Proof.Claim.holdsAt (i : Instr) (e : Engine) (s : State) (obj : Nat) (producer : Option Engine) : Prop :=
  ∃ t h, exec i s = .next t ∧ (t.core.eng e).hold = some h ∧ h.obj = obj ∧ h.producer = producer ∧
    (t.core.eng e).pc = (s.core.eng e).pc ∧ (t.core.eng e).index = (s.core.eng e).index ∧ Lands e s t [] ∧ OnlyStream e s t

/-- A word register that is full, that another engine is filling, or that has a completing write of the engine itself
outstanding makes a write wait, and one that is not full makes a read wait (01 R27–R30): the word holds, and nothing but
its own hold changes. The producer is the engine that fills it, or else the last reader of a full register or the last
writer of an empty one (17 R398). -/
def Sys2Proof.Claim.coupledRegistersMakeWordsHold : Prop :=
  ∀ (w : WNo) (r : SReg) (a : ANo) (st : Stall) (s : State),
    let x := s.core.regs.w[w]
    let obj := 0x40 + w.val
    (∀ (i : Instr) (e : Engine), (i = .wput w r st ∧ e = .c) ∨ (i = .apush w a st ∧ e = .a ∧ s.core.awake 2 = true) →
      s.precheck e i = none →
        (x.seen = .full → Claim.holdsAt i e s obj x.reader) ∧
        (∀ o, o ≠ e → x.seen = .filling o → Claim.holdsAt i e s obj (some o)) ∧
        (x.seen = .filling e → x.outstanding = true → Claim.holdsAt i e s obj none)) ∧
    (∀ (i : Instr) (e : Engine), (i = .wget r w st ∧ e = .c) ∨ (i = .apop a w st ∧ e = .a ∧ s.core.awake 2 = true) →
      s.precheck e i = none →
        (x.seen = .empty → Claim.holdsAt i e s obj x.writer) ∧
        (∀ o, x.seen = .filling o → Claim.holdsAt i e s obj (some o)))

/-- The words that move data through a word register complete, or hold at its flag. -/
def Obligations.WordRegistersCouple : Prop := Claim.wordRegisterWordsComplete ∧ Claim.coupledRegistersMakeWordsHold

/-- What CKWAIT returns of a slot: ACT in bits 31:0, OVF in bit 32, zeros above (09 R279). -/
def Sys2Proof.Claim.slotCount (x : Slot) : Dword := BitVec.ofNat 64 (x.act % 2 ^ 32 + if x.ovf then 2 ^ 32 else 0)

/-- CKWAIT gives the count of the filled slot at the read pointer, as it stood at the start of the ref cycle, at latency
1 to C and A; CKREL clears that slot and advances the pointer (05 R169, 06 R192, 09 R279, R280). Where no CKREL has
released a slot of the cask in this ref cycle, it is the slot at the read pointer. -/
def Obligations.CaskWordsComplete : Prop :=
  ∀ (n : CkNo) (r : SReg) (a : ANo) (st : Stall) (s : State),
    s.core.awake 5 = true → (s.core.xc.cask n.val).valid = true → spWf s.core.xc.slots = true →
      ((∀ f ∈ s.core.xc.freed, f.1 ≠ n.val) → Claim.slotCount (s.core.xc.slotAtStart n.val) =
        Claim.slotCount (s.core.xc.slot n.val (s.core.xc.cask n.val).rp)) ∧
      (s.core.xc.ready n.val = true → s.precheck .c (.ckwait r n st) = none → exec (.ckwait r n st) s = .next
        ((s.modFocus fun c => c.land .c (c.destS r) (.word (Claim.slotCount (s.core.xc.slotAtStart n.val))) 1).behind .c .seq)) ∧
      (s.core.xc.ready n.val = true → s.precheck .a (.aCkwait a n st) = none → s.core.awake 2 = true → exec (.aCkwait a n st) s = .next
        ((s.modFocus fun c => c.land .a (.areg a) (.word (Claim.slotCount (s.core.xc.slotAtStart n.val))) 1).behind .a .seq)) ∧
      (s.core.xc.filledNow n.val = true → s.precheck .c (.ckrel n) = none → ∃ t, exec (.ckrel n) s = .next t ∧ GoesOn .c s t ∧
        (t.core.xc.slot n.val (s.core.xc.cask n.val).rp) = ⟨false, false, 0, 0⟩ ∧
        (t.core.xc.cask n.val).rp = ((s.core.xc.cask n.val).rp + 1) % (s.core.xc.cask n.val).slots ∧
        OnlyStream .c s { t with core := { t.core with xc := s.core.xc } }) ∧
      (s.core.xc.filledNow n.val = true → s.precheck .a (.aCkrel n) = none → s.core.awake 2 = true → ∃ t, exec (.aCkrel n) s = .next t ∧ GoesOn .a s t ∧
        (t.core.xc.slot n.val (s.core.xc.cask n.val).rp) = ⟨false, false, 0, 0⟩ ∧
        (t.core.xc.cask n.val).rp = ((s.core.xc.cask n.val).rp + 1) % (s.core.xc.cask n.val).slots ∧
        OnlyStream .a s { t with core := { t.core with xc := s.core.xc } })

/-- The words that wait for a condition and have no other effect, with their stream, and whether the condition is met:
NOP, ANOP, VNOP, MNOP, XNOP and APF at once, FENCE.C and AFENCE when no earlier access of the engine in a masked class
is pending, XFENCE when no copy of a masked class is in flight, MWAIT when the matrix engine is at rest, CLKWAIT when no
divisor request of the core is pending. -/
def Sys2Proof.Claim.passes (i : Instr) (s : State) : Option (Engine × Bool) :=
  let quiet := fun (e : Engine) (mask : BitVec 16) =>
    !(s.core.accesses.any fun a => decide (a.eng = e) && mask.getLsbD a.cls.val)
  match i with
  | .nop => some (.c, true)
  | .anop => some (.a, true)
  | .vnop => some (.v, true)
  | .mnop => some (.m, true)
  | .xnop => some (.x, true)
  | .apf _ _ _ _ _ => some (.a, true)
  | .fenceC mask => some (.c, quiet .c mask)
  | .afence mask => some (.a, quiet .a mask)
  | .xfence mask => some (.x, !(s.core.xc.copies.any fun k => mask.getLsbD k.cls.val))
  | .mwait => some (.m, s.core.mx.nest.isNone && s.core.mx.writes.isEmpty)
  | .clkwait => some (.c, [s.core.ec, s.core.ea, s.core.ev, s.core.em, s.core.ex].all fun x => x.request.isNone)
  | _ => none

/-- Each of them issues where its condition is met, and holds at its word where it is not; neither changes more than its
own stream. -/
def Obligations.WaitingWordsPass : Prop :=
  ∀ (i : Instr) (e : Engine) (ok : Bool) (s : State),
    Claim.passes i s = some (e, ok) → s.precheck e i = none → Claim.engineUp s e →
      ∃ t, exec i s = .next t ∧ Lands e s t [] ∧ OnlyStream e s t ∧
        (ok = true → GoesOn e s t) ∧
        (ok = false → (t.core.eng e).pc = (s.core.eng e).pc ∧ (t.core.eng e).hold.isSome = true)

/-- AADD and AADDI: the 64-bit sum, at latency 1 (06 R190). -/
def Sys2Proof.Claim.addressWordsComplete : Prop :=
  ∀ (d a b : ANo) (imm : BitVec 32) (s : State), s.core.awake 2 = true →
    (s.precheck .a (.aadd d a b) = none →
      ∃ t, exec (.aadd d a b) s = .next t ∧ GoesOn .a s t ∧ OnlyStream .a s t ∧
        Lands .a s t [⟨.areg d, .word (BitVec.ofNat 64 ((s.core.regs.a[a]).toNat + (s.core.regs.a[b]).toNat)), 1, 0⟩]) ∧
    (s.precheck .a (.aaddi d a imm) = none →
      ∃ t, exec (.aaddi d a imm) s = .next t ∧ GoesOn .a s t ∧ OnlyStream .a s t ∧
        Lands .a s t [⟨.areg d, .word (BitVec.ofInt 64 ((s.core.regs.a[a]).toInt + imm.toInt)), 1, 0⟩])

/-- Every word of C and A that computes a scalar, a predicate or an address completes with its result and latency. -/
def Obligations.ComputingWordsComplete : Prop := Claim.scalarWordsComplete ∧ Claim.compareWordsComplete ∧ Claim.compareNamesItsPredicate ∧ Claim.addressWordsComplete

/-! ## Domains, clocks and control registers (01 R10–R17, R45–R53; 05 R171–R175) -/

/-- The domains that a DSET field names (03 R100). -/
def Sys2Proof.Claim.named (x : DSet) (d : Nat) : Bool :=
  (decide (d < 7) && x.dind.getLsbD d)
    || (match x.sp with | some (f, l) => decide (7 + f.val ≤ d ∧ d ≤ 7 + l.val) | none => false)
    || (match x.ac with | some (f, l) => decide (23 + f.val ≤ d ∧ d ≤ 23 + l.val) | none => false)

/-- The action of a domain word and the domains it acts on: d.f is left out of a KILN, and in wave mode of every one (01
R45). -/
def Sys2Proof.Claim.domains (i : Instr) (s : State) : Option (DomAct × (Nat → Bool)) :=
  let own := fun (act : DomAct) (p : Nat → Bool) => some (act, fun d : Nat =>
    decide (d < 31) && p d && !(decide (d = 0) && (decide (act ≠ .steep) || decide (s.core.mode = .wave))))
  match i with
  | .steep x => own .steep (Claim.named x)
  | .kilnR x => own .kilnR (Claim.named x)
  | .kilnL x => own .kilnL (Claim.named x)
  | .steepReg a => own .steep (s.core.readS a).getLsbD
  | .kilnRReg a => own .kilnR (s.core.readS a).getLsbD
  | .kilnLReg a => own .kilnL (s.core.readS a).getLsbD
  | _ => none

/-- The weight of the domains that a condition picks: 2 for d.v, 4 for d.m, 1 for any other (01 R46). -/
def Sys2Proof.Claim.weight (p : Nat → Bool) : Nat :=
  ((List.range 31).map fun d => if p d then (if d = 3 then 2 else if d = 4 then 4 else 1) else 0).sum

/-- The domain words complete: a STEEP whose domains that are Off or Retained weigh at most 6 together with those that
are Waking, else it raises *inrush overcommit*; a KILN once no domain it names has work outstanding. The change is due
at the end of the ref cycle. -/
def Obligations.DomainWordsComplete : Prop :=
  ∀ (i : Instr) (s : State) (act : DomAct) (p : Nat → Bool),
    Claim.domains i s = some (act, p) → s.precheck .c i = none →
      let new := Claim.weight fun d => p d && decide (s.core.dom d = .off ∨ s.core.dom d = .retained)
      let was := Claim.weight fun d => match s.core.dom d with | .waking _ _ => true | _ => false
      (act = .steep → 6 < was + new → exec i s = .next (s.raise .c ⟨0x05, new, was, 0, 0⟩)) ∧
      ((act = .steep ∧ was + new ≤ 6) ∨ (act ≠ .steep ∧ ∀ d, p d = true → s.outstanding d = false) →
        ∃ t set, exec i s = .next t ∧ (∀ d, set.getLsbD d = p d) ∧ GoesOn .c s t ∧ Lands .c s t [] ∧
          t.core.ctl.atEnd = s.core.ctl.atEnd ++ [.dom set act] ∧
          OnlyStream .c s { t with core := { t.core with ctl := { t.core.ctl with atEnd := s.core.ctl.atEnd } } })

/-- The C cycles of a wake (01 R46). -/
def Sys2Proof.Claim.wakeTime (d : Nat) (retained : Bool) : Nat :=
  if d = 0 then 64 else if d ≤ 2 then 16 else if d = 3 then 48 else if d = 4 then 128 else if d = 5 then 32
  else if d = 6 then 24 else if retained then 24 else 1048

/-- The state of a domain after a domain word (01 R48). -/
def Sys2Proof.Claim.domAfter (x : Dom) (d : Nat) : DomAct → Dom
  | .steep => match x with
    | .off => .waking false (Claim.wakeTime d false)
    | .retained => .waking true (Claim.wakeTime d true)
    | x => x
  | .kilnR => match x with
    | .off => .off
    | .retained => .retained
    | .waking fromRetained _ => if fromRetained then .retained else .off
    | .awake => .retained
  | .kilnL => .off

/-- The effect of a domain word at the end of its ref cycle: each domain of its set takes its new state, and every other
domain, every register and every memory stays. A KILN.L of d.x discards the credits that its casks hold; each of their
copies and XSIGs waits for one credit less. -/
def Sys2Proof.Claim.domainsChangeState : Prop :=
  ∀ (s : State) (set : BitVec 31) (act : DomAct),
    let t := s.applyEnd (.dom set act)
    (∀ d, d < 31 →
      t.core.dom d = if set.getLsbD d then Claim.domAfter (s.core.dom d) d act else s.core.dom d) ∧
    ((act ≠ .kilnL ∨ set.getLsbD 5 = false) →
      t = { s with core := { s.core with doms := t.core.doms } }) ∧
    (act = .kilnL → set.getLsbD 5 = true →
      t.core.xc.held = [] ∧ t.core.xc.casks = s.core.xc.casks ∧ t.core.xc.slots = s.core.xc.slots ∧ t.dev = s.dev ∧
        t.cores.map Core.id = s.cores.map Core.id ∧
        t.core = { s.core with doms := t.core.doms, xc := t.core.xc } ∧
        t.core.xc = { s.core.xc with held := [], copies := t.core.xc.copies, sigs := t.core.xc.sigs } ∧
        ∀ g ∈ t.core.xc.sigs, ∀ k ∈ s.core.xc.held, ¬(k.src = s.core.id ∧ k.id = g.id))

/-- DOMAIN_AWAKE: a Waking domain whose count has run out is Awake; one woken from Retained keeps its contents. Woken
from Off, the scratchpad bank, the side memory or the accumulator bank reads zero, and so do the tiles of d.t with empty
flags, a0 to a15 of d.a, v0 to v31, m1 to m7 and vw of d.v, the casks of d.x with their slots, and the loop state of the
engines of d.a, d.v and d.x, while everything of every other domain stays. -/
def Sys2Proof.Claim.wokenDomainsAreAwake : Prop :=
  ∀ (d : Fin 31) (s : State) (retained : Bool), s.core.dom d.val = .waking retained 0 →
    ∃ t, exec (.domainAwake d) s = .next t ∧ t.core.dom d.val = .awake ∧
      (∀ k, k < 31 → k ≠ d.val → t.core.dom k = s.core.dom k) ∧ t.dev = s.dev ∧ t.left = s.left ∧ t.right = s.right ∧
      t.core.csr = s.core.csr ∧ t.core.regs.s = s.core.regs.s ∧
      (retained = true → t = { s with core := { s.core with doms := t.core.doms } }) ∧
      (retained = false →
        (∀ a, readByte t.core.mem.spad a =
          if 7 + a / 2 ^ 17 = d.val ∧ d.val < 23 then 0 else readByte s.core.mem.spad a) ∧
        (∀ a, readByte t.core.mem.side a = if d.val = 6 then 0 else readByte s.core.mem.side a) ∧
        (∀ n, spGet t.core.mem.acc n = if 23 + n / 4096 = d.val then 0 else spGet s.core.mem.acc n) ∧
        (∀ n : Fin 32, (∀ j, readByte (t.core.tiles.t[n]).data j = if d.val = 1 then 0 else readByte (s.core.tiles.t[n]).data j) ∧
          (t.core.tiles.t[n]).flag = if d.val = 1 then .empty else (s.core.tiles.t[n]).flag) ∧
        (∀ n : Fin 16, t.core.regs.a[n] = if d.val = 2 then 0 else s.core.regs.a[n]) ∧
        (∀ (n : Fin 32) (l : Fin 128), (t.core.vec.v[n])[l] = if d.val = 3 then 0 else (s.core.vec.v[n])[l]) ∧
        (∀ n : Fin 8, n ≠ 0 → t.core.vec.m[n] = if d.val = 3 then 0 else s.core.vec.m[n]) ∧
        (∀ l : Fin 128, t.core.vec.vw[l] = if d.val = 3 then 0 else s.core.vec.vw[l]) ∧
        (∀ n, n < 64 → t.core.xc.cask n = (if d.val = 5 then ⟨false, 0, 0, 0, 0⟩ else s.core.xc.cask n) ∧
          ∀ j, j < 64 → t.core.xc.slot n j = if d.val = 5 then ⟨false, false, 0, 0⟩ else s.core.xc.slot n j) ∧
        (∀ l : Fin 4, t.core.ea.loops[l] = (if d.val = 2 then ⟨0, 0, 0⟩ else s.core.ea.loops[l]) ∧
          t.core.ev.loops[l] = (if d.val = 3 then ⟨0, 0, 0⟩ else s.core.ev.loops[l]) ∧
          t.core.ex.loops[l] = if d.val = 5 then ⟨0, 0, 0⟩ else s.core.ex.loops[l]))

/-- Domain words act at the end of their ref cycle, and a wake ends with its count; what a domain held reads zero after
Off. -/
def Obligations.DomainsChangeState : Prop := Claim.domainsChangeState ∧ Claim.wokenDomainsAreAwake

/-- DOMQ gives the state of a domain and the C cycles of its wake that remain, at latency 2; CLKDIV and CSRW put their
change to the end of the ref cycle; PWRACK acknowledges a limit; CSRR gives the register's value, the model's reading of
it as `csrValue`, at latency 2. CSRW of MCGENT (0x251) holds while a packet of the selected group is in flight at the
selected router (21 R452). -/
def Sys2Proof.Claim.controlWordsComplete : Prop :=
  (∀ (d : SReg) (dom : Fin 31) (s : State), s.precheck .c (.domq d dom) = none →
    ∃ t, exec (.domq d dom) s = .next t ∧ GoesOn .c s t ∧ OnlyStream .c s t ∧
      Lands .c s t [⟨s.core.destS d, .word (match s.core.dom dom.val with
        | .off => 0 | .retained => 1 | .waking _ r => BitVec.ofNat 64 (4 * r + 2) | .awake => 3), 2, 0⟩]) ∧
  (∀ (e : Engine) (n : Fin 16) (s : State), s.precheck .c (.clkdiv e n) = none →
    ∃ t, exec (.clkdiv e n) s = .next t ∧ GoesOn .c s t ∧ Lands .c s t [] ∧
      t.core.ctl.atEnd = s.core.ctl.atEnd ++ [.clkdiv e n.val] ∧
      OnlyStream .c s { t with core := { t.core with ctl := { t.core.ctl with atEnd := s.core.ctl.atEnd } } }) ∧
  (∀ s : State, s.precheck .c .pwrack = none →
    let n := s.core.id.cluster
    let x := s.dev.cluster n
    let acks := x.limited && !x.acked && !x.skip
    ∃ t, exec .pwrack s = .next t ∧ GoesOn .c s t ∧ Lands .c s t [] ∧
      t.dev = (if acks then s.dev.modCluster n fun x => { x with acked := true, ackTimer := none, grant := some 300000 }
        else s.dev.modCluster n fun x => x) ∧
      OnlyStream .c s { t with dev := s.dev }) ∧
  (∀ (d : SReg) (n : BitVec 12) (s : State), s.precheck .c (.csrr d n) = none →
    ∃ t, exec (.csrr d n) s = .next t ∧ GoesOn .c s t ∧ OnlyStream .c s t ∧
      Lands .c s t [⟨s.core.destS d, .word (s.csrValue n.toNat), 2, 0⟩]) ∧
  (∀ (n : BitVec 12) (a : SReg) (s : State), s.precheck .c (.csrw n a) = none →
    let busy := n = 0x251 ∧ ∃ p ∈ s.dev.packets, p.fresh = false ∧ p.die = s.dev.mcgDie ∧ p.router = s.dev.mcgRouter ∧
      p.group = s.dev.mcgGroup
    (busy → ∃ t, exec (.csrw n a) s = .next t ∧ t.core.ec.hold.isSome = true ∧ t.core.ec.pc = s.core.ec.pc ∧
      t.core.ctl.atEnd = s.core.ctl.atEnd ∧ OnlyStream .c s t) ∧
    (¬busy → ∃ t, exec (.csrw n a) s = .next t ∧ GoesOn .c s t ∧ Lands .c s t [] ∧
      t.core.ctl.atEnd = (match csrAccess n.toNat with
        | some (_, .rw) | some (_, .wo) => s.core.ctl.atEnd ++ [.csr n (s.core.readS a)]
        | _ => s.core.ctl.atEnd) ∧
      OnlyStream .c s { t with core := { t.core with ctl := { t.core.ctl with atEnd := s.core.ctl.atEnd } } }))

/-- A word that the earlier checks of 03 R92 let pass raises *privileged operation* with a value in ARG, and does
nothing else. -/
def Sys2Proof.Claim.isPrivileged (s : State) (i : Instr) (arg : Nat) : Prop :=
  Claim.reachesLastCheck s .c i → exec i s = .next (s.raise .c ⟨0x13, 0, arg, 0, 0⟩)

/-- A word that the earlier checks of 03 R92 let pass is allowed. -/
def Sys2Proof.Claim.isAllowed (s : State) (i : Instr) : Prop := Claim.reachesLastCheck s .c i → s.precheck .c i = none

/-- A control register access outside its register's rights: an unassigned number is *illegal encoding*, and without
system access a write of a register that is RO there, or any access of a system register, is *privileged operation* with
the number in ARG; neither word has another effect. Every other access is allowed. ERET outside handler mode and SEIZE
without system access are *privileged operation* too (that a handler of a user context has system access for SEIZE is
the model's choice, log entry 42). -/
def Sys2Proof.Claim.controlRegistersAreGuarded : Prop :=
  ∀ (n : BitVec 12) (d a : SReg) (s : State),
    (csrAccess n.toNat = none →
      exec (.csrr d n) s = .next (s.raise .c ⟨0x01, 0x3C, 0, 0, 0⟩) ∧
      exec (.csrw n a) s = .next (s.raise .c ⟨0x01, 0x3D, 0, 0, 0⟩)) ∧
    (∀ sys, csrAccess n.toNat = some (.none_, sys) → s.sysAccess = false →
      Claim.isPrivileged s (.csrr d n) n.toNat ∧ Claim.isPrivileged s (.csrw n a) n.toNat) ∧
    (∀ sys, csrAccess n.toNat = some (.ro, sys) → s.sysAccess = false →
      Claim.isAllowed s (.csrr d n) ∧ Claim.isPrivileged s (.csrw n a) n.toNat) ∧
    (∀ user sys, csrAccess n.toNat = some (user, sys) → s.sysAccess = true ∨ user = .rw →
      Claim.isAllowed s (.csrr d n) ∧ Claim.isAllowed s (.csrw n a)) ∧
    (s.core.inHandler = false → Claim.isPrivileged s .eret 0) ∧ (s.core.inHandler = true → Claim.isAllowed s .eret) ∧
    (s.sysAccess = false → Claim.isPrivileged s (.seize a) 0) ∧ (s.sysAccess = true → Claim.isAllowed s (.seize a))

/-- The registers that a system write stores plainly, with the bits they have (01 R10–R17, R47; 17 R394; 19 R424). -/
def Sys2Proof.Claim.plainCsr (n : Nat) : Option Dword :=
  if 0x10 ≤ n ∧ n ≤ 0x1F then some (BitVec.ofNat 64 (2 ^ 64 - 1 - 7 * 2 ^ 49))
  else if 0x220 ≤ n ∧ n ≤ 0x224 then some (BitVec.ofNat 64 (2 ^ 49 - 1))
  else
    match n with
    | 0x00B => some (BitVec.ofNat 64 (2 ^ 48 - 1))
    | 0x00C | 0x00D => some (BitVec.allOnes 64)
    | 0x100 | 0x101 => some (BitVec.ofNat 64 (2 ^ 49 - 1 + 3 * 2 ^ 51))
    | 0x102 | 0x226 | 0x22A | 0x22D => some (BitVec.ofNat 64 (2 ^ 49 - 1))
    | 0x225 => some (BitVec.ofNat 64 (2 ^ 32 - 1))
    | 0x227 => some (BitVec.ofNat 64 (2 ^ 49 - 2 ^ 16))
    | 0x229 => some (BitVec.ofNat 64 (2 ^ 48 - 1))
    | 0x230 => some 0xFF
    | 0x240 => some (BitVec.ofNat 64 (2 ^ 63 + 2 ^ 49 - 2 ^ 19))
    | _ => none

/-- CSR_WRITE: a plain register then reads the value written, its reserved bits zero; every other plain register,
FPSTATUS, SRSEED, the registers of the streams and every memory stay. -/
def Sys2Proof.Claim.writtenControlRegisterReads : Prop :=
  ∀ (n : BitVec 12) (v mask : Dword) (s : State),
    Claim.plainCsr n.toNat = some mask → s.ctx.isSome = true →
      ∃ t, exec (.csrWrite n v) s = .next t ∧ t.csrValue n.toNat = v &&& mask ∧
        (∀ m, m ≠ n.toNat → ((Claim.plainCsr m).isSome ∨ m ≤ 1) → t.csrValue m = s.csrValue m) ∧
        t.core.regs = s.core.regs ∧ t.core.vec = s.core.vec ∧ t.core.tiles = s.core.tiles ∧ t.core.mem = s.core.mem ∧
        t.dev.hbm = s.dev.hbm ∧ t.dev.sbm = s.dev.sbm ∧ t.dev.host = s.dev.host ∧ t.left = s.left ∧ t.right = s.right

/-- Control registers keep their access rights, and a plain one reads what was written. -/
def Obligations.ControlRegistersAreGuarded : Prop := Claim.controlRegistersAreGuarded ∧ Claim.writtenControlRegisterReads

/-- SRSEED: the seed and the three generators take the low 32 bits, or 1 for zero. CHAINHEAD: a walk starts in queue 7
with class 0 at the address written; during a walk the write is ignored, and so is one while an XCHAIN has issued and
has not entered the queue logic (the model's reading, DEDUCED: log entry 15). -/
def Sys2Proof.Claim.seedAndChainheadStart : Prop :=
  (∀ (v : Dword) (s : State), ∃ t, exec (.srseed v) s = .next t ∧
    (let seed : Word32 := if v.toNat % 2 ^ 32 = 0 then 1 else BitVec.ofNat 32 v.toNat
     t.core.csr = { s.core.csr with srseed := seed, genV := seed, genM := seed, genA := seed } ∧
     t.csrValue 0x001 = seed.zeroExtend 64) ∧
    t.core.regs = s.core.regs ∧ t.core.mem = s.core.mem ∧ t.dev.hbm = s.dev.hbm) ∧
  (∀ (v : Dword) (s : State),
    (s.core.xc.walkBusy = true → exec (.chainhead v) s = .next s) ∧
    (s.core.xc.walkBusy = false → s.core.awake 5 = true → v.toNat % 128 = 0 → v.toNat % 2 ^ 49 ≠ 0 →
      ∃ t, exec (.chainhead v) s = .next t ∧ t.core.xc.walk.active = true ∧ t.csrValue 0x210 = v &&& BitVec.ofNat 64 (2 ^ 49 - 1) ∧
        t.core.xc.walk.addr = v.toNat % 2 ^ 49 ∧ t.core.xc.walk.queue = 7 ∧ t.core.xc.walk.cls = 0 ∧
        t.core.xc.walk.err = false ∧ t.core.xc.copies = s.core.xc.copies ∧ t.core.regs = s.core.regs ∧ t.dev.hbm = s.dev.hbm))

/-- The control words complete; a write of SRSEED and of CHAINHEAD takes its effect. -/
def Obligations.ControlWordsComplete : Prop := Claim.controlWordsComplete ∧ Claim.seedAndChainheadStart

/-! ## Exceptions (01 R17; 05 R176; 17 R387–R393, R398, R399) -/

/-- A fault that a core outside wave mode takes: the engine's word raises it, the core stops, and the hardware enters
the handler. The registers then hold: FAULTINFO the code, engine, DETAIL and ARG; FAULTPC the address of the word;
FAULTADDR; ROWFAULT no column and the engine; the context keeps the record as its most recent one; EPC of each running
engine its program counter; the C engine runs on at TRAPVEC in handler mode with an empty landing buffer and no active
loop level. -/
def Sys2Proof.Claim.taken (e : Engine) (f : FaultRec) (trapvec : Dword) (s t : State) : Prop :=
  t.core.csr.faultinfo = BitVec.ofNat 64 (f.code + e.num * 2 ^ 8 + f.detail % 256 * 2 ^ 16 + f.arg % 2 ^ 24 * 2 ^ 24) ∧
    t.core.csr.faultpc = (s.core.eng e).pc ∧ t.core.csr.faultaddr = f.addr ∧ t.core.csr.rowfault = BitVec.ofNat 64 (e.num * 2 ^ 16) ∧
    (∀ o : Engine, vget t.core.csr.epc o.num 0 = if (s.core.eng o).state = .running then (s.core.eng o).pc else 0) ∧
    t.core.inHandler = true ∧ t.core.ec.pc = trapvec ∧ t.core.ec.state = .running ∧ t.core.ec.landing = [] ∧
    t.core.ec.loops = Vector.replicate 4 ⟨0, 0, 0⟩ ∧ t.core.ctl.slot = none ∧ t.core.flt.savedSlot = s.core.ctl.slot ∧
    t.core.mem = s.core.mem ∧ t.core.regs.h = s.core.regs.h ∧
    t.dev = (s.modCtx s.core.ctxId fun x => { x with lastFault := (t.core.csr.faultinfo, t.core.csr.faultpc, t.core.csr.faultaddr) }).dev ∧
    t.left = s.left ∧ t.right = s.right

/-- TRAP, FAULT_STOP and HANDLER_ENTRY: a fault is taken. For TRAP, the code is 0x17 and DETAIL the number of the word.
-/
def Sys2Proof.Claim.faultsAreTaken : Prop :=
  ∀ (s : State) (x : Ctx), s.ctx = some x → s.rowOf s.core = none → s.core.flt.raised = [] → s.core.flt.stop = .run →
    (∀ e : Engine, (s.core.eng e).landing = [] ∧ (s.core.eng e).held = []) → (∀ a ∈ s.core.accesses, a.fixed = false) →
      (∀ (e : Engine) (f : FaultRec), f.code < 256 → ∃ t u, exec .faultStop (s.raise e f) = .next t ∧ exec .handlerEntry t = .next u ∧
        Claim.taken e f x.trapvec s u) ∧
      (∀ code : Fin 64, s.precheck .c (.trap code) = none →
        ∃ r t u, exec (.trap code) s = .next r ∧ exec .faultStop r = .next t ∧ exec .handlerEntry t = .next u ∧
          Claim.taken .c ⟨0x17, code.val, 0, 0, 0⟩ x.trapvec s u)

/-- ERET outside wave mode: every engine has its state from before the stop and goes on at its EPC, C after a software
trap of its own at the word that follows the TRAP, the saved branch target where it stood in the delay slot of a taken
transfer and else EPC0 + 4; a saved target of another faulting word is applied behind it, and a write of EPC0 discards
it. That C resumes at EPC0 + 4 also where the handler wrote EPC0 after a TRAP, and that the loop levels are those of the
stop, with REM as it stood also behind a TRAP at a loop end, is the model's choice (log entry 35). Each result in flight
at the stop or in the handler is in flight or held for the next word (log entry 7); handler mode is over, and memory,
the registers of the streams and the fault registers stay. -/
def Sys2Proof.Claim.eretReturns : Prop :=
  ∀ s : State, s.precheck .c .eret = none → s.rowOf s.core = none →
    let byTrap := s.core.csr.faultinfo.toNat % 2 ^ 8 = 0x17 ∧ s.core.csr.faultinfo.toNat / 2 ^ 8 % 2 ^ 3 = 0
    let slot := if s.core.flt.epcWritten then none else s.core.flt.savedSlot
    ∃ t, exec .eret s = .next t ∧ t.core.flt.stop = .run ∧ t.core.inHandler = false ∧
      (∀ e : Engine, (t.core.eng e).state = vget s.core.flt.before e.num .idle) ∧
      (∀ e : Engine, e ≠ .c → (t.core.eng e).pc = vget s.core.csr.epc e.num 0) ∧
      (t.core.ec.pc =
        if byTrap then (match slot with | some (some target) => target | _ => vget s.core.csr.epc 0 0 + 4)
        else vget s.core.csr.epc 0 0) ∧
      t.core.ctl.slot = (if byTrap then none else slot) ∧
      t.core.ec.loops = s.core.flt.savedLoops ∧
      (∀ d, d ∈ (t.core.ec.held ++ t.core.ec.landing).map Landing.dest ↔ d ∈ (s.core.flt.savedC ++ s.core.ec.landing).map Landing.dest) ∧
      (t.core.ec.held ++ t.core.ec.landing).length = (s.core.flt.savedC ++ s.core.ec.landing).length ∧
      t.core.regs = s.core.regs ∧ t.core.vec = s.core.vec ∧ t.core.tiles = s.core.tiles ∧ t.core.mem = s.core.mem ∧
      t.core.csr = s.core.csr ∧ t.dev = s.dev ∧ t.left = s.left ∧ t.right = s.right

/-- A fault enters the handler with the fault registers written, and ERET returns from it. -/
def Obligations.FaultsAreTakenAndLeft : Prop := Claim.faultsAreTaken ∧ Claim.eretReturns

/-- FAULT_STOP in wave mode (17 R388): column 0 has stopped, every other column drains, and the drain targets are the
index of the faulting word for its stream and column 0's point for every other. No memory and no other state of the
device changes. -/
def Sys2Proof.Claim.rowsStop : Prop :=
  ∀ (s : State) (r : Row) (e : Engine) (f : FaultRec) (m : CoreId) (rest : List CoreId),
    s.rowOf s.core = some r → r.members = m :: rest → r.members.Nodup → s.core.id ∈ r.members → r.draining = false →
    s.core.recorded = some (e, f) → (∀ a ∈ s.core.accesses, a.fixed = false) →
    (∀ id ∈ r.members, (s.coreAt id).flt.stop = .run ∧ ∃ c ∈ s.cores, c.id = id) →
      ∃ t, exec .faultStop s = .next t ∧ (t.coreAt m).flt.stop = .stopped ∧
        (∀ id ∈ rest, (t.coreAt id).flt.stop = .draining) ∧ (∀ id ∈ r.members, (t.coreAt id).mem = (s.coreAt id).mem) ∧
        (∃ x, t.dev.rows.find? (fun w => decide (w.id = r.id)) = some x ∧ x.draining = true ∧ x.faulted = some e ∧
          x.members = r.members ∧ ∀ g : Engine, vget x.target g.num none =
            some (if g = e then (s.core.eng e).point else ((s.coreAt m).eng g).point)) ∧
        t.dev = { s.dev with rows := t.dev.rows }

/-- HANDLER_ENTRY in wave mode (17 R390, R392, R394): once every column has stopped, each enters handler mode at TRAPVEC
with EPC of each engine that ran its point, ROWFAULT naming the engine and every column that recorded a fault, and the
three fault registers of its own fault; a column without one receives CODE 0 with WAVE, its own column and ROWFAULT's
engine, the address of its point in that stream, and FAULTADDR zero. -/
def Sys2Proof.Claim.rowsEnterTheirHandler : Prop :=
  ∀ (s : State) (x : Ctx) (r : Row) (e : Engine), s.ctx = some x → s.rowOf s.core = some r → r.faulted = some e →
    r.draining = false → r.members.length ≤ 16 → r.members.Nodup → s.core.id ∈ r.members →
    (∀ (c : Nat) (id : CoreId), r.members[c]? = some id → (s.coreAt id).flt.stop = .stopped ∧ (∃ c ∈ s.cores, c.id = id) ∧
      ∃ k, (s.coreAt id).resident = some k ∧ k.col = c) →
      ∃ t, exec .handlerEntry s = .next t ∧ ∀ (c : Nat) (id : CoreId), r.members[c]? = some id →
        let o := s.coreAt id
        let n := t.coreAt id
        n.inHandler = true ∧ n.ec.pc = x.trapvec ∧ n.ec.state = .running ∧ n.ec.index = 0 ∧ n.ec.landing = [] ∧
          n.ec.loops = Vector.replicate 4 ⟨0, 0, 0⟩ ∧
          (∀ g : Engine, vget n.csr.epc g.num 0 = if vget o.flt.before g.num .idle = .running then (o.eng g).pc else 0) ∧
          n.csr.rowfault.toNat / 2 ^ 16 = e.num ∧
          (∀ j, j < 16 → n.csr.rowfault.getLsbD j =
            (match r.members[j]? with | some m => (s.coreAt m).recorded.isSome | none => false)) ∧
          (∀ g f, o.recorded = some (g, f) → n.csr.faultinfo = BitVec.ofNat 64
              (f.code + g.num * 2 ^ 8 + 2 ^ 11 + c * 2 ^ 12 + f.detail % 256 * 2 ^ 16 + f.arg % 2 ^ 24 * 2 ^ 24) ∧
            n.csr.faultpc = f.pc ∧ n.csr.faultaddr = f.addr) ∧
          (o.recorded = none → n.csr.faultinfo = BitVec.ofNat 64 (e.num * 2 ^ 8 + 2 ^ 11 + c * 2 ^ 12) ∧
            n.csr.faultpc = (o.eng e).pc ∧ n.csr.faultaddr = 0) ∧
          n.mem = o.mem ∧ n.regs.h = o.regs.h

/-- The skip count of a stream of a column that returns from a handler (17 R388, R389). -/
def Sys2Proof.Claim.skipOf (c : Core) (e : Engine) : Nat := if e = .c then c.flt.savedSkip else (c.eng e).skip

/-- ERET in wave mode (17 R389, R393): a column that is not the last to issue it waits for the others; with the last one
every column leaves handler mode with its engines as before the stop. A stream goes on, in the columns whose skip count
is 0, at the EPC of the lowest-numbered of them; a column with another skip count has its own point, and issues it after
that many words. Of the C stream this says it where no column recorded a software trap of C. -/
def Sys2Proof.Claim.rowsReturn : Prop :=
  ∀ (s : State) (r : Row), s.precheck .c .eret = none → s.rowOf s.core = some r → r.members.Nodup → s.core.id ∈ r.members →
    (∀ id ∈ r.members, ∃ c ∈ s.cores, c.id = id) →
      ((∃ id ∈ r.members, id ≠ s.core.id ∧ (s.coreAt id).flt.stop ≠ .returned) →
        ∃ t, exec .eret s = .next t ∧ t.core.flt.stop = .returned ∧ t.core.ec.pc = s.core.ec.pc ∧
          t.core.csr = s.core.csr ∧ t.left = s.left ∧ t.right = s.right ∧ t.dev = s.dev) ∧
      ((∀ id ∈ r.members, id ≠ s.core.id → (s.coreAt id).flt.stop = .returned) →
        ∃ t, exec .eret s = .next t ∧
          (∀ id ∈ r.members, (t.coreAt id).flt.stop = .run ∧ (t.coreAt id).inHandler = false ∧
            (t.coreAt id).regs = (s.coreAt id).regs ∧ (t.coreAt id).mem = (s.coreAt id).mem ∧
            (t.coreAt id).csr = (s.coreAt id).csr ∧
            ∀ e : Engine, ((t.coreAt id).eng e).state = vget (s.coreAt id).flt.before e.num .idle) ∧
          (∀ e : Engine,
            (e = .c → ∀ id ∈ r.members, ¬((s.coreAt id).csr.faultinfo.toNat % 2 ^ 8 = 0x17 ∧
              (s.coreAt id).csr.faultinfo.toNat / 2 ^ 8 % 2 ^ 3 = 0)) →
            ∀ id ∈ r.members, vget (s.coreAt id).flt.before e.num .idle = .running →
              ((t.coreAt id).eng e).skip = Claim.skipOf (s.coreAt id) e ∧
              (Claim.skipOf (s.coreAt id) e ≠ 0 → ((t.coreAt id).eng e).pc = vget (s.coreAt id).csr.epc e.num 0) ∧
              (Claim.skipOf (s.coreAt id) e = 0 →
                ∀ first, r.members.find? (fun o => decide (Claim.skipOf (s.coreAt o) e = 0 ∧
                    vget (s.coreAt o).flt.before e.num .idle = .running)) = some first →
                  ((t.coreAt id).eng e).pc = vget (s.coreAt first).csr.epc e.num 0)))

/-- In wave mode a fault stops the row, every column enters the handler with its own record, and the row returns
together. -/
def Obligations.RowsStopAndReturn : Prop := Claim.rowsStop ∧ Claim.rowsEnterTheirHandler ∧ Claim.rowsReturn

/-- STALL_BOUND_EXPIRE and WATCHDOG_EXPIRE. A held word whose producer has issued more words than its bound raises
*stall bound exceeded* with the object in DETAIL, the producer in ARG and its program counter in FAULTADDR, or in its
place the fault of an earlier order that the word has (read from 05 R150, 06 R181, 08 R232 and 09 R285: log entry 13);
where that is a page without a valid entry, a word of A or X halts at it (06 R194, 09 R258). The object of an XCHAIN's
hold is a free value, the model's choice (log entry 15). A core on which no word has issued for WDLIMIT µs raises it
with DETAIL 0xFF; neither happens otherwise. -/
def Obligations.HoldsExpire : Prop :=
  (∀ (e p : Engine) (h : Hold) (b : Nat) (s : State),
    (s.core.eng e).hold = some h → h.bound = some b → h.producer = some p →
      let f := h.first.getD ⟨0x08, if h.obj = chainHold then Config.chainObject % 256 else h.obj, p.num, (s.core.eng p).pc, 0⟩
      (b < h.count → ∃ t, exec (.stallBoundExpire e) s = .next t ∧
        (f.code = 0x09 ∧ (e = .a ∨ e = .x) →
          (t.core.eng e).hold.isSome = true ∧ (t.core.eng e).pc = (s.core.eng e).pc ∧ t.core.flt = s.core.flt ∧
          (e = .a → t.core.aHalt = some ⟨none, false, 0x09, if f.arg = 1 then 1 else 0, f.addr.toNat, 0⟩ ∧
            t.core.xHalt = s.core.xHalt) ∧
          (e = .x → t.core.xHalt = some ⟨none, false, 0x09, f.arg, f.addr.toNat, 0⟩ ∧ t.core.aHalt = s.core.aHalt)) ∧
        (¬(f.code = 0x09 ∧ (e = .a ∨ e = .x)) →
          t.core.flt.raised = s.core.flt.raised ++ [(e, { f with pc := (s.core.eng e).pc })] ∧ (t.core.eng e).hold = none ∧
          t.core.aHalt = s.core.aHalt ∧ t.core.xHalt = s.core.xHalt) ∧
        t.core.regs = s.core.regs ∧ t.core.mem = s.core.mem ∧ t.dev = s.dev) ∧
      (h.count ≤ b → exec (.stallBoundExpire e) s = .next s)) ∧
  (∀ (x : Ctx) (s : State), s.ctx = some x → s.core.flt.stop = .run →
    (x.wdlimit ≠ 0 → 3000 * x.wdlimit.toNat ≤ s.core.flt.wd → s.watched = true →
      ∃ t, exec .watchdogExpire s = .next t ∧ t.core.flt.wd = 0 ∧
        t.core.flt.raised = s.core.flt.raised ++ [(.c, ⟨0x08, 0xFF, 0, 0, s.core.ec.pc⟩)] ∧
        t.core.regs = s.core.regs ∧ t.core.mem = s.core.mem ∧ t.dev = s.dev) ∧
    (x.wdlimit = 0 ∨ s.core.flt.wd < 3000 * x.wdlimit.toNat ∨ s.watched = false → exec .watchdogExpire s = .next s))

/-! ## Tile words of A (06 R178–R189) -/

/-- The rows of an affine tile word: row j lies at aB + 64 · OFF + j · aS, modulo 2^64, and fills the tile from byte j ·
RBYTES on. A row is one piece, or two where it runs on into the next page of 64 KiB; each piece is stored under the
format tag of its own page, and as it stands in the tile with TLD.RAW. -/
def Sys2Proof.Claim.tileRowsHaveTheirAddresses : Prop :=
  ∀ (s : State) (x : AT) (raw : Bool),
    let n := x.rbytes.val + 1
    let row := fun j : Nat => BitVec.ofInt 64 (((s.core.regs.a[x.ab]).toNat : Int) + 64 * x.off.toInt
      + (j : Int) * ((s.core.regs.a[x.stride]).toNat : Int))
    let tag := fun a : Dword => if raw then 0 else s.tagAt a
    s.rowPieces x raw = ((List.range (x.rows.val + 1)).map fun j => s.rowParts (row j) (j * n) n raw).flatten ∧
      ∀ j : Nat, ∃ p : Piece, p.ea = row j ∧ p.off = j * n ∧ p.tag = tag p.ea ∧ (p.tag = 0 → p.len = p.tlen) ∧
        ((s.rowParts (row j) (j * n) n raw = [p] ∧ p.tlen = n) ∨
          ∃ q : Piece, s.rowParts (row j) (j * n) n raw = [p, q] ∧ p.tlen + q.tlen = n ∧ q.off = p.off + p.tlen ∧
            q.ea.toNat % 2 ^ 16 = 0 ∧ q.tag = tag q.ea ∧ (p.tag = 0 → q.ea = p.ea + BitVec.ofNat 64 p.len) ∧
            (q.tag = 0 → q.len = q.tlen))

/-- The tile side of a word of A: its domains are Awake, no translation halt stands, no word is parked, and its queues
are valid. -/
def Sys2Proof.Claim.tileReady (s : State) (tops : List TileRef) : Prop :=
  s.core.awake 1 = true ∧ s.core.awake 2 = true ∧ s.core.aHalt = none ∧ s.core.ea.parked = none ∧
    ∀ q, TileRef.queue q ∈ tops → (s.core.tiles.tq[q]).valid = true

/-- The conditions of 06 R181 and R194 on the pieces of a tile word: each is aligned as its page's format asks and lies
within one class, the scratchpad banks are Awake, and every page touched has a valid entry with legal format fields
that, of a store, is writable and not being moved. -/
def Sys2Proof.Claim.piecesOk (s : State) (ps : List Piece) (indexed store : Bool) : Prop :=
  (∀ p ∈ ps, p.ea.toNat % p.align = 0 ∧ p.classBad = none ∧ s.formatBad p indexed store = false) ∧ s.banksAsleep ps = none ∧
    ∀ va ∈ (ps.map Piece.pages).flatten ++ (ps.map s.scalePages).flatten, va < 2 ^ 49 ∧ ∃ e pb h, s.lookA va = .leaf e pb h ∧
      formatOk e = true ∧ (store = true → ebits e 2 1 = 1 ∧ ebits e 4 1 = 0)

/-- HBM after the issue of a tile word: the byte at the home of an entry that the word found for a page it touches has
gained the bits, and every other byte is as before (19 R429). -/
def Sys2Proof.Claim.entriesMarked (s t : State) (ps : List Piece) (bits : Byte) : Prop :=
  let entry := fun k : Nat => ∃ va ∈ (ps.map Piece.pages).flatten ++ (ps.map s.scalePages).flatten, ∃ e pb,
    s.lookA va = .leaf e pb k
  ∀ k : Nat, (entry k → readByte t.dev.hbm k = readByte s.dev.hbm k ||| bits) ∧
    (¬entry k → readByte t.dev.hbm k = readByte s.dev.hbm k)

/-- The states of the access-store converter's generator for the runs of 128 elements of a store, of an indexed one its
elements by number (04 R139; that a word with a stochastic element steps it for each of its runs is the model's choice,
log entry 38). -/
def Sys2Proof.Claim.runs (s : State) (ps : List Piece) (indexed : Bool) : List Word32 :=
  let elems := if indexed then ps.length else ps.foldl (fun n p => max n ((p.off + p.tlen + 3) / 4)) 0
  if ps.any fun p => tagSr p.tag then genRuns s.core.csr.genA ((elems + 127) / 128) else []

/-- The tile words: a load or a store, its tile operand, KEEP or PARTIAL, class, pieces, and whether it is indexed. -/
def Sys2Proof.Claim.tileWord (i : Instr) (s : State) : Option (Bool × TileRef × Bool × Cls × List Piece × Option TileRef) :=
  match i with
  | .tld x => some (false, x.tile, x.keep, x.cls, s.rowPieces x false, none)
  | .tldRaw x => some (false, x.tile, x.keep, x.cls, s.rowPieces x true, none)
  | .tst x => some (true, x.tile, x.keep, x.cls, s.rowPieces x false, none)
  | .tldx x => some (false, x.tile, x.keep, x.cls, s.elemPieces x, some x.idx)
  | .tstx x => some (true, x.tile, x.keep, x.cls, s.elemPieces x, some x.idx)
  | _ => none

/-- Every tile word completes where its tile can be written or read, its index tile is full, and its rows or elements
meet the conditions of 06 R181. A load sets its tile filling, and full once its data have landed if it completes the
tile; a store takes its tile, and stores at the homes of its own pieces what it encodes from the tile at issue. The
access is put behind the earlier ones; before it performs, no byte of a tile changes, and none of memory but by the A
bit, and of a store the D bit, that is set in the entries of the pages that the word touches (19 R429, R431). -/
def Sys2Proof.Claim.tileWordsComplete : Prop :=
  ∀ (i : Instr) (s : State) (store : Bool) (top : TileRef) (keep : Bool) (cls : Cls) (ps : List Piece) (idx : Option TileRef),
    Claim.tileWord i s = some (store, top, keep, cls, ps, idx) → s.precheck .a i = none →
    Claim.tileReady s (top :: idx.toList) → (∀ x, idx = some x → (s.core.tiles.t[s.core.tileFrom x]).seen = .full) →
    Claim.piecesOk s ps idx.isSome store →
      (store = false → (s.core.tiles.t[s.core.tileTo top]).canWrite .a = true →
        ∃ t us, exec i s = .next t ∧ GoesOn .a s t ∧ Lands .a s t [] ∧
          us = s.units ps idx.isSome ∧
          t.core.accesses.map Access.id = s.core.accesses.map Access.id ++ [s.dev.fresh] ∧
          t.core.accesses.getLast? = some ⟨s.dev.fresh, .a, cls, 0, .tileLoad (s.core.tileTo top) (!keep), us, 0, false,
            (us.map AUnit.translated).flatten.map fun va => (va, s.pageBits .a va)⟩ ∧
          (t.core.tiles.t[s.core.tileTo top]).flag = .filling .a ∧
          (t.core.tiles.t[s.core.tileTo top]).outstanding = !keep ∧
          (∀ k : Fin 32, (t.core.tiles.t[k]).data = (s.core.tiles.t[k]).data ∧
            (k ≠ s.core.tileTo top → t.core.tiles.t[k] = s.core.tiles.t[k])) ∧
          t.core.regs = s.core.regs ∧ t.core.vec = s.core.vec ∧ t.core.mem = s.core.mem ∧ t.core.csr = s.core.csr ∧
          t.left = s.left ∧ t.right = s.right ∧ t.dev.sbm = s.dev.sbm ∧ t.dev.host = s.dev.host ∧ t.dev.peer = s.dev.peer ∧
          t.dev.meta_ = s.dev.meta_ ∧
          (s.dev.canonical → Claim.entriesMarked s t ps 0x40)) ∧
      (store = true → (s.core.tiles.t[s.core.tileFrom top]).canRead keep = true →
        ∃ t us, exec i s = .next t ∧ GoesOn .a s t ∧ Lands .a s t [] ∧
          us = (ps.map fun p => s.storeUnits p idx.isSome (Claim.runs s ps idx.isSome) (s.core.tiles.t[s.core.tileFrom top]).data).flatten ∧
          t.core.accesses = s.core.accesses ++ [⟨s.dev.fresh, .a, cls, 0, .tileStore, us, 0, false,
            (us.map AUnit.translated).flatten.map fun va => (va, s.pageBits .a va)⟩] ∧
          (∀ k : Fin 32, (t.core.tiles.t[k]).data = (s.core.tiles.t[k]).data ∧
            (k ≠ s.core.tileFrom top → t.core.tiles.t[k] = s.core.tiles.t[k])) ∧
          (t.core.tiles.t[s.core.tileFrom top]).flag =
            (if keep then (s.core.tiles.t[s.core.tileFrom top]).flag else .empty) ∧
          t.core.csr = { s.core.csr with genA := (Claim.runs s ps idx.isSome).getLastD s.core.csr.genA } ∧
          t.core.regs = s.core.regs ∧ t.core.vec = s.core.vec ∧ t.core.mem = s.core.mem ∧
          t.left = s.left ∧ t.right = s.right ∧ t.dev.sbm = s.dev.sbm ∧ t.dev.host = s.dev.host ∧ t.dev.peer = s.dev.peer ∧
          t.dev.meta_ = s.dev.meta_ ∧
          (s.dev.canonical → Claim.entriesMarked s t ps 0xC0))

/-- A unit of a tile load that performs on a page without a format: its bytes stand in the tile from its offset on, and
no other byte of a tile, no memory and no register changes. -/
def Sys2Proof.Claim.tileLoadFillsItsTile : Prop :=
  ∀ (s : State) (k : Nat) (a : Access) (u : AUnit) (n : Fin 32) (completing : Bool),
    Claim.performs s k a u → a.op = .tileLoad n completing → u.tag = 0 → u.data = 0 →
    Memory.wf (s.core.tiles.t[n]).data = true →
      ∃ t, exec (.accessPerform k) s = .next t ∧
        (∀ j, readByte (t.core.tiles.t[n]).data j =
          if u.off ≤ j ∧ j < u.off + u.size then
            BitVec.ofNat 8 (s.readHome s.core.ctxId u.home u.size / 256 ^ (j - u.off))
          else readByte (s.core.tiles.t[n]).data j) ∧
        (∀ m : Fin 32, (m ≠ n → t.core.tiles.t[m] = s.core.tiles.t[m]) ∧
          (t.core.tiles.t[m]).flag = (s.core.tiles.t[m]).flag) ∧
        t.core.regs = s.core.regs ∧ t.core.vec = s.core.vec ∧ t.core.mem = s.core.mem ∧ t.dev = s.dev ∧
        t.left = s.left ∧ t.right = s.right

/-- The rows of a tile word have their addresses, and the bytes that a tile load reads fill its tile. -/
def Obligations.TileLoadsFillTheirTile : Prop := Claim.tileRowsHaveTheirAddresses ∧ Claim.tileLoadFillsItsTile

/-- A ring of tiles shares no tile with any other valid queue (01 R32). -/
def Sys2Proof.Claim.ringIsApart (s : State) (q : Fin 8) (base len : Nat) : Prop :=
  ∀ k : Fin 8, k ≠ q → (s.core.tiles.tq[k]).valid = true →
    base + len ≤ (s.core.tiles.tq[k]).base ∨ (s.core.tiles.tq[k]).base + (s.core.tiles.tq[k]).len ≤ base

/-- A queue is not valid, or every tile of its ring was empty at the start of the ref cycle (01 R30, R32). -/
def Sys2Proof.Claim.ringIsEmpty (s : State) (q : Fin 8) : Prop :=
  (s.core.tiles.tq[q]).valid = true → ∀ t : Fin 32, (s.core.tiles.tq[q]).base ≤ t.val →
    t.val < (s.core.tiles.tq[q]).base + (s.core.tiles.tq[q]).len → (s.core.tiles.t[t]).seen = .empty

/-- QDEF: a ring outside t0–t31, one of no tile, one that overlaps another valid queue, and the redefinition of a valid
queue while a tile of its old ring is not empty raise *queue definition* with the queue in DETAIL and 1 to 4 in ARG, the
lowest where several apply (the model's choice, log entry 42); any other takes effect at the end of the ref cycle, with
HEAD and TAIL 0. -/
def Sys2Proof.Claim.queuesAreDefined : Prop :=
  ∀ (q : Fin 8) (base : Fin 32) (len : BitVec 6) (s : State),
    s.precheck .a (.qdef q base len) = none → s.core.awake 1 = true → s.core.awake 2 = true →
      (32 < base.val + len.toNat → exec (.qdef q base len) s = .next (s.raise .a ⟨0x15, q.val, 1, 0, 0⟩)) ∧
      (len = 0 → exec (.qdef q base len) s = .next (s.raise .a ⟨0x15, q.val, 2, 0, 0⟩)) ∧
      (base.val + len.toNat ≤ 32 → len ≠ 0 → ¬Claim.ringIsApart s q base.val len.toNat →
        exec (.qdef q base len) s = .next (s.raise .a ⟨0x15, q.val, 3, 0, 0⟩)) ∧
      (base.val + len.toNat ≤ 32 → len ≠ 0 → Claim.ringIsApart s q base.val len.toNat → ¬Claim.ringIsEmpty s q →
        exec (.qdef q base len) s = .next (s.raise .a ⟨0x15, q.val, 4, 0, 0⟩)) ∧
      (base.val + len.toNat ≤ 32 → len ≠ 0 → Claim.ringIsApart s q base.val len.toNat → Claim.ringIsEmpty s q →
          exec (.qdef q base len) s = .next ((s.modFocus fun c =>
            { c with ctl := { c.ctl with atEnd := c.ctl.atEnd ++ [.qdef q ⟨true, 0, 0, len.toNat, base.val⟩] } }).behind .a .seq)) ∧
      (∀ d : TQ, s.applyEnd (.qdef q d) =
        { s with core := { s.core with tiles := { s.core.tiles with tq := vset s.core.tiles.tq q d } } })

/-- Every tile word of A and QDEF completes. -/
def Obligations.TileWordsComplete : Prop := Claim.tileWordsComplete ∧ Claim.queuesAreDefined

/-! ## Words of V (07 R196–R225) -/

/-- The rounding mode of a word at its issue: its own, or FPSTATUS.RM for dyn (07 R199, 01 R12). -/
def Sys2Proof.Claim.mode (s : State) : Rm → Mode1
  | .rne => .rne
  | .rtz => .rtz
  | .rup => .rup
  | .rdn => .rdn
  | _ => match s.core.csr.fpstatus.toNat / 2 ^ 5 with
    | 0 => .rne
    | 1 => .rtz
    | 2 => .rup
    | _ => .rdn

/-- The integer nearest to u / q in a rounding mode, as a magnitude under its sign; ties to even under rne (04 R137). -/
def Sys2Proof.Claim.nearest (mode : Mode1) (neg : Bool) (u q : Nat) : Nat :=
  let r := u % q
  u / q + if (match mode with
    | .rne => decide (q < 2 * r ∨ (2 * r = q ∧ u / q % 2 = 1))
    | .rup => !neg && decide (r ≠ 0)
    | .rdn => neg && decide (r ≠ 0)
    | _ => false) then 1 else 0

/-- The lane words: mask, destination, latency, and the lane's value with its flags. Integers of a type of w bits wrap
to w bits and are sign-extended (07 R197); a floating-point result is the exact one, rounded once (04 R136). The special
cases are those of 04 R137 and of the tables of 07 R213 and R214. For the exact 1/x and 1/√x stand numbers of enough
bits, of which `quotientsAreExact` says how they lie to them; for 2^x and log2 x those of the model (DEDUCED, log entry
12). -/
def Sys2Proof.Claim.lane (i : Instr) (s : State) : Option (MNo × VNo × Nat × (Nat → Word32 × Flags)) :=
  let x := fun (v : VNo) (k : Nat) => vget s.core.vec.v[v] k 0
  let z := fun (ty : Ty) (v : VNo) (k : Nat) => (BitVec.ofNat ty.width (x v k).toNat).toInt
  let n := fun (ty : Ty) (v : VNo) (k : Nat) => (x v k).toNat % 2 ^ ty.width
  let num := fun (ty : Ty) (v : VNo) (k : Nat) => decodeFp ty (n ty v k)
  let int := fun (ty : Ty) (v : Int) => (((BitVec.ofInt ty.width v).signExtend 32, 0) : Word32 × Flags)
  let fp := fun (ty : Ty) (rm : Rm) (r : Machine.Num × Flags) =>
    ((BitVec.ofNat 32 (roundFp ty (Claim.mode s rm) r.1).1, r.2 ||| (roundFp ty (Claim.mode s rm) r.1).2) : Word32 × Flags)
  let down := fun rm : Rm => decide (Claim.mode s rm = .rdn)
  let one := fun (m : MNo) (d : VNo) (lat : Nat) (f : Nat → Word32 × Flags) => some (m, d, lat, f)
  let plain := fun (m : MNo) (d : VNo) (lat : Nat) (f : Nat → Word32) =>
    some (m, d, lat, fun k => ((f k, 0) : Word32 × Flags))
  let lat := fun ty : Ty => if ty.fp then 4 else 2
  let quiet := fun (ty : Ty) (sig : Bool) => ((BitVec.ofNat 32 (defaultNaN ty), if sig then 1 else 0) : Word32 × Flags)
  let same := fun (ty : Ty) (v : VNo) (k : Nat) => ((BitVec.ofNat 32 (n ty v k), 0) : Word32 × Flags)
  let infinite := fun neg : Bool => if neg then 0xFF800000#32 else 0x7F800000#32
  let zero := fun neg : Bool => if neg then 0x80000000#32 else 0#32
  match i with
  | .vadd ty m rm d a b => one m d (lat ty) fun k =>
      if ty.fp then fp ty rm (numAdd (down rm) (num ty a k) (num ty b k)) else int ty (z ty a k + z ty b k)
  | .vsub ty m rm d a b => one m d (lat ty) fun k =>
      if ty.fp then fp ty rm (numAdd (down rm) (num ty a k) (num ty b k).neg) else int ty (z ty a k - z ty b k)
  | .vmul ty m rm d a b => one m d (lat ty) fun k =>
      if ty.fp then fp ty rm (numMul (num ty a k) (num ty b k)) else int ty (z ty a k * z ty b k)
  | .vfma ty m rm d a b c => one m d 5 fun k => fp ty rm (numFma (down rm) (num ty a k) (num ty b k) (num ty c k))
  | .vfms ty m rm d a b c => one m d 5 fun k => fp ty rm (numFma (down rm) (num ty a k) (num ty b k) (num ty c k).neg)
  | .vnfma ty m rm d a b c => one m d 5 fun k => fp ty rm (numFma (down rm) (num ty a k).neg (num ty b k) (num ty c k))
  | .vmin ty m _ d a b => one m d (lat ty) fun k =>
      if ty.fp then
        if (num ty a k).isNaN || (num ty b k).isNaN then
          (BitVec.ofNat 32 (defaultNaN ty), if (num ty a k).isSig || (num ty b k).isSig then 1 else 0)
        else (BitVec.ofNat 32 (if numLt (num ty b k) (num ty a k) then n ty b k else n ty a k), 0)
      else int ty (min (z ty a k) (z ty b k))
  | .vmax ty m _ d a b => one m d (lat ty) fun k =>
      if ty.fp then
        if (num ty a k).isNaN || (num ty b k).isNaN then
          (BitVec.ofNat 32 (defaultNaN ty), if (num ty a k).isSig || (num ty b k).isSig then 1 else 0)
        else (BitVec.ofNat 32 (if numLt (num ty a k) (num ty b k) then n ty b k else n ty a k), 0)
      else int ty (max (z ty a k) (z ty b k))
  | .vabs ty m _ d a => one m d (lat ty) fun k =>
      if ty.fp then (BitVec.ofNat 32 (if (num ty a k).isNaN then defaultNaN ty else n ty a k % 2 ^ (ty.width - 1)), 0)
      else int ty ((z ty a k).natAbs)
  | .vneg ty m _ d a => one m d (lat ty) fun k =>
      if ty.fp then (BitVec.ofNat 32 (if (num ty a k).isNaN then defaultNaN ty
        else n ty a k % 2 ^ (ty.width - 1) + (if 2 ^ (ty.width - 1) ≤ n ty a k then 0 else 2 ^ (ty.width - 1))), 0)
      else int ty (-(z ty a k))
  | .vaddi ty m rm d a imm => one m d (lat ty) fun k =>
      if ty.fp then fp ty rm (numAdd (down rm) (num ty a k) (decodeFp ty (imm.toNat % 2 ^ ty.width)))
      else int ty (z ty a k + (BitVec.ofNat ty.width imm.toNat).toInt)
  | .vmovi m d imm => plain m d 2 fun _ => imm
  | .vsel m d a b c => plain m d 2 fun k => if (s.core.readM c).getLsbD k then x a k else x b k
  | .vand m d a b => plain m d 2 fun k => x a k &&& x b k
  | .vor m d a b => plain m d 2 fun k => x a k ||| x b k
  | .vxor m d a b => plain m d 2 fun k => x a k ^^^ x b k
  | .vandn m d a b => plain m d 2 fun k => x a k &&& ~~~x b k
  | .vnot m d a => plain m d 2 fun k => ~~~x a k
  | .vsll ty m d a b => one m d 2 fun k => int ty (z ty a k * 2 ^ ((x b k).toNat % ty.width))
  | .vsrl ty m d a b => one m d 2 fun k => int ty (n ty a k / 2 ^ ((x b k).toNat % ty.width) : Nat)
  | .vsra ty m d a b => one m d 2 fun k => int ty (z ty a k / 2 ^ ((x b k).toNat % ty.width))
  | .vslli ty m d a sh => one m d 2 fun k => int ty (z ty a k * 2 ^ sh.val)
  | .vsrli ty m d a sh => one m d 2 fun k => int ty (n ty a k / 2 ^ sh.val : Nat)
  | .vsrai ty m d a sh => one m d 2 fun k => int ty (z ty a k / 2 ^ sh.val)
  | .vroundi ty m rm d a => one m d 4 fun k =>
    match num ty a k with
    | .nan sig => quiet ty sig
    | .inf _ => same ty a k
    | .fin neg u e => if 0 ≤ e then same ty a k
      else (BitVec.ofNat 32 (packFin ty neg (Claim.nearest (Claim.mode s rm) neg u (2 ^ (-e).toNat)) 0), 0)
  | .vfexp2 m rm d a => one m d 6 fun k =>
    match num .f32 a k with
    | .nan sig => quiet .f32 sig
    | .inf _ => quiet .f32 true
    | .fin neg u e => if magLt 1 0 u e then quiet .f32 true else fp .f32 rm (numExp2 neg u e, 0)
  | .vscaleb m rm d a b => one m d 4 fun k =>
    match num .f32 a k with
    | .nan sig => quiet .f32 sig
    | .inf _ => same .f32 a k
    | .fin neg u e => if u = 0 then same .f32 a k else fp .f32 rm (.fin neg u (e + (x b k).toInt), 0)
  | .vgetexp m _ d a => one m d 4 fun k =>
    match num .f32 a k with
    | .nan sig => quiet .f32 sig
    | .inf _ => (infinite false, 0)
    | .fin _ u e => if u = 0 then (infinite true, 2) else fp .f32 .rne (numOfInt (floorLog u e), 0)
  | .vgetmant m _ d a => one m d 4 fun k =>
    match num .f32 a k with
    | .nan sig => quiet .f32 sig
    | .inf _ => quiet .f32 true
    | .fin neg u _ => if u = 0 then same .f32 a k else fp .f32 .rne (.fin neg u (-(Nat.log2 u : Int)), 0)
  | .vrcp m rm d a => one m d 6 fun k =>
    match num .f32 a k with
    | .nan sig => quiet .f32 sig
    | .inf neg => (zero neg, 0)
    | .fin neg u e => if u = 0 then (infinite neg, 2) else fp .f32 rm (recip neg u e, 0)
  | .vrsq m rm d a => one m d 6 fun k =>
    match num .f32 a k with
    | .nan sig => quiet .f32 sig
    | .inf neg => if neg then quiet .f32 true else (zero false, 0)
    | .fin neg u e => if u = 0 then (infinite neg, 2) else if neg then quiet .f32 true else fp .f32 rm (rsqrt u e, 0)
  | .vlog2 m rm d a => one m d 6 fun k =>
    match num .f32 a k with
    | .nan sig => quiet .f32 sig
    | .inf neg => if neg then quiet .f32 true else (infinite false, 0)
    | .fin neg u e => if u = 0 then (infinite true, 2) else if neg then quiet .f32 true else fp .f32 rm (numLog2 u e, 0)
  | .vclass m d a => plain m d 2 fun k => BitVec.ofNat 32 <| 2 ^
    match num .f32 a k with
    | .inf neg => if neg then 0 else 7
    | .nan sig => if sig then 8 else 9
    | .fin neg u _ =>
      if u = 0 then (if neg then 3 else 4)
      else if (x a k).toNat / 2 ^ 23 % 2 ^ 8 = 0 then (if neg then 2 else 5)
      else if neg then 1 else 6
  | .vperm m d a b => plain m d 7 fun k => if (x b k).toNat < 128 then x a (x b k).toNat else 0
  | .viota m d => plain m d 2 fun k => BitVec.ofNat 32 k
  | .vmov m d src => plain m d 2 fun k => s.core.vsrc src k
  | _ => none

/-- Lanes whose enabled ones have their values, and flags that are those of the enabled lanes together (07 R198, R199).
-/
def Sys2Proof.Claim.enabledLanes (en : Mask) (f : Nat → Word32 × Flags) (r : Vector Word32 128) (fl : Flags) : Prop :=
  (∀ k : Fin 128, en.getLsbD k = true → r[k] = (f k).1) ∧
    ∀ b : Nat, fl.getLsbD b = true ↔ ∃ k, k < 128 ∧ en.getLsbD k = true ∧ (f k).2.getLsbD b = true

/-- Every lane word whose checks pass and whose d.v is Awake issues, the lanes of its mask on their way. -/
def Sys2Proof.Claim.laneWordsComplete : Prop :=
  ∀ (i : Instr) (s : State) (m : MNo) (d : VNo) (lat : Nat) (f : Nat → Word32 × Flags),
    Claim.lane i s = some (m, d, lat, f) → s.precheck .v i = none → s.core.awake 3 = true →
      ∃ t r fl, exec i s = .next t ∧ Claim.enabledLanes (s.core.readM m) f r fl ∧
        Lands .v s t [⟨.vreg d (s.core.readM m), .lanes r, lat, fl⟩] ∧ GoesOn .v s t ∧ OnlyStream .v s t

/-- The numbers that stand for 1/x and 1/√x of x = m · 2^e: at least 64 leading bits `v` of the exact value, and below
them one bit that is set exactly where bits of it are left out, so that they round as the exact value does. The exact
cases of 2^x and log2 x: 2^x of −1, 0 and 1, and the logarithm of a power of two (04 R137, 07 R213). -/
def Sys2Proof.Claim.quotientsAreExact : Prop :=
  ∀ (neg : Bool) (m : Nat) (e : Int), m ≠ 0 →
    (∃ (v k : Nat) (more : Bool), recip neg m e = .fin neg (2 * v + if more then 1 else 0) (-e - k - 1) ∧ 2 ^ 63 ≤ v ∧
      v * m ≤ 2 ^ k ∧ 2 ^ k < (v + 1) * m ∧ (more = true ↔ v * m < 2 ^ k)) ∧
    (∃ (v i j : Nat) (q : Int) (more : Bool), rsqrt m e = .fin false (2 * v + if more then 1 else 0) (q - 1) ∧
      2 ^ 63 ≤ v ∧ (j : Int) - i = e + 2 * q ∧ v * v * m * 2 ^ j ≤ 2 ^ i ∧ 2 ^ i < (v + 1) * (v + 1) * m * 2 ^ j ∧
      (more = true ↔ v * v * m * 2 ^ j < 2 ^ i)) ∧
    numExp2 neg 0 e = .fin false 1 0 ∧ (∀ k : Nat, numExp2 neg (2 ^ k) (-k) = .fin false 1 (if neg then -1 else 1)) ∧
    (∀ k : Nat, numLog2 (2 ^ k) e = .fin (decide ((k : Int) + e < 0)) ((k : Int) + e).natAbs 0)

/-- Every lane word completes, and the numbers that stand for exact values do so. The lanes of VFEXP2 and VLOG2 are the
model's own numbers (DEDUCED, log entry 12): that they are the rounded exact values of 07 R213 rests on the bounds named
there. -/
def Obligations.LaneWordsComplete : Prop := Claim.laneWordsComplete ∧ Claim.quotientsAreExact

/-- The words that write a mask: mask, destination, latency, and the bit with its flags (07 R204, R223). -/
def Sys2Proof.Claim.maskBit (i : Instr) (s : State) : Option (MNo × MNo × Nat × (Nat → Bool × Flags)) :=
  let z := fun (ty : Ty) (v : VNo) (k : Nat) => (BitVec.ofNat ty.width (vget s.core.vec.v[v] k 0).toNat).toInt
  let num := fun (ty : Ty) (v : VNo) (k : Nat) => decodeFp ty ((vget s.core.vec.v[v] k 0).toNat % 2 ^ ty.width)
  let cmp := fun (ty : Ty) (m d : MNo) (a b : VNo) (unordered signals : Bool) (int : Int → Int → Bool) (ord : Machine.Num → Machine.Num → Bool) =>
    some (m, d, if ty.fp then 4 else 2, fun k =>
      if ty.fp then
        let p := num ty a k
        let q := num ty b k
        if p.isNaN || q.isNaN then (unordered, if p.isSig || q.isSig || signals then (1 : Flags) else 0) else (ord p q, 0)
      else (int (z ty a k) (z ty b k), (0 : Flags)))
  let logic := fun (m d : MNo) (f : Nat → Bool) => some (m, d, 2, fun k => (f k, (0 : Flags)))
  let q := fun (m : MNo) (k : Nat) => (s.core.readM m).getLsbD k
  match i with
  | .vcmpEq ty m d a b => cmp ty m d a b false false (fun u v => decide (u = v)) numEq
  | .vcmpNe ty m d a b => cmp ty m d a b true false (fun u v => decide (u ≠ v)) fun u v => !numEq u v
  | .vcmpLt ty m d a b => cmp ty m d a b false true (fun u v => decide (u < v)) fun u v => numLt u v && !numEq u v
  | .vcmpLe ty m d a b => cmp ty m d a b false true (fun u v => decide (u ≤ v)) fun u v => numLt u v || numEq u v
  | .vcmpGt ty m d a b => cmp ty m d a b false true (fun u v => decide (v < u)) fun u v => !numLt u v && !numEq u v
  | .vcmpGe ty m d a b => cmp ty m d a b false true (fun u v => decide (v ≤ u)) fun u v => !numLt u v || numEq u v
  | .vcmpUn ty m d a b => cmp ty m d a b true false (fun _ _ => false) fun _ _ => false
  | .vmand m d a b => logic m d fun k => q a k && q b k
  | .vmor m d a b => logic m d fun k => q a k || q b k
  | .vmxor m d a b => logic m d fun k => q a k ^^ q b k
  | .vmandn m d a b => logic m d fun k => q a k && !q b k
  | .vmnot m d a => logic m d fun k => !q a k
  | .vmmov m d a => logic m d fun k => q a k
  | _ => none

/-- Every word that writes a mask issues, the bits of its mask on their way. -/
def Obligations.MaskWordsComplete : Prop :=
  ∀ (i : Instr) (s : State) (m d : MNo) (lat : Nat) (f : Nat → Bool × Flags),
    Claim.maskBit i s = some (m, d, lat, f) → s.precheck .v i = none → s.core.awake 3 = true →
      ∃ t r fl, exec i s = .next t ∧
        (∀ k, k < 128 → (s.core.readM m).getLsbD k = true → r.getLsbD k = (f k).1) ∧
        (∀ b : Nat, fl.getLsbD b = true ↔ ∃ k, k < 128 ∧ (s.core.readM m).getLsbD k = true ∧ (f k).2.getLsbD b = true) ∧
        Lands .v s t [⟨.mreg d (s.core.readM m), .mask r, lat, fl⟩] ∧ GoesOn .v s t ∧ OnlyStream .v s t

/-- The scale byte of a block of values quantised into an MX format (04 R121): 0xFF where one is a NaN or infinite, 127
where all are zero, else from the leading bit of the greatest magnitude. -/
def Sys2Proof.Claim.blockScale (dst : Ty) (vs : List Machine.Num) (scale : Nat) : Prop :=
  let odd := ∃ v ∈ vs, ∀ b m e, v ≠ Machine.Num.fin b m e
  (odd → scale = 255) ∧
    (¬ odd → (∀ b m e, Machine.Num.fin b m e ∈ vs → m = 0) → scale = 127) ∧
    (¬ odd → ∀ top : Int, (∀ b m e, Machine.Num.fin b m e ∈ vs → m ≠ 0 → floorLog m e ≤ top) →
      (∃ b m e, Machine.Num.fin b m e ∈ vs ∧ m ≠ 0 ∧ floorLog m e = top) →
        (scale : Int) = max 0 (min 254 (top - (if dst = .e2m1 then 2 else 8) + 127)))

/-- A lane of an MX quantisation under the scale of its block, with its flags (04 R121, 07 R210): zero with NV under
0xFF, else its value divided by 2^(S − 127) in the element format, saturating, with NX where that is inexact. -/
def Sys2Proof.Claim.quantLane (dst : Ty) (mode : Mode1) (scale : Nat) (x : Machine.Num) : Word32 × Flags :=
  if scale = 255 then (0xFF00#32, 1)
  else
    let y := match x with
      | .fin b m e => Machine.Num.fin b m (e - ((scale : Int) - 127))
      | x => x
    let c := encodeFp dst mode true y
    (BitVec.ofNat 32 (c.1 + 256 * scale), if c.2.inexact then 16 else 0)

/-- VCVT issues, its lanes on their way at latency 4: a conversion without MX of one lane at a time; with SR, of the
bits that the vector converter's generator draws after its one step, which no other word of V takes (07 R208–R211, 04
R139). A conversion into an MX format quantises the enabled lanes of each block of 32 under one scale, and one from it
widens each lane under the scale that it holds. -/
def Sys2Proof.Claim.conversionsComplete : Prop :=
  ∀ (dst src : Ty) (mx ns : Bool) (m : MNo) (rm : Rm) (d a : VNo) (s : State),
    s.precheck .v (.vcvt dst src mx ns m rm d a) = none → s.core.awake 3 = true →
      let g : Word32 := if rm = .sr then lfsrStep s.core.csr.genV else s.core.csr.genV
      ∃ t r fl, exec (.vcvt dst src mx ns m rm d a) s = .next t ∧
        Lands .v s t [⟨.vreg d (s.core.readM m), .lanes r, 4, fl⟩] ∧ GoesOn .v s t ∧
        t.core.csr = { s.core.csr with genV := g } ∧
        OnlyStream .v s { t with core := { t.core with csr := s.core.csr } } ∧
        (mx = false → Claim.enabledLanes (s.core.readM m) (fun k => cvtLane dst src (!ns)
          (if rm = .sr then .sr (srBits g (k % 128) (if 16 ≤ dst.width then 16 else 12)) (if 16 ≤ dst.width then 16 else 12)
            else Claim.mode s rm) (vget s.core.vec.v[a] k 0)) r fl) ∧
        (mx = true → src = .f32 → ∃ scale : Nat → Nat,
          (∀ j, j < 4 → Claim.blockScale dst (((List.range 32).filter fun k => (s.core.readM m).getLsbD (32 * j + k)).map
            fun k => decodeFp .f32 (vget s.core.vec.v[a] (32 * j + k) 0).toNat) (scale j)) ∧
          Claim.enabledLanes (s.core.readM m) (fun k => Claim.quantLane dst
            (if rm = .sr then .sr (srBits g (k % 128) (if 16 ≤ dst.width then 16 else 12)) (if 16 ≤ dst.width then 16 else 12)
              else Claim.mode s rm) (scale (k / 32)) (decodeFp .f32 (vget s.core.vec.v[a] k 0).toNat)) r fl) ∧
        (mx = true → src.fp = false →
          Claim.enabledLanes (s.core.readM m) (fun k => mxWiden src (vget s.core.vec.v[a] k 0)) r fl)

/-- The enabled lanes of a vector register, in order. -/
def Sys2Proof.Claim.enabled (s : State) (m : MNo) (a : VNo) : List Word32 :=
  ((List.range 128).filter fun k => (s.core.readM m).getLsbD k).map fun k => vget s.core.vec.v[a] k 0

/-- Node `j` of level `l` of the tree of 04 R138 over lanes of which some are valid, with the flags of its additions:
two valid children combined, the one of lower index first; one valid child as it is. -/
def Sys2Proof.Claim.node (op : Word32 → Word32 → Word32 × Flags) (x : Nat → Option Word32) : Nat → Nat → Option Word32 × Flags
  | 0, j => (x j, 0)
  | l + 1, j =>
    let p := Claim.node op x l (2 * j)
    let q := Claim.node op x l (2 * j + 1)
    match p.1, q.1 with
    | some u, some v => (some (op u v).1, p.2 ||| q.2 ||| (op u v).2)
    | some u, none => (some u, p.2 ||| q.2)
    | none, v => (v, p.2 ||| q.2)

/-- What a reduction combines two FP32 values with (04 R136, R138): their sum rounded once, or the greater or the
lesser, −0 below +0 and a NaN giving the default NaN. -/
def Sys2Proof.Claim.combine (i : Instr) (mode : Mode1) (u v : Word32) : Word32 × Flags :=
  let x := decodeFp .f32 u.toNat
  let y := decodeFp .f32 v.toNat
  let pick := fun (second : Bool) =>
    if x.isNaN || y.isNaN then ((0x7FC00000#32, if x.isSig || y.isSig then 1 else 0) : Word32 × Flags)
    else (if second then v else u, 0)
  match i with
  | .vredSum _ _ _ _ _ =>
    let r := numAdd (decide (mode = .rdn)) x y
    (BitVec.ofNat 32 (roundFp .f32 mode r.1).1, r.2 ||| (roundFp .f32 mode r.1).2)
  | .vredMax _ _ _ _ _ => pick (numLt x y)
  | _ => pick (numLt y x)

/-- The value that a reduction gives without a valid lane in FP32: +0, −Inf or +Inf (04 R138). -/
def Sys2Proof.Claim.identity (i : Instr) : Word32 :=
  match i with
  | .vredSum _ _ _ _ _ => 0
  | .vredMax _ _ _ _ _ => 0xFF800000#32
  | _ => 0x7F800000#32

/-- The reductions issue, every lane of their mask receiving one value at latency 7. In 32-bit integers it is the
wrapping sum of the enabled lanes, their greatest or their least; with no lane enabled 0, −2^31 or 2^31 − 1 (07 R215).
In FP32 it is the root of the tree of 04 R138 over the enabled lanes, a NaN as the default NaN; a signalling NaN in an
enabled lane sets NV. -/
def Sys2Proof.Claim.reductionsComplete : Prop :=
  ∀ (ty : Ty) (m : MNo) (rm : Rm) (d a : VNo) (s : State) (i : Instr),
    i ∈ [Instr.vredSum ty m rm d a, .vredMax ty m rm d a, .vredMin ty m rm d a] → s.precheck .v i = none →
    s.core.awake 3 = true →
      ∃ t x fl, exec i s = .next t ∧
        Lands .v s t [⟨.vreg d (s.core.readM m), .lanes (Vector.replicate 128 x), 7, fl⟩] ∧ GoesOn .v s t ∧ OnlyStream .v s t ∧
        (ty = .f32 →
          let lane := fun k : Nat => vget s.core.vec.v[a] k 0
          let root := Claim.node (Claim.combine i (Claim.mode s rm))
            (fun k => if (s.core.readM m).getLsbD k then some (lane k) else none) 7 0
          let y := root.1.getD (Claim.identity i)
          x = (if (decodeFp .f32 y.toNat).isNaN then 0x7FC00000#32 else y) ∧
            ∀ b : Nat, fl.getLsbD b = true ↔ root.2.getLsbD b = true ∨
              (b = 0 ∧ ∃ k, k < 128 ∧ (s.core.readM m).getLsbD k = true ∧ (decodeFp .f32 (lane k).toNat).isSig = true)) ∧
        (ty = .i32 → fl = 0 ∧
          (i = .vredSum ty m rm d a → x = (Claim.enabled s m a).sum) ∧
          (i = .vredMax ty m rm d a → (Claim.enabled s m a = [] → x = 0x80000000#32) ∧
            (Claim.enabled s m a ≠ [] → x ∈ Claim.enabled s m a ∧ ∀ y ∈ Claim.enabled s m a, y.toInt ≤ x.toInt)) ∧
          (i = .vredMin ty m rm d a → (Claim.enabled s m a = [] → x = 0x7FFFFFFF#32) ∧
            (Claim.enabled s m a ≠ [] → x ∈ Claim.enabled s m a ∧ ∀ y ∈ Claim.enabled s m a, x.toInt ≤ y.toInt)))

/-- VCVT and the reductions complete. -/
def Obligations.ConversionsAndReductionsComplete : Prop := Claim.conversionsComplete ∧ Claim.reductionsComplete

/-- The words of V that meet the other streams. VBCAST gives the low 32 bits of a full word register to every lane; VPOP
gives a part of a full tile, little-endian; VPUSH puts its lanes on their way into a tile at latency 2; VDRAIN rounds or
takes a claimed row of the accumulator in the lanes of its group at latency 6; VPUTE in a core with no column to its
east has no effect, and else hands its lanes to that core, its own registers unchanged (07 R217–R222). -/
def Obligations.VectorMovesComplete : Prop :=
  (∀ (m : MNo) (d : VNo) (w : WNo) (keep : Bool) (st : Stall) (s : State),
    s.precheck .v (.vbcast m d w keep st) = none → s.core.awake 3 = true → (s.core.regs.w[w]).canRead keep = true →
      ∃ t, exec (.vbcast m d w keep st) s = .next t ∧ GoesOn .v s t ∧
        Lands .v s t [⟨.vreg d (s.core.readM m), .lanes (Vector.replicate 128 ((s.core.regs.w[w]).data.setWidth 32)), 2, 0⟩] ∧
        (t.core.regs.w[w]).flag = (if keep then (s.core.regs.w[w]).flag else .empty) ∧
        OnlyStream .v s { t with core := { t.core with regs := s.core.regs } }) ∧
  (∀ (m : MNo) (d : VNo) (top : TileRef) (part : Fin 8) (keep : Bool) (st : Stall) (s : State),
    s.precheck .v (.vpop m d top part keep st) = none → s.core.awake 1 = true → s.core.awake 3 = true →
    (s.core.tiles.t[s.core.tileFrom top]).canRead keep = true →
      ∃ t r, exec (.vpop m d top part keep st) s = .next t ∧ GoesOn .v s t ∧
        Lands .v s t [⟨.vreg d (s.core.readM m), .lanes r, 2, 0⟩] ∧
        (∀ k : Fin 128, (r[k]).toNat = readLE (s.core.tiles.t[s.core.tileFrom top]).data (512 * part.val + 4 * k.val) 4) ∧
        (t.core.tiles.t[s.core.tileFrom top]).flag =
          (if keep then (s.core.tiles.t[s.core.tileFrom top]).flag else .empty) ∧
        OnlyStream .v s { t with core := { t.core with tiles := s.core.tiles } }) ∧
  (∀ (m : MNo) (a : VNo) (top : TileRef) (part : Fin 8) (p : Bool) (st : Stall) (s : State),
    s.precheck .v (.vpush m a top part p st) = none → s.core.awake 1 = true → s.core.awake 3 = true →
    (s.core.tiles.t[s.core.tileTo top]).canWrite .v = true →
      ∃ t, exec (.vpush m a top part p st) s = .next t ∧ GoesOn .v s t ∧
        Lands .v s t [⟨.tileRow (s.core.tileTo top) part (s.core.readM m) (!p), .lanes s.core.vec.v[a], 2, 0⟩] ∧
        (t.core.tiles.t[s.core.tileTo top]).flag = .filling .v ∧
        (∀ k : Fin 32, (t.core.tiles.t[k]).data = (s.core.tiles.t[k]).data) ∧
        OnlyStream .v s { t with core := { t.core with tiles := s.core.tiles } }) ∧
  (∀ (ty : Ty) (m : MNo) (rm : Rm) (d : VNo) (acc row : Fin 32) (lg : Fin 4) (st : Stall) (s : State),
    s.precheck .v (.vdrain ty m rm d acc row lg st) = none → s.core.awake 3 = true → s.core.awake (23 + acc.val / 4) = true →
    (∃ k : Fin 16, let c := (s.core.mx.claims[k]).claim
      (s.core.mx.claims[k]).valid = true ∧ c.tile = acc ∧ c.lg = lg ∧ c.frow ≤ row ∧ row ≤ c.lrow) →
      ∃ t r fl en, exec (.vdrain ty m rm d acc row lg st) s = .next t ∧ GoesOn .v s t ∧ OnlyStream .v s t ∧
        (∀ k, k < 128 → en.getLsbD k = ((s.core.readM m).getLsbD k && decide (k / 32 = lg.val))) ∧
        Lands .v s t [⟨.vreg d en, .lanes r, 6, fl⟩] ∧
        Claim.enabledLanes en (fun k =>
          let v := (spGet s.core.mem.acc (1024 * acc.val + 32 * row.val + k % 32)).toNat % 2 ^ 56
          if ty.fp then (BitVec.ofNat 32 (roundFp .f32 (Claim.mode s rm) (a56Unpack v)).1,
            (roundFp .f32 (Claim.mode s rm) (a56Unpack v)).2) else (BitVec.ofNat 32 v, 0)) r fl) ∧
  (∀ (m : MNo) (a : VNo) (s : State), s.precheck .v (.vpute m a) = none → s.core.awake 3 = true →
    (s.east s.core = none → exec (.vpute m a) s = .next (s.behind .v .seq)) ∧
    (∀ o, s.east s.core = some o → o ≠ s.core.id →
      ∃ t, exec (.vpute m a) s = .next t ∧ GoesOn .v s t ∧ Lands .v s t [] ∧
        OnlyStream .v s { t with left := s.left, right := s.right } ∧
        (∀ c ∈ s.cores, c.id = o → ∃ c' ∈ t.cores, c'.id = o ∧ c'.regs = c.regs ∧ c'.vec.v = c.vec.v ∧
          c'.vec.west.getLast? = some ⟨s.core.ev.index, s.core.readM m, s.core.vec.v[a]⟩)))

/-! ## Words of M (08 R227–R252) -/

/-- The matrix control state after a word that only sets it (08 R235–R237). -/
def Sys2Proof.Claim.setMatrix (i : Instr) (m : Matrix) : Option Matrix :=
  match i with
  | .mset lvl (.imm n) sa sb sc => some { m with shadow := vset m.shadow lvl ⟨n, sa, sb, sc⟩ }
  | .mwin w => some { m with win := w }
  | .mfmt a b => some { m with fa := a, fb := b }
  | .msrc x => some { m with src := x }
  | _ => none

/-- MSET, MWIN, MFMT and MSRC set the matrix control state at issue, whatever a running nest captured; a MSET that takes
its trip count from a full word register takes its low 20 bits and empties it. -/
def Obligations.MatrixSetWordsComplete : Prop :=
  (∀ (i : Instr) (s : State) (m : Matrix), Claim.setMatrix i s.core.mx = some m → s.precheck .m i = none →
    s.core.awake 4 = true →
      exec i s = .next ({ s with core := { s.core with mx := m } }.behind .m .seq) ∧ m.nest = s.core.mx.nest) ∧
  (∀ (lvl : Fin 6) (w : WNo) (st : Stall) (sa sb sc : BitVec 24) (s : State),
    s.precheck .m (.mset lvl (.word w st) sa sb sc) = none → s.core.awake 4 = true →
    (s.core.regs.w[w]).canRead false = true →
      ∃ t, exec (.mset lvl (.word w st) sa sb sc) s = .next t ∧ GoesOn .m s t ∧ Lands .m s t [] ∧
        t.core.mx = { s.core.mx with
          shadow := vset s.core.mx.shadow lvl ⟨BitVec.ofNat 20 (s.core.regs.w[w]).data.toNat, sa, sb, sc⟩ } ∧
        (t.core.regs.w[w]).flag = .empty ∧
        OnlyStream .m s { t with core := { t.core with mx := s.core.mx, regs := s.core.regs } })

/-- MGO and MGO.S: with no nest active, no claim on a tile that the table visits, WIN at most 5, the domains Awake and
the banks of the visited tiles allocated, a nest starts that has captured the table, formats and operands of this
moment, at index 0; a table with a trip count of 0 is captured too and has completed at once (that META is then 0 for
MGO is the model's choice, log entry 37). WIN of 6 or 7 raises *window field invalid* with the value in DETAIL. With the
domains Awake, a visited tile in a bank that is not allocated raises *unallocated accumulator bank*; of several it names
the lowest-numbered tile (the model's choice, log entry 37). -/
def Sys2Proof.Claim.nestsStart : Prop :=
  ∀ (i : Instr) (sparse : Option (BitVec 10)) (s : State),
    (i = .mgo ∧ sparse = none ∨ ∃ md, i = .mgoS md ∧ sparse = some md) → s.precheck .m i = none →
    s.core.mx.active = false →
    let m := s.core.mx
    let empty := decide (∃ l : Fin 6, (m.shadow[l]).trip = 0)
    (empty = true →
      (6 ≤ m.win.val → exec i s = .next (s.raise .m ⟨0x16, m.win.val, 0, 0, 0⟩)) ∧
      (m.win.val < 6 → s.core.awake 4 = true →
        exec i s = .next ({ s with core := { s.core with mx := { m with
          active := false
          table := (⟨m.table.id, m.shadow, m.win, m.fa, m.fb, m.src, sparse.isSome, sparse.getD 0,
            Vector.replicate 6 0, true, [], s.core.peerId m.src.apos.val, s.core.peerId m.src.bpos.val⟩ : Nest) } } }.behind .m .seq))) ∧
    (empty = false → (∀ k : Fin 16, (m.claims[k]).valid = true → (m.claims[k]).claim.tile.val ∉ visited m.shadow) →
      (6 ≤ m.win.val → exec i s = .next (s.raise .m ⟨0x16, m.win.val, 0, 0, 0⟩)) ∧
      (m.win.val < 6 → s.core.awake 4 = true → (sparse.isSome = true → s.core.awake 6 = true) →
        (∀ b ∈ nestBanks m.shadow m.fa m.fb m.src sparse.isSome, s.touchSpad b.1 (b.2 * 2 ^ 17) = none) →
        (∀ t ∈ visited m.shadow, s.core.awake (23 + t / 4) = true) →
          ((∀ t ∈ visited m.shadow, m.alloc.getLsbD (t / 4) = true) →
            exec i s = .next ({ s with
              core := { s.core with mx := { m with
                active := true
                table := (⟨s.dev.fresh, m.shadow, m.win, m.fa, m.fb, m.src, sparse.isSome, sparse.getD 0,
                  Vector.replicate 6 0, false, [], s.core.peerId m.src.apos.val, s.core.peerId m.src.bpos.val⟩ : Nest) } }
              dev := { s.dev with fresh := s.dev.fresh + 1 } }.behind .m .seq)) ∧
          (∀ t ∈ visited m.shadow, m.alloc.getLsbD (t / 4) = false →
            (∀ u ∈ visited m.shadow, u < t → m.alloc.getLsbD (u / 4) = true) →
              exec i s = .next (s.raise .m ⟨0x0B, t / 4, t, 0, 0⟩))))

/-- The windowed sum of a group as 04 R133 gives it: `v` and `h'` are the packed sum and the husk flag after the terms,
with a window of `w` bits and the flag `h` before. A sum of finite terms keeps of each the multiple of 2^q below its
magnitude, q being w − 1 below the leading bit of the greatest. -/
def Sys2Proof.Claim.groupSum (terms : List Machine.Num) (w : Nat) (h : Bool) (v : Nat) (h' : Bool) : Prop :=
  let pos := Machine.Num.inf false ∈ terms
  let neg := Machine.Num.inf true ∈ terms
  let nan := (∃ b, Machine.Num.nan b ∈ terms) ∨ (pos ∧ neg)
  (nan → v = a56Pack (.nan false) ∧ h' = h) ∧ (¬ nan → pos → v = a56Pack (.inf false) ∧ h' = h) ∧
    (¬ nan → neg → v = a56Pack (.inf true) ∧ h' = h) ∧
    (¬ nan → ¬ pos → ¬ neg →
      ((∀ b m e, Machine.Num.fin b m e ∈ terms → m = 0) → v = a56Pack (.fin false 0 0) ∧ h' = h) ∧
      (∀ top : Int, (∀ b m e, Machine.Num.fin b m e ∈ terms → m ≠ 0 → floorLog m e ≤ top) →
        (∃ b m e, Machine.Num.fin b m e ∈ terms ∧ m ≠ 0 ∧ floorLog m e = top) →
          let q : Int := top - w + 1
          let sum : Int := (terms.map fun t => match t with
            | .fin b m e => (if b then -1 else 1) * (shiftBy m (e - q) : Int)
            | _ => 0).sum
          v = a56Pack (.fin (decide (sum < 0)) sum.natAbs q) ∧
            (h' = true ↔ h = true ∨ ∃ b m e, Machine.Num.fin b m e ∈ terms ∧ e < q ∧ m % 2 ^ (q - e).toNat ≠ 0)))

/-- Entry `k` of the tile of a nest's step after the step (08 R239 to R241 over 04 R133 and R135): the products of the
elements of its row of A and its column of B, read in the scratchpads of the cores that it captured, of a sparse nest
those of B that its metadata select, summed into it. A byte that the nest has read early has the value it had then. -/
def Sys2Proof.Claim.entryAfter (s : State) (n : Nest) (k : Nat) (old new : BitVec 57) : Prop :=
  let spad := fun (second : Bool) (id : CoreId) => n.seen second (s.coreAt id).mem.spad
  let oa := n.offset fun l => l.sa
  let g := n.fa.group
  let side := readBytes s.core.mem.side 0 (2 ^ 14)
  let start := ((16 * n.md.toNat : Nat) + oa / 1024 * n.fa.metaBytes : Int)
  let bits := fun j : Nat =>
    let i := 4 * (j / 2) + 2 * (j % 2)
    ((side.getD ((start + ((k / 32 * (n.fa.metaBytes / 32) + i / 8 : Nat) : Int)) % 2 ^ 14).toNat 0).toNat / 2 ^ (i % 8)) % 4
  let a := fun j => blockElem n.fa (spad false n.acore) (blockAddr n.src.abase.toNat oa) g (k / 32) j
  let b := fun j => blockElem n.fb (spad true n.bcore) (blockAddr n.src.bbase.toNat (n.offset fun l => l.sb))
    (if n.sparse then 2 * g else g) (k % 32) (if n.sparse then 4 * (j / 2) + bits j else j)
  ∃ v h, new = BitVec.ofNat 57 (v + if h then 2 ^ 56 else 0) ∧
    (n.fa = .int8 →
      let sum : Int := signed 32 old.toNat + ((List.range g).map fun j => (a j).int * (b j).int).sum
      v = wrap 56 (satInt 32 sum) ∧ (h = true ↔ old.getLsbD 56 = true ∨ satInt 32 sum ≠ sum)) ∧
    (n.fa ≠ .int8 →
      Claim.groupSum ((List.range g).map (fun j => (numMul (a j) (b j)).1) ++ [a56Unpack (old.toNat % 2 ^ 56)])
        (24 + 8 * n.win.val) (old.getLsbD 56) v h)

/-- NEST_STEP and NEST_COMPLETE: a step that no drain holds back gives each entry of its tile the group's sum, whether
it passes its residue check at the first attempt or at the second, which counts in RERUNS and RTILE, and changes
otherwise only the nest's index, which counts up with level 0 innermost; a nest whose last step is done is over. -/
def Sys2Proof.Claim.nestsRun : Prop :=
  (∀ (n : Nest) (misses : Fin 3) (s : State), s.core.mx.nest = some n → n.done = false → s.core.flt.stop = .run →
    vget s.core.flt.drained 3 false = false → (∀ a ∈ s.core.accesses, a.op = .drain → n.id ≤ a.id) → misses.val < 2 →
      ∃ t, exec (.nestStep misses) s = .next t ∧
        (spWf s.core.mem.acc = true → ∀ k, k < 1024 →
          Claim.entryAfter s n k (spGet s.core.mem.acc (1024 * n.tile + k)) (spGet t.core.mem.acc (1024 * n.tile + k))) ∧
        t.core.mx = { s.core.mx with
          table := t.core.mx.table
          reruns := if misses.val = 1 then min (s.core.mx.reruns + 1) 65535 else s.core.mx.reruns
          rtile := if misses.val = 1 then Fin.ofNat 32 n.tile else s.core.mx.rtile } ∧
        (∀ k, (k < 1024 * n.tile ∨ 1024 * n.tile + 1024 ≤ k) → spGet t.core.mem.acc k = spGet s.core.mem.acc k) ∧
        (∃ n', t.core.mx.nest = some n' ∧ n'.levels = n.levels ∧
          ((vget n.index 0 0) + 1 < (vget n.levels 0 Level.reset).trip.toNat →
            n'.done = false ∧ vget n'.index 0 0 = vget n.index 0 0 + 1 ∧ ∀ l, 0 < l → l < 6 → vget n'.index l 0 = vget n.index l 0) ∧
          ((∀ l, l < 6 → (vget n.levels l Level.reset).trip.toNat ≤ vget n.index l 0 + 1) → n'.done = true)) ∧
        t.core.mem.spad = s.core.mem.spad ∧ t.core.mem.side = s.core.mem.side ∧ t.core.regs = s.core.regs ∧
        t.core.vec = s.core.vec ∧ t.core.tiles = s.core.tiles ∧ t.dev = s.dev ∧ t.left = s.left ∧ t.right = s.right) ∧
  (∀ (n : Nest) (s : State), s.core.mx.nest = some n →
    (n.done = true → exec .nestComplete s = .next { s with core := { s.core with mx := { s.core.mx with active := false } } }) ∧
    (n.done = false → exec .nestComplete s = .next s))

/-- MGO starts a nest, and each of its steps accumulates one matrix product. -/
def Obligations.NestsRun : Prop := Claim.nestsStart ∧ Claim.nestsRun

/-- The words of accumulator banks and claims. MALLOC allocates its banks, those that were not allocated reading zero;
MFREE frees banks that hold no claim, and of several that are not allocated its fault names the lowest-numbered (the
model's choice, log entry 37: 08 R233 and R244 do not say which); MZERO clears tiles of allocated banks without a claim;
MCLAIM enters a claim into the lowest free entry; MRELEASE, which does not need the bank awake, invalidates its claim's
entry. Each changes nothing else. -/
def Obligations.AccumulatorWordsComplete : Prop :=
  (∀ (banks : BitVec 8) (s : State), s.precheck .m (.malloc banks) = none → s.core.awake 4 = true →
    (∀ b, b < 8 → banks.getLsbD b = true → s.core.awake (23 + b) = true) →
      ∃ t, exec (.malloc banks) s = .next t ∧ GoesOn .m s t ∧ Lands .m s t [] ∧
        t.core.mx = { s.core.mx with alloc := s.core.mx.alloc ||| banks } ∧
        (∀ k, k < 32768 → spGet t.core.mem.acc k =
          if banks.getLsbD (k / 4096) ∧ ¬ s.core.mx.alloc.getLsbD (k / 4096) then 0 else spGet s.core.mem.acc k) ∧
        OnlyStream .m s { t with core := { t.core with mx := s.core.mx, mem := { t.core.mem with acc := s.core.mem.acc } } }) ∧
  (∀ (banks : BitVec 8) (s : State), s.precheck .m (.mfree banks) = none → s.core.awake 4 = true →
    (∀ b, b < 8 → banks.getLsbD b = true → s.core.awake (23 + b) = true) →
    (∀ t ∈ s.core.busyTiles, banks.getLsbD (t / 4) = false) →
      (∀ b, b < 8 → banks.getLsbD b = true → s.core.mx.alloc.getLsbD b = false →
        (∀ c, c < b → banks.getLsbD c = true → s.core.mx.alloc.getLsbD c = true) →
        exec (.mfree banks) s = .next (s.raise .m ⟨0x0B, b, 0xFFFFFF, 0, 0⟩)) ∧
      ((∀ b, b < 8 → banks.getLsbD b = true → s.core.mx.alloc.getLsbD b = true) →
        (∀ k : Fin 16, (s.core.mx.claims[k]).valid = true → banks.getLsbD ((s.core.mx.claims[k]).claim.tile.val / 4) = false) →
        exec (.mfree banks) s = .next ({ s with core := { s.core with
          mx := { s.core.mx with alloc := s.core.mx.alloc &&& ~~~banks } } }.behind .m .seq))) ∧
  (∀ (tiles : BitVec 32) (s : State), s.precheck .m (.mzero tiles) = none → s.core.awake 4 = true →
    (∀ t, t < 32 → tiles.getLsbD t = true → s.core.awake (23 + t / 4) = true ∧ s.core.mx.alloc.getLsbD (t / 4) = true ∧
      t ∉ s.core.busyTiles ∧ ∀ k : Fin 16, (s.core.mx.claims[k]).valid = true → (s.core.mx.claims[k]).claim.tile.val ≠ t) →
      ∃ u, exec (.mzero tiles) s = .next u ∧ GoesOn .m s u ∧ Lands .m s u [] ∧
        (∀ k, k < 32768 → spGet u.core.mem.acc k = if tiles.getLsbD (k / 1024) then 0 else spGet s.core.mem.acc k) ∧
        OnlyStream .m s { u with core := { u.core with mem := { u.core.mem with acc := s.core.mem.acc } } }) ∧
  (∀ (tile frow lrow : Fin 32) (lg : Fin 4) (s : State), s.core.awake 4 = true → s.core.mx.alloc.getLsbD (tile.val / 4) = true →
    let held := fun k : Fin 16 => (s.core.mx.claims[k]).valid = true
    let own : Machine.Claim := ⟨tile, frow, lrow, lg⟩
    (s.precheck .m (.mclaim tile frow lrow lg) = none → s.core.awake (23 + tile.val / 4) = true → tile.val ∉ s.core.busyTiles →
      (∀ k : Fin 16, held k → (s.core.mx.claims[k]).claim.tile = tile →
        (s.core.mx.claims[k]).claim.lrow < frow ∨ lrow < (s.core.mx.claims[k]).claim.frow) →
      (∀ k : Fin 16, ¬ held k → (∀ j : Fin 16, j < k → held j) →
        exec (.mclaim tile frow lrow lg) s = .next ({ s with core := { s.core with
          mx := { s.core.mx with claims := vset s.core.mx.claims k (⟨true, own⟩ : ClaimEntry) } } }.behind .m .seq)) ∧
      ((∀ k : Fin 16, held k) →
        exec (.mclaim tile frow lrow lg) s = .next (s.raise .m ⟨0x0C, 2, 0, 0, 0⟩))) ∧
    (s.precheck .m (.mrelease tile frow lrow lg) = none →
      ((∃ k : Fin 16, held k ∧ (s.core.mx.claims[k]).claim = own) →
        exec (.mrelease tile frow lrow lg) s = .next ({ s with core := { s.core with
          mx := { s.core.mx with claims := s.core.mx.claims.map fun x : ClaimEntry =>
            if x.claim = own then { x with valid := false } else x } } }.behind .m .seq)) ∧
      ((∀ k : Fin 16, held k → (s.core.mx.claims[k]).claim ≠ own) →
        exec (.mrelease tile frow lrow lg) s = .next (s.raise .m ⟨0x0C, 3, 0, 0, 0⟩))))

/-- A word that reads the accumulator can issue: fewer than 15 writes outstanding, its tile not visited by the nest, in
an Awake and allocated bank. -/
def Sys2Proof.Claim.drainable (s : State) (tile : Fin 32) : Prop :=
  s.core.mx.writes.length < 15 ∧ tile.val ∉ s.core.busyTiles ∧ s.core.awake 4 = true ∧
    s.core.awake (23 + tile.val / 4) = true ∧ s.core.mx.alloc.getLsbD (tile.val / 4) = true

/-- A tile register that a word of M can write. -/
def Sys2Proof.Claim.tileFree (s : State) (top : TileRef) : Prop :=
  s.core.awake 1 = true ∧ (s.core.tiles.t[s.core.tileTo top]).canWrite .m = true

/-- What MDRAIN gives for an entry's VAL, with its flags (08 R247): a saturated integer, or the A56 value encoded in the
format, saturating but for f32, f16 and bf16. -/
def Sys2Proof.Claim.drainElem (fmt : Ty) (mode : Mode1) (v : Nat) : Nat × Flags :=
  match fmt with
  | .i32 | .i16 | .i8 =>
    let top : Int := 2 ^ (fmt.width - 1)
    ((BitVec.ofInt fmt.width (max (-top) (min (top - 1) (BitVec.ofNat 32 v).toInt))).toNat, 0)
  | .f32 | .f16 | .bf16 => roundFp fmt mode (a56Unpack v)
  | _ => convertFp fmt mode true (a56Unpack v)

/-- The elements of the rows of a drain and its flags OF, UF and NX (08 R247): element e is that of row FROW + e / 32
and column e mod 32; with SR each run of 128 elements has its own step of the drain converter's generator (04 R139). -/
def Sys2Proof.Claim.drainedAs (s : State) (tile frow lrow : Fin 32) (fmt : Ty) (rm : Rm) (xs : List Nat) (fl : Flags) : Prop :=
  let n := 32 * (lrow.val - frow.val + 1)
  let bits := if 16 ≤ fmt.width then 16 else 12
  let runs := genRuns s.core.csr.genM ((n + 127) / 128)
  let one := fun e : Nat => Claim.drainElem fmt
    (if rm = .sr then .sr (srBits (runs.getD (e / 128) 0) (e % 128) bits) bits else Claim.mode s rm)
    ((spGet s.core.mem.acc (1024 * tile.val + 32 * (frow.val + e / 32) + e % 32)).toNat % 2 ^ 56)
  xs = (List.range n).map (fun e => (one e).1) ∧
    ∀ b : Nat, fl.getLsbD b = true ↔ 2 ≤ b ∧ b ≤ 4 ∧ ∃ e, e < n ∧ (one e).2.getLsbD b = true

/-- The state of the drain converter's generator after a drain. -/
def Sys2Proof.Claim.genAfter (s : State) (frow lrow : Fin 32) (rm : Rm) : Word32 :=
  if rm = .sr then (genRuns s.core.csr.genM ((32 * (lrow.val - frow.val + 1) + 127) / 128)).getLastD s.core.csr.genM
  else s.core.csr.genM

/-- The words that drain. MDRAIN reads its rows at issue, 32 elements each converted in row order, for the scratchpad as
one access and for a tile as bytes from byte 0 on; MFLAGS and MFLAGS.C give the husk bits of a tile, the latter clearing
them; MCHK gives RERUNS and the tile of the last rerun and clears RERUNS. Each write is outstanding until its data land.
-/
def Sys2Proof.Claim.drainWordsComplete : Prop :=
  (∀ (tile frow lrow : Fin 32) (fmt : Ty) (rm : Rm) (s : State), Claim.drainable s tile →
    (∀ k : Fin 16, (s.core.mx.claims[k]).valid = true → (s.core.mx.claims[k]).claim.tile = tile →
      (s.core.mx.claims[k]).claim.lrow < frow ∨ lrow < (s.core.mx.claims[k]).claim.frow) →
    (∀ a : BitVec 21, s.precheck .m (.mdrain tile frow lrow (.spad a) fmt rm) = none →
      (∀ d, 7 + a.toNat / 2 ^ 17 ≤ d → d ≤ 7 + (a.toNat + 32 * fmt.size * (lrow.val - frow.val + 1) - 1) / 2 ^ 17 → s.core.awake d = true) →
      ∃ t xs fl, exec (.mdrain tile frow lrow (.spad a) fmt rm) s = .next t ∧ GoesOn .m s t ∧ Lands .m s t [] ∧
        Claim.drainedAs s tile frow lrow fmt rm xs fl ∧ t.core.csr = { s.core.csr with genM := Claim.genAfter s frow lrow rm } ∧
        t.core.accesses = s.core.accesses ++ [⟨s.dev.fresh, .m, 0, 0, .drain, (List.range xs.length).map fun e =>
          ⟨.spad s.core.id (a.toNat + e * fmt.size), a.toNat + e * fmt.size, fmt.size, 0, xs.getD e 0, 0, none, none, false⟩, 0, false, []⟩] ∧
        t.core.mx = { s.core.mx with writes := s.core.mx.writes ++ [⟨.spad s.dev.fresh, fl⟩] } ∧
        t.core.mem = s.core.mem ∧ t.core.regs = s.core.regs ∧ t.core.tiles = s.core.tiles) ∧
    (∀ (top : TileRef) (st : Stall), s.precheck .m (.mdrain tile frow lrow (.tile top st) fmt rm) = none → Claim.tileFree s top →
      ∃ t xs fl, exec (.mdrain tile frow lrow (.tile top st) fmt rm) s = .next t ∧ GoesOn .m s t ∧ Lands .m s t [] ∧
        Claim.drainedAs s tile frow lrow fmt rm xs fl ∧ t.core.csr = { s.core.csr with genM := Claim.genAfter s frow lrow rm } ∧
        (t.core.tiles.t[s.core.tileTo top]).flag = .filling .m ∧
        t.core.mx = { s.core.mx with writes := s.core.mx.writes ++
          [⟨.tile (s.core.tileTo top) ((xs.map fun x => bytesOf fmt.size x).flatten), fl⟩] } ∧
        t.core.mem = s.core.mem ∧ t.core.regs = s.core.regs)) ∧
  (∀ (tile : Fin 32) (top : TileRef) (st : Stall) (s : State), Claim.drainable s tile → Claim.tileFree s top →
    (s.precheck .m (.mflags tile top st) = none →
      ∃ t bytes, exec (.mflags tile top st) s = .next t ∧ GoesOn .m s t ∧ Lands .m s t [] ∧
        (t.core.tiles.t[s.core.tileTo top]).flag = .filling .m ∧
        t.core.mx = { s.core.mx with writes := s.core.mx.writes ++ [⟨.tile (s.core.tileTo top) bytes, 0⟩] } ∧
        bytes.length = 4096 ∧ (∀ k, k < 1024 →
          (bytes.getD (k / 8) 0).getLsbD (k % 8) = (spGet s.core.mem.acc (1024 * tile.val + k)).getLsbD 56) ∧
        t.core.mem = s.core.mem ∧ t.core.regs = s.core.regs) ∧
    (s.precheck .m (.mflagsC tile top st) = none →
      (∀ k : Fin 16, (s.core.mx.claims[k]).valid = true → (s.core.mx.claims[k]).claim.tile ≠ tile) → spWf s.core.mem.acc = true →
      ∃ t bytes, exec (.mflagsC tile top st) s = .next t ∧ GoesOn .m s t ∧ Lands .m s t [] ∧
        (t.core.tiles.t[s.core.tileTo top]).flag = .filling .m ∧
        t.core.mx = { s.core.mx with writes := s.core.mx.writes ++ [⟨.tile (s.core.tileTo top) bytes, 0⟩] } ∧
        bytes.length = 4096 ∧ (∀ k, k < 1024 →
          (bytes.getD (k / 8) 0).getLsbD (k % 8) = (spGet s.core.mem.acc (1024 * tile.val + k)).getLsbD 56) ∧
        (∀ k, (spGet t.core.mem.acc k).toNat % 2 ^ 56 = (spGet s.core.mem.acc k).toNat % 2 ^ 56 ∧
          (spGet t.core.mem.acc k).getLsbD 56 = (if k / 1024 = tile.val then false else (spGet s.core.mem.acc k).getLsbD 56)) ∧
        t.core.mem.spad = s.core.mem.spad ∧ t.core.regs = s.core.regs)) ∧
  (∀ (w : WNo) (st : Stall) (s : State), s.precheck .m (.mchk w st) = none → s.core.awake 4 = true → s.core.mx.nest = none →
    s.core.mx.writes.length < 15 → (s.core.regs.w[w]).canWrite .m = true →
      ∃ t, exec (.mchk w st) s = .next t ∧ GoesOn .m s t ∧ Lands .m s t [] ∧ (t.core.regs.w[w]).flag = .filling .m ∧
        (t.core.regs.w[w]).data = (s.core.regs.w[w]).data ∧
        t.core.mx = { s.core.mx with
          reruns := 0
          writes := s.core.mx.writes ++
            [⟨.word w (BitVec.ofNat 64 (s.core.mx.reruns + s.core.mx.rtile.val * 2 ^ 16)), 0⟩] } ∧
        t.core.mem = s.core.mem)

/-- M_WRITE_COMPLETE: the data of an outstanding write land: its word register or tile is full with them, its flags are
set, and it is no longer outstanding; a write to the scratchpad waits until its access has performed. -/
def Sys2Proof.Claim.matrixWritesLand : Prop :=
  ∀ (k : Nat) (w : MWrite) (s : State), s.core.mx.writes[k]? = some w → s.core.flt.stop = .run →
    (∀ id, w.dest = .spad id → ∀ a ∈ s.core.accesses, a.id ≠ id) →
      ∃ t, exec (.mWriteComplete k) s = .next t ∧ t.core.mx = { s.core.mx with writes := s.core.mx.writes.eraseIdx k } ∧
        t.core.csr = { s.core.csr with
          fpstatus := s.core.csr.fpstatus ||| w.flags.zeroExtend 7, landed := s.core.csr.landed ||| w.flags } ∧
        t.core.mem = s.core.mem ∧ t.dev = s.dev ∧
        (∀ id, w.dest = .spad id → t.core.regs = s.core.regs ∧ t.core.tiles = s.core.tiles) ∧
        (∀ n v, w.dest = .word n v → (t.core.regs.w[n]).data = v ∧ (t.core.regs.w[n]).flag = .full ∧
          (t.core.regs.w[n]).outstanding = false ∧ t.core.tiles = s.core.tiles) ∧
        (∀ n bytes, w.dest = .tile n bytes → Memory.wf (s.core.tiles.t[n]).data = true →
          (t.core.tiles.t[n]).flag = .full ∧ (t.core.tiles.t[n]).outstanding = false ∧ t.core.regs = s.core.regs ∧
          (∀ m : Fin 32, m ≠ n → t.core.tiles.t[m] = s.core.tiles.t[m]) ∧
          ∀ j, readByte (t.core.tiles.t[n]).data j =
            if j < bytes.length then bytes.getD j 0 else readByte (s.core.tiles.t[n]).data j)

/-- MDRAIN, MFLAGS and MCHK complete, and their writes land. -/
def Obligations.DrainsLand : Prop := Claim.drainWordsComplete ∧ Claim.matrixWritesLand

/-! ## Words of X, copies and casks (09 R253–R285) -/

/-- The copy words: opcode, fields; XCHAIN apart. -/
def Sys2Proof.Claim.copyWord : Instr → Option (Nat × XD)
  | .xcopy x => some (1, x)
  | .xconv x => some (2, x)
  | .xmcast x => some (3, x)
  | .xcsr x => some (4, x)
  | .xgather x => some (5, x)
  | .xscatter x => some (6, x)
  | .xsmd x => some (7, x)
  | .xred x => some (8, x)
  | .xamo x => some (9, x)
  | .xmig x => some (10, x)
  | .xlink x => some (11, x)
  | _ => none

/-- The 64 bytes of the descriptor that a copy word names (09 R260). -/
def Sys2Proof.Claim.descriptor (s : State) (x : XD) : List Byte :=
  (List.range 64).map fun k => readByte s.core.mem.spad (64 * x.desc.val + k)

/-- Every copy word whose descriptor passes the checks of 09 R285 issues with fewer than 1,024 copies in flight: its
copy is in flight, with the descriptor it read, at its first place, and enters the queue logic 4 cycles of X later; an
XMCAST to no core issues without one, and the walk of an XCHAIN enters the queue logic in the same way. No byte of
memory and no register changes before the copy makes its accesses. `s'` is the state behind the translations of the
checks. -/
def Obligations.CopyWordsComplete : Prop :=
  (∀ (i : Instr) (op : Nat) (x : XD) (s s' : State) (hops : List Hop),
    Claim.copyWord i = some (op, x) → s.precheck .x i = none → Claim.engineUp s .x → s.core.xc.copies.length < 1024 →
    s.core.awake (7 + 64 * x.desc.val / 2 ^ 17 % 16) = true →
    s.checkCopy (x.req op (Claim.descriptor s x)) = (.ok hops, s') → (op = 3 → fld (Claim.descriptor s x) 24 8 ≠ 0) →
      ∃ t k, exec i s = .next t ∧ GoesOn .x s' t ∧ Lands .x s' t [] ∧
        t.core.xc.copies = s'.core.xc.copies ++ [k] ∧ k.id = s'.dev.fresh ∧ k.op = op ∧ k.desc = Claim.descriptor s x ∧
        k.queue = x.queue.val ∧ k.cls = x.cls ∧ k.cask = x.cask ∧ k.fill = x.fill ∧ k.pos = 0 ∧ k.actual = 0 ∧
        k.entered = false ∧ k.stop = none ∧ k.sent = decide (op = 11) ∧
        t.core.xc.entries = s'.core.xc.entries ++ [⟨.copy s'.dev.fresh, 4⟩] ∧
        t.core.regs = s'.core.regs ∧ t.core.mem = s'.core.mem ∧ t.core.tiles = s'.core.tiles ∧ t.dev.hbm = s'.dev.hbm ∧
        t.dev.sbm = s'.dev.sbm ∧ t.dev.host = s'.dev.host ∧ t.left = s'.left ∧ t.right = s'.right) ∧
  (∀ (x : XD) (s s' : State) (hops : List Hop),
    s.precheck .x (.xmcast x) = none → Claim.engineUp s .x → s.core.xc.copies.length < 1024 →
    s.core.awake (7 + 64 * x.desc.val / 2 ^ 17 % 16) = true →
    s.checkCopy (x.req 3 (Claim.descriptor s x)) = (.ok hops, s') → fld (Claim.descriptor s x) 24 8 = 0 →
      exec (.xmcast x) s = .next (s'.behind .x .seq)) ∧
  (∀ (x : XD) (s s' : State) (hops : List Hop),
    s.precheck .x (.xchain x) = none → Claim.engineUp s .x → s.core.xc.copies.length < 1024 →
    s.core.xc.walkBusy = false → s.core.awake (7 + 64 * x.desc.val / 2 ^ 17 % 16) = true →
    s.checkCopy (x.req 12 (Claim.descriptor s x)) = (.ok hops, s') →
      ∃ t, exec (.xchain x) s = .next t ∧ GoesOn .x s' t ∧ Lands .x s' t [] ∧
        t.core.xc = { s'.core.xc with
          entries := s'.core.xc.entries ++ [⟨.walk (fld (Claim.descriptor s x) 0 8) x.queue.val x.cls, 4⟩] } ∧
        t.core.mem = s'.core.mem ∧ t.core.regs = s'.core.regs)

/-- XCASK, XSIG and XJOIN. XCASK defines its cask with empty slots, unless a slot has a count or a credit is held, which
faults; XSIG puts a credit behind the copies in flight; XJOIN enters the queue logic. -/
def Obligations.CaskAndJoinWordsComplete : Prop :=
  (∀ (ck : CkNo) (slots : Fin 64) (bytes : BitVec 32) (s : State),
    s.precheck .x (.xcask ck slots bytes) = none → Claim.engineUp s .x →
      (s.core.xc.busy ck.val = true → exec (.xcask ck slots bytes) s = .next (s.raise .x ⟨0x14, ck.val, 1, 0, 0⟩)) ∧
      (s.core.xc.busy ck.val = false →
        ∃ t, exec (.xcask ck slots bytes) s = .next t ∧ GoesOn .x s t ∧ Lands .x s t [] ∧
          t.core.xc.cask ck.val = ⟨true, slots.val + 1, 0, 0, bytes.toNat⟩ ∧
          (∀ k, k < 64 → t.core.xc.slot ck.val k = ⟨false, false, 0, 0⟩) ∧
          (∀ n : Nat, n < 64 → n ≠ ck.val → t.core.xc.cask n = s.core.xc.cask n) ∧
          OnlyStream .x s { t with core := { t.core with xc := s.core.xc } })) ∧
  (∀ (ck : CkNo) (bytes : BitVec 32) (s : State), s.precheck .x (.xsig ck bytes) = none → Claim.engineUp s .x →
    ((s.core.xc.cask ck.val).valid = false → exec (.xsig ck bytes) s = .next (s.raise .x ⟨0x14, ck.val, 0, 0, 0⟩)) ∧
    ((s.core.xc.cask ck.val).valid = true →
      ∃ t, exec (.xsig ck bytes) s = .next t ∧ GoesOn .x s t ∧ Lands .x s t [] ∧
        t.core.xc = { s.core.xc with
          sigs := s.core.xc.sigs ++ [⟨s.dev.fresh, ck, bytes.toNat, s.core.xc.copies.map Copy.id, false, false⟩]
          entries := s.core.xc.entries ++ [⟨.sig s.dev.fresh, 4⟩] } ∧
        t.dev = { s.dev with fresh := s.dev.fresh + 1 } ∧
        OnlyStream .x s { t with core := { t.core with xc := s.core.xc }, dev := s.dev })) ∧
  (∀ (qs : BitVec 8) (s : State), s.precheck .x (.xjoin qs) = none → Claim.engineUp s .x →
    exec (.xjoin qs) s = .next ({ s with core := { s.core with xc := { s.core.xc with
      entries := s.core.xc.entries ++ [(⟨.join qs, 4⟩ : XEntry)] } } }.behind .x .seq))

/-- A credit that applies: the slot at the write pointer counts its nominal and actual bytes, and once the nominal bytes
reach those expected it is filled, with OVF where they pass them, and the write pointer goes on; every other slot and
cask stays (09 R279). -/
def Sys2Proof.Claim.creditsCount : Prop :=
  ∀ (x : CopyEng) (n nom act : Nat), n < 64 → spWf x.slots = true → (x.cask n).wp < 64 →
    let k := x.cask n
    let a := x.slot n k.wp
    let y := x.apply n nom act
    (a.nom + nom < 2 ^ 32 → k.exp < 2 ^ 32 → a.act < 2 ^ 32 →
      (a.nom + nom < k.exp → y.slot n k.wp = ⟨a.filled, a.ovf, min (a.act + act) (2 ^ 32 - 1), a.nom + nom⟩ ∧ y.cask n = k) ∧
      (k.exp ≤ a.nom + nom →
        y.slot n k.wp = ⟨true, a.ovf || decide (k.exp < a.nom + nom), min (a.act + act) (2 ^ 32 - 1), k.exp⟩ ∧
        y.cask n = { k with wp := (k.wp + 1) % k.slots })) ∧
    (∀ m i, m < 64 → i < 64 → (m, i) ≠ (n, k.wp) → y.slot m i = x.slot m i) ∧
    (∀ m, m < 64 → m ≠ n → y.cask m = x.cask m) ∧ y.copies = x.copies

/-- The steps of the queue logic. What issued 4 X cycles ago enters: a copy waits for the copies of its queue that have
entered, and the walk of an XCHAIN starts at its record. A credit on its way reaches its core. The credit of an XSIG
goes to its cask once the copies before it have completed. A copy whose accesses have performed and whose credits have
applied is no longer in flight; one that has not stays. -/
def Sys2Proof.Claim.queueLogicSteps : Prop :=
  (∀ (s : State) (id : Nat), s.core.xc.entries = [⟨.copy id, 0⟩] →
    ∃ t, exec .xQueueEntry s = .next t ∧ t.core.xc.entries = [] ∧
      t.core.xc.copies = s.core.xc.copies.map (fun k => if k.id = id then { k with
        entered := true
        after := ((s.core.xc.copies.filter fun o => o.entered && decide (o.queue = k.queue)).map Copy.id)
          ++ ((s.core.xc.joins.filter fun j => j.queues.getLsbD k.queue).map XJoin.before).flatten } else k) ∧
      t.dev = s.dev ∧ t.core.mem = s.core.mem ∧ t.core.regs = s.core.regs) ∧
  (∀ (s : State) (head queue : Nat) (cls : Cls), s.core.xc.entries = [⟨.walk head queue cls, 0⟩] →
    ∃ t, exec .xQueueEntry s = .next t ∧ t.core.xc = { s.core.xc with
        entries := []
        walk := ⟨decide (head ≠ 0), false, 0, head, queue, cls, s.core.xc.walk.open_, none⟩ } ∧
      t.dev = s.dev ∧ t.core.mem = s.core.mem ∧ t.core.regs = s.core.regs) ∧
  (∀ (s : State) (k : Nat) (x : Credit), s.dev.credits[k]? = some x → x.core = s.core.id →
    exec (.caskCreditArrive k) s = .next { s with
      core := { s.core with xc := { s.core.xc with arrived := s.core.xc.arrived ++ [x] } }
      dev := { s.dev with credits := s.dev.credits.eraseIdx k } }) ∧
  (∀ (s : State) (k : Nat) (g : XSig), s.core.xc.sigs[k]? = some g → g.sent = false →
    (g.entered = true → (∀ o ∈ s.core.xc.copies, o.id ∉ g.after) →
      ∃ t, exec (.xsigCreditApply k) s = .next t ∧
        t.core.xc.arrived = s.core.xc.arrived ++ [⟨s.core.id, g.ck.val, g.bytes, g.bytes, s.core.id, g.id⟩] ∧
        t.core.xc.slots = s.core.xc.slots ∧ t.dev = s.dev ∧ t.core.mem = s.core.mem ∧ t.core.regs = s.core.regs) ∧
    (g.entered = false → exec (.xsigCreditApply k) s = .next s)) ∧
  (∀ (s : State) (id : Nat) (k : Copy), s.core.copy? id = some k →
    (k.sent = true → k.left = 0 → k.entered = true → s.core.xc.walk.open_ = [] →
      exec (.copyComplete id) s = .next { s with core := { s.core with xc := { s.core.xc with
        copies := s.core.xc.copies.filter fun o => decide (o.id ≠ id) } } }) ∧
    ((k.sent = false ∨ k.left ≠ 0 ∨ k.entered = false) → exec (.copyComplete id) s = .next s))

/-- Credits count into casks, and the queue logic moves copies, signals and joins. -/
def Obligations.CreditsMoveThroughQueues : Prop := Claim.creditsCount ∧ Claim.queueLogicSteps

/-- A copy that stops takes the next fault sequence number of its context and its report waits to be written; a halt of
A does the same. CHAIN_RECORD_READ of a record without OWN ends its walk; with one that passes its checks, its copy is
in flight and the walk goes on at the record's NEXT. -/
def Obligations.StopsAreReported : Prop :=
  (∀ (s : State) (id : Nat) (k : Copy) (x : Stop) (c : Ctx), s.core.copy? id = some k → k.stop = some x → x.fseq = none →
    x.parked = false → s.dev.ctx s.core.ctxId = some c →
      ∃ t, exec (.copyStop id) s = .next t ∧
        t.dev.reports = s.dev.reports ++
          [⟨s.core.ctxId, 1, 4, x.code, c.nextFseq, s.core.id.code, x.acc, x.va, k.whence⟩] ∧
        (t.core.copy? id).map Copy.stop = some (some { x with fseq := some c.nextFseq }) ∧
        t.core.regs = s.core.regs ∧ t.core.mem = s.core.mem ∧ t.dev.hbm = s.dev.hbm) ∧
  (∀ (s : State) (x : Stop) (c : Ctx), s.core.aHalt = some x → x.fseq = none → x.parked = false →
    s.dev.ctx s.core.ctxId = some c →
      ∃ t, exec .aTranslationHalt s = .next t ∧ t.core.aHalt = some { x with fseq := some c.nextFseq } ∧
        t.dev.reports = s.dev.reports ++
          [⟨s.core.ctxId, 0, 1, x.code, c.nextFseq, s.core.id.code, x.acc, x.va, s.core.ea.pc.toNat⟩] ∧
        t.core.regs = s.core.regs ∧ t.core.mem = s.core.mem ∧ t.dev.hbm = s.dev.hbm) ∧
  (∀ (s s' : State) (h : Home) (e : Dword), s.core.xc.walk.active = true → s.core.xc.walk.stop = none →
    s.core.xc.copies.length < 1024 → s.translate .x s.core.xc.walk.addr .read = (.ok h e, s') → s'.dev.homeReady h = true →
    let p := bytesOf 128 (s'.readHome s'.core.ctxId h 128)
    (fld p 8 1 % 2 = 0 → exec .chainRecordRead s = .next
      { s' with core := { s'.core with xc := { s'.core.xc with walk := { s'.core.xc.walk with active := false } } } }) ∧
    (∀ r s'' hops, fld p 8 1 % 2 = 1 → recordReq p s.core.xc.walk.addr s.core.xc.walk.queue s'.sysAccess = .ok r →
      s'.checkCopy r = (.ok hops, s'') →
        ∃ t k, exec .chainRecordRead s = .next t ∧ t.core.xc.copies = s''.core.xc.copies ++ [k] ∧ k.op = r.op ∧
          k.desc = (p.drop 64).take 64 ∧ k.entered = true ∧ t.core.xc.walk.addr = fld p 0 8 ∧
          t.core.xc.walk.active = decide (fld p 0 8 ≠ 0) ∧ t.core.regs = s''.core.regs ∧ t.core.mem = s''.core.mem))

/-- The core of `s` has retired in `t`: its domains are Off, the fetch unit of a row's column 0 once the HALT of the row
has retired in every column (01 R45). -/
def Sys2Proof.Claim.retires (s t : State) (r : Resident) : Prop :=
  let fetches := ∃ w, s.rowOf s.core = some w ∧ w.members.head? = some s.core.id ∧
    ∃ l, t.dev.launch w.launch = some l ∧ ∃ id ∈ w.members, id ∉ l.halted
  (∀ d, d < 31 → (d = 0 ∧ fetches → t.core.dom 0 = s.core.dom 0) ∧ (¬(d = 0 ∧ fetches) → t.core.dom d = .off)) ∧
    (∀ e : Engine, (t.core.eng e).state = .idle ∧ (t.core.eng e).divisor = 3 ∧ (t.core.eng e).landing = [] ∧
      (t.core.eng e).loops = Vector.replicate 4 ⟨0, 0, 0⟩) ∧
    t.core.ec.index = (if r.mode = .task then s.core.ec.index else s.core.ec.index + 1) ∧
    t.core.ctl.wait = .none ∧ t.core.regs = s.core.regs ∧ t.core.mem = s.core.mem ∧ t.core.csr = s.core.csr ∧
    t.core.resident = (if r.mode = .task then none else some r) ∧
    (∀ x, t.dev.ctx r.ctx = some x → ∀ k : Fin 64, 1 ≤ k.val → k.val ≤ 15 →
      spGet x.breg (16 * (16 * r.row + r.col) + k.val) = s.core.regs.s[k]) ∧
    (t.dev.launch r.launch).map Launch.halted = (s.dev.launch r.launch).map (fun l => l.halted ++ [s.core.id]) ∧
    (s.rowOf s.core = none → t.left = s.left ∧ t.right = s.right) ∧
    (∀ c ∈ s.left ++ s.right, c.id ≠ s.core.id → t.coreAt c.id = s.coreAt c.id ∨
      ∃ w, s.rowOf s.core = some w ∧ w.members.head? = some c.id ∧ t.coreAt c.id = (s.coreAt c.id).setDom 0 .off) ∧
    t.dev.hbm = s.dev.hbm ∧ t.dev.sbm = s.dev.sbm ∧ t.dev.host = s.dev.host

/-- The barrier word of the core issues and its wait is over. -/
def Sys2Proof.Claim.departs (s t : State) : Prop :=
  GoesOn .c s t ∧ Lands .c s t [] ∧ t.core.ctl.wait = .none ∧ t.core.regs = s.core.regs ∧ t.core.mem = s.core.mem ∧
    t.left = s.left ∧ t.right = s.right ∧ t.dev.hbm = s.dev.hbm

/-- The core holds at its barrier word and counts among those that have reached it. -/
def Sys2Proof.Claim.arrives (s t : State) (r : Resident) (w : CWait) : Prop :=
  t.core.ctl.wait = w ∧ t.core.ec.pc = s.core.ec.pc ∧ t.core.ec.index = s.core.ec.index ∧ t.core.ec.hold.isSome = true ∧
    (∀ l, t.dev.launch r.launch = some l → s.core.id ∈ l.arrived) ∧
    t.core.regs = s.core.regs ∧ t.core.mem = s.core.mem ∧ t.left = s.left ∧ t.right = s.right ∧ t.dev.hbm = s.dev.hbm

/-- The core holds at a barrier word that the others have reached too, until what the word waits for is over. -/
def Sys2Proof.Claim.staysAt (s t : State) (w : CWait) : Prop :=
  t.core.ctl.wait = w ∧ t.core.ec.pc = s.core.ec.pc ∧ t.core.ec.index = s.core.ec.index ∧ t.core.ec.hold.isSome = true ∧
    t.core.regs = s.core.regs ∧ t.core.mem = s.core.mem ∧ t.left = s.left ∧ t.right = s.right ∧ t.dev = s.dev

/-- The launches that a cancel of the core's own job names (14 R357). -/
def Sys2Proof.Claim.cancel (i : Instr) (s : State) : Option (Launch → Bool) :=
  let job := s.dev.ctxJob s.core.ctxId
  let v := fun a : SReg => (s.core.readS a).toNat
  match i with
  | .cancelL a =>
    if (s.dev.queue (v a / 2 ^ 32 % 16)).job = job then
      some fun l => decide (l.queue = v a / 2 ^ 32 % 16 ∧ l.seq = v a % 2 ^ 32)
    else none
  | .cancelG a => some fun l => decide ((s.dev.queue l.queue).job = job ∧ l.record.graph = v a % 2 ^ 16)
  | .cancelP a => some fun l => decide ((s.dev.queue l.queue).job = job ∧ l.record.phase = v a % 2 ^ 16)
  | .cancelJ a =>
    if v a % 2 ^ 16 = job then some fun l => decide ((s.dev.queue l.queue).job = job) else none
  | _ => none

/-! ## Ends, barriers and launches of words (05 R177; 01 R36, R487; 14 R351–R357) -/

/-- HALT and TEND wait to retire at their word; HALT in a task unit does as TEND does. A core whose HALT or TEND can
retire retires (it waits for the accesses of other cores in its scratchpad: DEDUCED, log entry 43): s1–s15 go to the
table of its context, every domain is Off, every engine is Idle at divisor 3 with nothing in flight, and it counts among
the halted; a task's core is free at once. -/
def Sys2Proof.Claim.endWordsComplete : Prop :=
  (∀ (i : Instr) (s : State), i = .halt ∨ i = .tend → s.precheck .c i = none →
    ∃ t, exec i s = .next t ∧ t.core.ctl.wait = (if i = .halt ∧ s.core.mode ≠ .task then .halt else .tend) ∧
      t.core.ec.pc = s.core.ec.pc ∧ t.core.ec.index = s.core.ec.index ∧ Lands .c s t [] ∧
      OnlyStream .c s { t with core := { t.core with ctl := { t.core.ctl with wait := s.core.ctl.wait } } }) ∧
  (∀ (s : State) (r : Resident) (x : Ctx), s.core.flt.stop = .run → s.canRetire = true →
    s.core.resident = some r → s.dev.ctx r.ctx = some x → spWf x.breg = true →
      (s.core.ctl.wait = .halt → ∃ t, exec .haltRetire s = .next t ∧ Claim.retires s t r) ∧
      (s.core.ctl.wait = .tend → ∃ t, exec .tendRetire s = .next t ∧ Claim.retires s t r)) ∧
  (∀ s : State, (s.core.ctl.wait ≠ .halt ∨ s.canRetire = false → exec .haltRetire s = .next s) ∧
    (s.core.ctl.wait ≠ .tend ∨ s.canRetire = false → exec .tendRetire s = .next s))

/-- GYLE and BSYNC. In a column east of column 0 they issue behind it; in column 0, or outside a gang row, they hold at
their word until the completion of the barrier (a BSYNC also until the end of its communication step), and then issue; a
BSYNC whose communication step overran raises *superstep overrun*. -/
def Sys2Proof.Claim.barrierWordsComplete : Prop :=
  (∀ (s : State) (l : Launch) (r : Resident), s.precheck .c .gyle = none → s.launchOf s.core = some l →
    s.core.resident = some r →
      (r.mode = .wave ∧ r.col ≠ 0 → exec .gyle s = .next (s.behind .c .seq)) ∧
      (r.mode ≠ .wave ∨ r.col = 0 →
        (l.passing.contains s.core.id = true → ∃ t, exec .gyle s = .next t ∧ Claim.departs s t) ∧
        (l.passing.contains s.core.id = false → ∃ t, exec .gyle s = .next t ∧ Claim.arrives s t r .gyle))) ∧
  (∀ (s : State) (l : Launch) (r : Resident), s.precheck .c .bsync = none → s.launchOf s.core = some l →
    s.core.resident = some r →
      let waiting := match (s.dev.rows.find? fun w => decide (w.id = r.rowId)).bind fun w => w.members.head? with
        | some id => l.passing.contains id
        | none => false
      let ended := l.commEnd.isSome && l.commStart.isNone
      (waiting = true → ended = true → l.overrun = true →
        exec .bsync s = .next (s.raise .c ⟨0x12, 0, l.record.step, 0, 0⟩)) ∧
      (waiting = false ∨ ended = false ∨ l.overrun = false →
        (r.col ≠ 0 → exec .bsync s = .next (s.behind .c .seq)) ∧
        (r.col = 0 →
          (waiting = true → l.barrierAt.isSome = true → (l.record.step = 0 ∨ ended = true) →
            ∃ t, exec .bsync s = .next t ∧ Claim.departs s t) ∧
          (waiting = false → ∃ t, exec .bsync s = .next t ∧ Claim.arrives s t r .bsync) ∧
          (waiting = true → (l.barrierAt = none ∨ (l.record.step ≠ 0 ∧ ended = false)) →
            ∃ t, exec .bsync s = .next t ∧ Claim.staysAt s t .bsync))))

/-- HALT, TEND, GYLE and BSYNC complete, and a core retires. -/
def Obligations.EndAndBarrierWordsComplete : Prop := Claim.endWordsComplete ∧ Claim.barrierWordsComplete

/-- A row has reached its barrier once every column has stopped at the index of its barrier word (each from the end of
the cycle of the word before it: the model's choice, log entry 23); a communication step of STEP × 64 ns starts at the
first multiple of 1,024 ns of GLOBAL_TIME that is at least 512 ns after the barrier time, and ends with its fixed
duration, an overrun if a transfer that it carried has not finished or a packet of one has not been delivered; a drained
row has one point for each stream, and each column the count of the words it skips from there. -/
def Obligations.RowsGoInStep : Prop :=
  (∀ (s : State) (w : Row) (m : CoreId) (rest : List CoreId) (id : Nat),
    s.dev.rows.find? (fun w => decide (w.id = id)) = some w → w.members = m :: rest →
    ((s.coreAt m).ctl.wait = .gyle ∨ (s.coreAt m).ctl.wait = .bsync) → (s.coreAt m).flt.stop = .run →
      let there := ∀ o ∈ rest, (s.coreAt o).ec.index = (s.coreAt m).ec.index ∧ (s.coreAt o).ec.state = .running ∧
        (s.coreAt o).flt.stop = .run
      (there → exec (.rowBarrierReached id) s = .next { s with dev := { s.dev with
        rows := s.dev.rows.map fun w => if w.id = id then { w with barrier := true } else w } }) ∧
      (¬there → exec (.rowBarrierReached id) s = .next s)) ∧
  (∀ (s : State) (key b start : Nat) (l : Launch), s.dev.launch key = some l → l.barrierAt = some b → l.record.step ≠ 0 →
    l.commEnd = none → start % 1024 = 0 → b + 512 ≤ start → start < b + 512 + 1024 →
      (start ≤ s.dev.nextTime → ∃ t, exec (.commStepStart key) s = .next t ∧
        t.dev.launch key = some { l with commStart := some start, commEnd := some (start + 64 * l.record.step) } ∧
        (∀ k, k ≠ key → t.dev.launch k = s.dev.launch k) ∧
        t.dev.transfers = s.dev.transfers.map (fun x => if x.launch = key then { x with carried := true } else x) ∧
        t.cores = s.cores) ∧
      (s.dev.nextTime < start → exec (.commStepStart key) s = .next s)) ∧
  (∀ (s : State) (key b e : Nat) (l : Launch), s.dev.launch key = some l → l.commStart = some b → l.commEnd = some e →
      (e ≤ s.dev.nextTime → ∃ t, exec (.commStepEnd key) s = .next t ∧
        t.dev.launch key = some { l with
          commStart := none
          overrun := decide ((∃ x ∈ s.dev.transfers, x.launch = key ∧ x.carried = true ∧ (x.failed = true ∨ x.hops ≠ [])) ∨
            ∃ p ∈ s.dev.packets, p.launch = key) } ∧
        t.dev.transfers = s.dev.transfers.filter (fun x => decide (x.launch ≠ key) || !x.carried) ∧ t.cores = s.cores) ∧
      (s.dev.nextTime < e → exec (.commStepEnd key) s = .next s)) ∧
  (∀ (s : State) (r : Row) (row : Nat), s.dev.rows.find? (fun r => decide (r.id = row)) = some r → r.draining = true →
    (∀ id ∈ r.members, (s.coreAt id).flt.stop = .stopped ∧ ∃ c ∈ s.cores, c.id = id) →
      ∃ t, exec (.rowDrainComplete row) s = .next t ∧
        (∀ x, t.dev.rows.find? (fun r => decide (r.id = row)) = some x → x.draining = false ∧ x.barrier = false) ∧
        (∀ id ∈ r.members, ∀ e : Engine,
          ((t.coreAt id).eng e).point = ((s.coreAt id).eng e).point ∧ ((t.coreAt id).eng e).index ≤ ((s.coreAt id).eng e).point ∧
          ∃ o ∈ r.members, ((t.coreAt id).eng e).index = ((s.coreAt o).eng e).point))

/-- LAUNCH and TSPAWN put the address of their record into the device-side queue of their job, unless it holds 64
records, when they hold, whatever their address (that those not yet accepted count as well is the model's choice, log
entry 16; that the hold comes before the faults of the address is DEDUCED, log entry 13); a LAUNCH and a TSPAWN of a
record without input casks then go on, and a TSPAWN with input casks holds until its binding is over. CANCEL.L,
CANCEL.G, CANCEL.P and CANCEL.J end exactly the launches of their own job that have not started and that they name.
SEIZE sends its command with bits 15:0 of its register (the model's choice, log entry 42: 05 R177 names no bits). -/
def Obligations.LaunchWordsComplete : Prop :=
  (∀ (a : SReg) (tspawn : Bool) (s : State) (q : Nat),
    let i : Instr := if tspawn then .tspawn a else .launch a
    s.precheck .c i = none → s.core.ctl.binding = none → s.dev.deviceQueue (s.dev.ctxJob s.core.ctxId) = some q →
      (64 ≤ s.dev.heldLaunches q + (s.dev.queue q).device.length →
        ∃ t, exec i s = .next t ∧ t.core.ec.hold.isSome = true ∧ t.core.ec.pc = s.core.ec.pc ∧ t.dev = s.dev ∧
          OnlyStream .c s t) ∧
      (∀ (s' : State) (h : Home), s.dev.heldLaunches q + (s.dev.queue q).device.length < 64 →
        (s.core.readS a).toNat % 64 = 0 → (∀ p o, classify (s.core.readS a) ≠ .spad p o) →
        s.cPlace (s.core.readS a) 64 .read true = .at_ s' h →
          ∃ t, exec i s = .next t ∧
            (t.dev.queue q).device = (s.dev.queue q).device ++
              [⟨(s.core.readS a).toNat, s.core.ctxId, s.core.id, tspawn, s.dev.fresh, if tspawn then
                (s.launchOf s.core).bind fun l => if l.record.mode = 2 then some l.rootKey else none else none⟩] ∧
            (∀ k, k ≠ q → t.dev.queue k = s.dev.queue k) ∧ t.core.regs = s.core.regs ∧ t.core.mem = s.core.mem ∧
            t.left = s.left ∧ t.right = s.right ∧ Lands .c s t [] ∧
            (let ncask := s'.readHome s'.core.ctxId (h.shift 21) 1 % 8
             (tspawn = false ∨ ncask = 0 → GoesOn .c s t ∧ t.core.ctl.binding = none) ∧
             (tspawn = true ∧ ncask ≠ 0 → t.core.ctl.binding = some s.dev.fresh ∧ t.core.ec.pc = s.core.ec.pc ∧
              t.core.ec.hold.isSome = true)))) ∧
  (∀ (a : SReg) (key : Nat) (s : State), s.precheck .c (.tspawn a) = none → s.core.ctl.binding = some key →
    s.dev.bindPending key = false →
      ∃ t, exec (.tspawn a) s = .next t ∧ GoesOn .c s t ∧ Lands .c s t [] ∧ t.core.ctl.binding = none ∧ t.dev = s.dev) ∧
  (∀ (i : Instr) (p : Launch → Bool) (s : State), Claim.cancel i s = some p → s.precheck .c i = none →
    (∀ l ∈ s.dev.launches, l.unstarted = true → ∀ r, s.core.resident = some r → r.launch ≠ l.key) →
      ∃ t, exec i s = .next t ∧ GoesOn .c s t ∧ Lands .c s t [] ∧ t.core.regs = s.core.regs ∧ t.core.mem = s.core.mem ∧
        t.dev.hbm = s.dev.hbm ∧ t.dev.sbm = s.dev.sbm ∧ t.dev.host = s.dev.host ∧
        t.dev.launches = s.dev.launches.filter fun l =>
          !(s.dev.launches.any fun k => decide (k.key = l.key) && k.unstarted && p k)) ∧
  (∀ (a : SReg) (s : State),
    (s.precheck .c (.cancelL a) = none →
      (s.dev.queue ((s.core.readS a).toNat / 2 ^ 32 % 16)).job ≠ s.dev.ctxJob s.core.ctxId →
        exec (.cancelL a) s = .next (s.raise .c ⟨0x0A, 6, 0, 0, 0⟩)) ∧
    (s.precheck .c (.cancelJ a) = none → (s.core.readS a).toNat % 2 ^ 16 ≠ s.dev.ctxJob s.core.ctxId →
      exec (.cancelJ a) s = .next (s.raise .c ⟨0x0A, 6, 0, 0, 0⟩)) ∧
    (s.precheck .c (.seize a) = none →
      exec (.seize a) s = .next ({ s with dev := { s.dev with
        due := s.dev.due ++ [DueEvent.seize ((s.core.readS a).toNat % 2 ^ 16)] } }.behind .c .seq)))

/-! ## Submission, acceptance and completion (14 R333–R338; 21 R460–R462) -/

/-- Only one queue block changes: the queue is `x`, every other queue, every core and all else of the device but the
dispatcher's idle count stay. -/
def Sys2Proof.Claim.queueIs (s t : State) (q : Fin 16) (x : Queue) : Prop :=
  t.dev.queue q.val = x ∧ (∀ k, k ≠ q.val → t.dev.queue k = s.dev.queue k) ∧
    t = { s with dev := { s.dev with queues := t.dev.queues, idleVisits := t.dev.idleVisits } }

/-- The host's writes of a queue block. SQTAIL takes the tail, behind the host writes that wait; while ENABLE = 1 QCTL
takes only ENABLE, else all its fields, and enabling sets ACCEPTED_SEQ and COMPLETED_SEQ to NEXTSEQ − 1; CQHEAD and
ERRHEAD take their head. -/
def Sys2Proof.Claim.queueBlocksAreWritten : Prop :=
  (∀ (q : Fin 16) (v : BitVec 32) (s : State),
    let x := s.dev.queue q.val
    (s.dev.hostIf.parked = [] → ∃ t, exec (.sqtailWrite q v) s = .next t ∧
      Claim.queueIs s t q { x with sqtail := v.toNat % 2 ^ (4 + x.sqs) } ∧ t.dev.idleVisits = s.dev.idleVisits) ∧
    (s.dev.hostIf.parked ≠ [] → exec (.sqtailWrite q v) s = .next { s with dev := { s.dev with hostIf := { s.dev.hostIf with
      parked := s.dev.hostIf.parked ++ [(⟨0, 0, 0, 0, v.toNat, q.val, false, 0⟩ : ParkedWrite)] } } }) ∧
    (x.enable = true → ∃ t, exec (.qctlWrite q v) s = .next t ∧
      Claim.queueIs s t q { x with enable := v.getLsbD 31 } ∧ t.dev.idleVisits = 0) ∧
    (x.enable = false → v.toNat / 2 ^ 8 % 2 ^ 4 ≤ 12 → v.toNat / 2 ^ 4 % 2 ^ 4 ≤ 12 →
      let y := { x with
        devq := v.getLsbD 30, sys := v.getLsbD 29, job := v.toNat / 2 ^ 12 % 2 ^ 12
        cqs := v.toNat / 2 ^ 8 % 2 ^ 4, sqs := v.toNat / 2 ^ 4 % 2 ^ 4, enable := v.getLsbD 31 }
      let last := (x.nextSeq + (2 ^ 32 - 1)) % 2 ^ 32
      ∃ t, exec (.qctlWrite q v) s = .next t ∧ t.dev.idleVisits = 0 ∧
        Claim.queueIs s t q (if v.getLsbD 31 then { y with acceptedSeq := last, completedSeq := last, doneSeqs := [] } else y)) ∧
    (∀ ring : Fin 17, ring.val = q.val → ∃ t, exec (.hostRingHeadWrite ring v) s = .next t ∧
      Claim.queueIs s t q { x with cqhead := v.toNat % 2 ^ (4 + x.cqs) } ∧ t.dev.idleVisits = s.dev.idleVisits)) ∧
  (∀ (v : BitVec 32) (s : State), exec (.hostRingHeadWrite 16 v) s = .next { s with dev := { s.dev with
    hostIf := { s.dev.hostIf with errhead := v.toNat % 256 } } })

/-- RECORD_ACCEPT of the host's next record, with fewer than 64 launches held. A record that cannot be read is rejected
with status 2 and its number is used; a good one, whose number is the queue's next, becomes a launch that waits, or is
ready if its waits are met. COMPLETION_RECORD_WRITE puts the oldest record, 32 bytes, at the tail of the queue's ring.
JOB_CREATION makes a job and its context with the values that system software gives, each register's reserved bits 0; a
job that a standing seizure names is seizing. -/
def Sys2Proof.Claim.recordsAreAccepted : Prop :=
  (∀ (q : Fin 16) (s s' : State) (addr ctx : Nat), s.dev.heldLaunches q.val < 64 →
    s.dev.nextEntry q.val = some (addr, ctx, none) →
    let x := s.dev.queue q.val
    let s1 := { s with dev := { s.dev with fresh := s.dev.fresh + 1 } }
    (s1.readLaunchRecord ctx addr = (.bad, s') → ∃ t, exec (.recordAccept q) s = .next t ∧
      (t.dev.queue q.val).completions.map (fun r => (r.seq, r.status)) =
        x.completions.map (fun r => (r.seq, r.status)) ++ [(x.nextSeq, 2)] ∧
      (t.dev.queue q.val).nextSeq = (x.nextSeq + 1) % 2 ^ 32 ∧
      (t.dev.queue q.val).sqhead = (x.sqhead + 1) % 2 ^ (4 + x.sqs) ∧
      t.dev.launches = s.dev.launches ∧ t.cores = s.cores) ∧
    (∀ b, s1.readLaunchRecord ctx addr = (.ok b, s') →
      let r := recordOf b
      let l := newLaunch s.dev.fresh q.val r.seq addr ctx r none
      r.seq = x.nextSeq → r.mode ≠ 2 → s'.rejects q.val none l = false → s'.couldPlace l = true →
      (∀ j, s.dev.job x.job = some j → r.graph ∉ j.cancelG ∧ r.phase ∉ j.cancelP) →
        ∃ t, exec (.recordAccept q) s = .next t ∧
          t.dev.launches = s.dev.launches ++
            [{ l with state := if s.dev.waitsMet true x.job r then .ready else .waiting }] ∧
          (t.dev.queue q.val).acceptedSeq = r.seq ∧ (t.dev.queue q.val).nextSeq = (r.seq + 1) % 2 ^ 32 ∧
          (t.dev.queue q.val).sqhead = (x.sqhead + 1) % 2 ^ (4 + x.sqs) ∧
          (t.dev.queue q.val).completions = x.completions ∧ t.cores = s.cores)) ∧
  (∀ (q : Fin 16) (s : State) (r : Completion) (rest : List Completion), (s.dev.queue q.val).completions = r :: rest →
    r.gated = false → Memory.wf s.dev.host = true →
    let x := s.dev.queue q.val
    let at_ := x.cqbase.toNat + 32 * x.cqtail
    let tail := (x.cqtail + 1) % 2 ^ (4 + x.cqs)
    (tail = x.cqhead % 2 ^ (4 + x.cqs) → exec (.completionRecordWrite q) s = .next s) ∧
    (tail ≠ x.cqhead % 2 ^ (4 + x.cqs) → ∃ t, exec (.completionRecordWrite q) s = .next t ∧
      readLE t.dev.host at_ 4 = r.seq % 2 ^ 32 ∧
      readLE t.dev.host (at_ + 4) 1 = (q.val + (if x.phase then 128 else 0)) ∧
      readLE t.dev.host (at_ + 5) 1 = r.status % 256 ∧ readLE t.dev.host (at_ + 6) 1 = r.kind % 256 ∧
      readLE t.dev.host (at_ + 7) 1 = r.code % 256 ∧ readLE t.dev.host (at_ + 8) 8 = r.ident % 2 ^ 64 ∧
      readLE t.dev.host (at_ + 16) 8 = r.time % 2 ^ 64 ∧ readLE t.dev.host (at_ + 24) 8 = r.gseq % 2 ^ 64 ∧
      (∀ a, a < at_ ∨ at_ + 32 ≤ a → readByte t.dev.host a = readByte s.dev.host a) ∧
      (t.dev.queue q.val).cqtail = tail ∧
      (t.dev.queue q.val).phase = (if tail = 0 then !x.phase else x.phase) ∧
      (t.dev.queue q.val).completions = rest ∧ (∀ k, k ≠ q.val → t.dev.queue k = s.dev.queue k) ∧
      t.cores = s.cores ∧ t.dev.hbm = s.dev.hbm ∧ t.dev.launches = s.dev.launches)) ∧
  (∀ (x : JobSpec) (s : State), s.dev.ctx x.ctx = none → s.dev.job x.job = none → x.ctx < 4096 →
    ∃ t c j, exec (.jobCreation x) s = .next t ∧ t.dev.ctx x.ctx = some c ∧ t.dev.job x.job = some j ∧
      c.job = x.job ∧ c.system = x.system ∧ c.codebase = x.codebase &&& 0x0019FFFFFFFFFFFF ∧
      c.codebound = x.codebound &&& 0x0019FFFFFFFFFFFF ∧ c.trapvec = x.trapvec &&& 0x0001FFFFFFFFFFFF ∧
      c.ptroot = x.ptroot &&& 0x8001FFFFFFF80000 ∧ c.savebase = x.savebase &&& 0x0001FFFFFFFFFFFF ∧
      c.logbase = x.logbase &&& 0x0001FFFFFFFF0000 ∧ c.frqbase = x.frqbase &&& 0x0001FFFFFFFFFFFF ∧
      c.wdlimit = 100000 ∧ c.logsize = 65536 ∧ c.seq = 0 ∧ c.tokens = 0 ∧ c.srseed = 1 ∧ c.nextFseq = 1 ∧
      (∀ k, spGet c.breg k = 0) ∧ j.ctx = x.ctx ∧ (∀ k, spGet j.counters k = 0) ∧
      j.seizing = (s.dev.seizure.active && decide (s.dev.seizure.job = x.job)) ∧
      (∀ k, k ≠ x.ctx → t.dev.ctx k = s.dev.ctx k) ∧ (∀ k, k ≠ x.job → t.dev.job k = s.dev.job k) ∧
      (∀ q, (s.dev.queue q).job = x.job → (t.dev.queue q).deficit = 0) ∧ t.cores = s.cores ∧ t.dev.hbm = s.dev.hbm)

/-- Queue blocks are written, records accepted or rejected, completions written, and jobs created. -/
def Obligations.SubmissionsAreAccepted : Prop := Claim.queueBlocksAreWritten ∧ Claim.recordsAreAccepted

/-! ## Placement, tasks and the end of a launch (14 R338–R352, R355; 01 R18, R60) -/

/-- LAUNCH_READY, DISPATCH_VISIT, TASK_BIND, TASK_START and LAUNCH_COMPLETE. A launch whose waits were met before this
ref cycle is ready. A visit that finds no candidate clears its queue's deficit; one whose candidate is placeable, of the
level, and covered by the deficit and its weight places it on the cores that the scan gives. A ready task with input
casks is bound so as well, in the visit of its queue, to the core that it names, d.x Awake and its casks defined; a
bound task starts there once each is filled, its s1–s15 from the table of its context, unless its copy must be relocated
first. A launch whose members have all halted ends, unless its context is pre-empted: no core holds it, it signals, and
its record is written if it asks for one. -/
def Obligations.LaunchesRun : Prop :=
  (∀ (key : Nat) (s : State) (l : Launch), s.dev.launch key = some l →
    (l.state = .waiting → s.dev.waitsMet false (s.dev.jobOf l) l.record = true → ∃ t, exec (.launchReady key) s = .next t ∧
      t.dev.launch key = some { l with state := .ready } ∧ (∀ k, k ≠ key → t.dev.launch k = s.dev.launch k) ∧
      t.dev.idleVisits = 0 ∧ t.cores = s.cores) ∧
    (l.state ≠ .waiting ∨ s.dev.waitsMet false (s.dev.jobOf l) l.record = false → exec (.launchReady key) s = .next s)) ∧
  (∀ s : State, s.dev.pointer < 16 →
    (16 ≤ s.dev.idleVisits → exec .dispatchVisit s = .next s) ∧
    (s.dev.idleVisits < 16 → s.dev.candidate s.dev.pointer = none → ∃ t, exec .dispatchVisit s = .next t ∧
      (t.dev.queue s.dev.pointer).deficit = 0 ∧ t.dev.pointer = (s.dev.pointer + 1) % 16 ∧
      t.dev.idleVisits = s.dev.idleVisits + 1 ∧ t.dev.launches = s.dev.launches ∧ t.cores = s.cores) ∧
    (∀ (l : Launch) (p v : Nat) (scan : List (List CoreId × List CoreId)), s.dev.idleVisits < 16 →
      s.dev.candidate s.dev.pointer = some l → s.level = some p → s.dev.priority l = some p →
      s.placing l = some (.gang v scan) → l.cost ≤ (s.dev.queue s.dev.pointer).deficit + l.record.weight →
        ∃ t, exec .dispatchVisit s = .next t ∧ t.dev.pointer = (s.dev.pointer + 1) % 16 ∧ t.dev.idleVisits = 0 ∧
          ∀ x, t.dev.launch l.key = some x → x.members = scanMembers scan ∧ x.variant = v ∧
            (x.state = .running ∨ x.state = .bound))) ∧
  (∀ (key : Nat) (s : State) (l : Launch) (id : CoreId), s.dev.launch key = some l → l.state = .ready → l.record.mode = 2 →
    s.dev.idleVisits < 16 → l.queue = s.dev.pointer → s.dev.pointer < 16 → s.dev.candidate l.queue = some l →
    (s.dev.priority l).isSome = true → s.dev.priority l = s.level →
    l.cost ≤ (s.dev.queue s.dev.pointer).deficit + l.record.weight → s.placing l = some (.bind id) → (∃ c ∈ s.cores, c.id = id) → (l.record.casks.map Prod.fst).Nodup →
      ∃ t, exec (.taskBind key) s = .next t ∧ (t.coreAt id).bound = true ∧
        (∀ d, d < 31 → (t.coreAt id).dom d = if d = 5 then .awake else .off) ∧
        (∀ k ∈ l.record.casks, (t.coreAt id).xc.cask k.1 = ⟨true, 1, 0, 0, k.2⟩) ∧
        (∃ r, (t.coreAt id).resident = some r ∧ r.launch = l.key ∧ r.ctx = l.ctx ∧ r.mode = .task) ∧
        (∀ x, t.dev.launch key = some x → x.state = .bound)) ∧
  (∀ (key : Nat) (s : State) (l : Launch) (id : CoreId) (x : Ctx), s.dev.launch key = some l → s.unitCore key = some id →
    l.state = .bound → l.record.mode = 2 → (s.coreAt id).bound = true →
    (∀ k ∈ l.record.casks, ((s.coreAt id).xc.slot k.1 0).filled = true) → s.dev.ctx l.ctx = some x →
      (s.mapDiffers l = true → ∃ t, exec (.taskStart key) s = .next t ∧ (t.coreAt id).bound = true ∧
        (t.coreAt id).ec = (s.coreAt id).ec ∧ (∀ y, t.dev.launch key = some y → y.state = .bound)) ∧
      (s.mapDiffers l = false → ∃ t r, exec (.taskStart key) s = .next t ∧ (t.coreAt id).resident = some r ∧ r.launch = l.key ∧ r.mode = .task ∧
        (t.coreAt id).bound = false ∧ (t.coreAt id).ec.state = .running ∧
        (t.coreAt id).ec.pc = BitVec.ofNat 64 ((s.rootOf l).record.variant 0).entry ∧
        (l.record.ncask ≠ 0 → (t.coreAt id).xc = (s.coreAt id).xc) ∧ (t.coreAt id).mem = (s.coreAt id).mem ∧
        (∀ k : Fin 64, (t.coreAt id).regs.s[k] =
          if 1 ≤ k.val ∧ k.val ≤ 15 then spGet x.breg (16 * (16 * r.row + r.col) + k.val) else 0) ∧
        (∀ y, t.dev.launch key = some y → y.state = .running))) ∧
  (∀ (key : Nat) (s : State) (l : Launch), s.dev.launch key = some l → l.record.mode ≠ 2 →
    (l.state = .running → s.dev.preempted l.ctx = false → (∀ id ∈ l.members, id ∈ l.halted) → l.queue < 16 →
      ∃ t, exec (.launchComplete key) s = .next t ∧ t.dev.launch key = none ∧
        (∀ c ∈ t.cores, ∀ r, c.resident = some r → r.launch ≠ key) ∧
        (l.record.cmpl = true → ∃ r ∈ (t.dev.queue l.queue).completions,
          r.seq = l.seq ∧ r.kind = 0 ∧ r.status = 0 ∧ r.ident = l.addr) ∧
        (∀ j, s.dev.job (s.dev.queue l.queue).job = some j → l.record.sig ≠ 0 →
          spGet j.counters l.record.sig ≠ BitVec.allOnes 32 → ∀ y, t.dev.job (s.dev.queue l.queue).job = some y →
            spGet y.counters l.record.sig = spGet j.counters l.record.sig + 1)) ∧
    (l.state ≠ .running ∨ s.dev.preempted l.ctx = true ∨ (∃ id ∈ l.members, id ∉ l.halted) → exec (.launchComplete key) s = .next s))

/-! ## Loading (22 R468–R472) -/

/-- The bytes of the word of a copy in which a relocation's field lies: 8 of an X word, else 4 (22 R468). -/
def Sys2Proof.Claim.fieldWidth (k : CodeCopy) (r : Reloc) : Nat := if k.xstart ≤ r.offset then 8 else 4

/-- A word with a field written: COORD10 in bits 21:12 of an X word or as the IMM of LI, ARENA18 as the IMM of LI, bits
19:2 (22 R468, 03 R95). -/
def Sys2Proof.Claim.fieldWritten (kind : RelocKind) (width w v : Nat) : Nat :=
  if kind = .coord10 then
    if width = 8 then w % 2 ^ 12 + v % 2 ^ 10 * 2 ^ 12 + w / 2 ^ 22 * 2 ^ 22 else w % 4 + v % 2 ^ 10 * 4 + w / 2 ^ 20 * 2 ^ 20
  else w % 4 + v % 2 ^ 18 * 4 + w / 2 ^ 20 * 2 ^ 20

/-- The coordinate that a COORD10 field names: die, row and column of the core at the gang row and the logical column of
its addend, in a partition with its first package row and column map (22 R468, R470; 01 R15). -/
def Sys2Proof.Claim.coordinate (row0 : Nat) (map : List (List Nat)) (r : Reloc) : Nat :=
  let a := r.addend.toNat
  let row := row0 + a / 256
  CoreId.code ⟨row / 8 % 4, row % 8, (map.getD (a / 256) []).getD (a % 16) 0⟩

/-- HBM before and after the fields of some relocations of a copy have been written with their values: each word has its
field, and no byte outside of these words has changed. -/
def Sys2Proof.Claim.fieldsWritten (m m' : Memory) (k : CodeCopy) (rs : List Reloc) (value : Reloc → Nat) : Prop :=
  let a := fun r : Reloc => k.base + r.offset
  (∀ r ∈ rs, readLE m' (a r) (Claim.fieldWidth k r) =
    Claim.fieldWritten r.kind (Claim.fieldWidth k r) (readLE m (a r) (Claim.fieldWidth k r)) (value r)) ∧
  ∀ b, (∀ r ∈ rs, b < a r ∨ a r + Claim.fieldWidth k r ≤ b) → readByte m' b = readByte m b

/-- The relocations of a copy are those that the loader takes, each in a word of its own (22 R468). -/
def Sys2Proof.Claim.relocsApart (k : CodeCopy) : Prop :=
  k.base % 8 = 0 ∧ k.cend ≤ k.xstart ∧ k.relocs.all (relocOk k) = true ∧
    k.relocs.Pairwise fun r o => r.offset + Claim.fieldWidth k r ≤ o.offset ∨ o.offset + Claim.fieldWidth k o ≤ r.offset

/-- CODE_OBJECT_LOAD puts the bytes of a copy that passes its checks into the arena, each COORD10 field with the
coordinate in the copy's rectangle and each ARENA18 field with its value, and refuses the whole object where its header
has another value, one copy fails, or no rectangle of one copy's shape has a column map (which of several it takes is
the model's choice, log entry 41). -/
def Sys2Proof.Claim.copiesAreLoaded : Prop :=
  (∀ (img : CodeImage) (s : State),
    (¬(img.header.fileClass = 2 ∧ img.header.data = 1 ∧ img.header.osabi = 0 ∧ img.header.type = 1 ∧
        img.header.machine = 0x7CA4 ∧ img.header.flags ≤ 1) → exec (.codeObjectLoad img) s = .next s) ∧
    ((∃ k ∈ img.copies, s.copyOk k = false) → exec (.codeObjectLoad img) s = .next s) ∧
    ((∃ k ∈ img.copies, s.columnMap k = none ∧ ∀ r c, r < 32 → c < 18 → s.columnMap { k with row0 := r, wcol := c } = none) →
      exec (.codeObjectLoad img) s = .next s) ∧
    (∀ k o m, headerOk img.header = true → img.copies = [k] → img.data = [] → s.copyOk k = true → Claim.relocsApart k →
      s.chosen k = some o → s.columnMap o = some m → Memory.wf s.dev.hbm = true →
      ∃ t, exec (.codeObjectLoad img) s = .next t ∧ (⟨o, o.row0, m⟩ : Loaded) ∈ t.dev.loaded ∧
        Claim.fieldsWritten (writeBytes s.dev.hbm k.base k.bytes) t.dev.hbm k k.relocs
          (fun r => if r.kind = .coord10 then Claim.coordinate o.row0 m r else ((r.symbol + r.addend) % 2 ^ 18).toNat) ∧
        t.cores = s.cores))

/-- The loading of data sections. The bytes of a section have each relocated dword in the place of the eight bytes at
its offset: ABS64 the sum of symbol and addend, VARENT the placement of the copy that the record's field and the symbol
name. A section at a multiple of its alignment is written byte by byte where the context's tree maps it; where a byte is
not mapped, a relocation has no place, or the address is not aligned, the whole object is refused. -/
def Sys2Proof.Claim.dataIsLoaded : Prop :=
  (∀ (img : CodeImage) (x : DataSection) (r : Reloc) (rs : List Reloc) (b : List Byte),
    dataBytes img x b [] = some b ∧
    (∀ v : Nat, r.offset + 8 ≤ b.length →
      (r.kind = .abs64 ∧ (v : Int) = ((r.symbol : Int) + r.addend) % (2 ^ 64 : Int) ∨
        r.kind = .varent ∧ ∃ (n : Nat) (k : CodeCopy), variantAt x r.offset = some n ∧
          img.copies.find? (fun k => decide (k.base + k.centry = r.symbol ∧ k.variant = n)) = some k ∧ placementOf k = v) →
        ∃ b', dataBytes img x b (r :: rs) = dataBytes img x b' rs ∧ b'.length = b.length ∧ fld b' r.offset 8 = v % 2 ^ 64 ∧
          ∀ i, i < r.offset ∨ r.offset + 8 ≤ i → b'[i]? = b[i]?) ∧
    ((b.length < r.offset + 8 ∨ r.kind = .coord10 ∨ r.kind = .arena18) → dataBytes img x b (r :: rs) = none)) ∧
  (∀ (s : State) (ctx va : Nat) (c : Ctx) (b : Byte) (r : List Byte), s.dev.ctx ctx = some c →
    (∀ e pb a, walk s.dev.hbm c.ptroot va = .leaf e pb a →
      s.loadVirt ctx va (b :: r) = (s.pokeHome (leafHome e pb va) 1 b.toNat).loadVirt ctx (va + 1) r) ∧
    ((∀ e pb a, walk s.dev.hbm c.ptroot va ≠ .leaf e pb a) → s.loadVirt ctx va (b :: r) = none)) ∧
  (∀ (img : CodeImage) (s : State) (x : DataSection) (ctx : Nat) (b : List Byte), headerOk img.header = true →
    img.copies = [] → img.data = [x] → img.ctxs = [ctx] → x.maps = [] → dataBytes img x x.bytes x.relocs = some b →
      (∀ t, x.va % x.align = 0 → s.loadVirt ctx x.va b = some t → exec (.codeObjectLoad img) s = .next { t with
        dev := { t.dev with sections := t.dev.sections ++ [(ctx, x.va, x.relocs)] } }) ∧
      (x.va % x.align ≠ 0 ∨ s.loadVirt ctx x.va b = none → exec (.codeObjectLoad img) s = .next s))

/-- RE_RELOCATE brings a copy that no running launch uses, units of the waiting task launch that have ended apart, to
the rows and the map of the launch that waits for it, which then runs, a task unit by its own start: each COORD10 field
has the coordinate in the new rectangle, and no other byte changes. -/
def Sys2Proof.Claim.copiesAreRelocated : Prop :=
  ∀ (n : Nat) (s : State) (k : Loaded) (l : Launch) (rest : List Launch), s.dev.loaded[n]? = some k →
    (s.dev.launches.filter fun l => decide (l.state = .bound) && (decide (l.record.mode ≠ 2) || l.resume || s.mapDiffers l) &&
      decide (s.dev.copyOf l = some k)) = l :: rest →
    (k.row0 ≠ s.topRow l ∨ k.map ≠ s.columns l) →
      let ended := fun o : Launch => decide (o.rootKey = l.rootKey ∧ o.record.mode = 2) && !o.halted.isEmpty
      (s.dev.copyInUse k ended = true → (∀ o ∈ rest, k.row0 ≠ s.topRow o ∨ k.map ≠ s.columns o) →
        exec (.reRelocate n) s = .next s) ∧
      (s.dev.copyInUse k ended = false →
        ∃ t, exec (.reRelocate n) s = .next t ∧
          t.dev.loaded[n]? = some { k with row0 := s.topRow l, map := s.columns l } ∧
          (Memory.wf s.dev.hbm = true → Claim.relocsApart k.copy →
            Claim.fieldsWritten s.dev.hbm t.dev.hbm k.copy (k.copy.relocs.filter fun r => decide (r.kind = .coord10))
              (Claim.coordinate (s.topRow l) (s.columns l))) ∧
          (l.record.mode ≠ 2 → ∀ x, t.dev.launch l.key = some x → x.state = .running))

/-- PATCH writes a COORD10 or ARENA18 field of a copy's word, or a relocated dword of a data section, with a new value,
and no other byte; a word of a copy that a running launch uses stays. -/
def Sys2Proof.Claim.fieldsArePatched : Prop :=
  (∀ (n i : Nat) (v : Dword) (s : State) (k : Loaded) (r : Reloc), s.dev.loaded[n]? = some k →
    k.copy.relocs[i]? = some r →
      (s.dev.copyInUse k (fun _ => false) = true → exec (.patch n i v) s = .next s) ∧
      (s.dev.copyInUse k (fun _ => false) = false → Memory.wf s.dev.hbm = true → Claim.relocsApart k.copy →
        ∃ t, exec (.patch n i v) s = .next t ∧
          Claim.fieldsWritten s.dev.hbm t.dev.hbm k.copy [r] (fun _ => v.toNat) ∧ t.cores = s.cores)) ∧
  (∀ (n i ctx va : Nat) (v : Dword) (s : State) (rs : List Reloc) (r : Reloc), s.dev.loaded.length ≤ n →
    s.dev.sections[n - s.dev.loaded.length]? = some (ctx, va, rs) → rs[i]? = some r →
      (∀ t, s.loadVirt ctx (va + r.offset) (bytesOf 8 v.toNat) = some t → exec (.patch n i v) s = .next t) ∧
      (s.loadVirt ctx (va + r.offset) (bytesOf 8 v.toNat) = none → exec (.patch n i v) s = .next s))

/-- Code objects are loaded, relocated again for another placement, and patched. -/
def Obligations.CodeIsLoaded : Prop :=
  Claim.copiesAreLoaded ∧ Claim.dataIsLoaded ∧ Claim.copiesAreRelocated ∧ Claim.fieldsArePatched

/-! ## Reports, replies, containment and pre-emption (17 R395–R417) -/

/-- Rollback of a context with a code: no core holds it any more, no stop of it is open, and a KIND 3 report with the
code waits to be written (17 R395, R406). -/
def Sys2Proof.Claim.rolledBack (t : State) (ctx code : Nat) : Prop :=
  (∀ c ∈ t.cores, c.ctxId ≠ ctx) ∧ (∀ x, t.dev.ctx ctx = some x → x.stops = [] ∧ x.replies = []) ∧
    ∃ r ∈ t.dev.reports, r.ctx = ctx ∧ r.kind = 3 ∧ r.code = code

/-- What containing an event of a context does: it is rolled back at once; if it has gang rows, whose columns drain
first, the containment stands, with its code, until they have (17 R405, R406). -/
def Sys2Proof.Claim.containedAs (s t : State) (ctx code : Nat) : Prop :=
  (s.hasRows ctx = false → Claim.rolledBack t ctx code) ∧
  (s.hasRows ctx = true → t.dev.launches = s.dev.launches ∧
    ∃ k, (t.dev.ctx ctx).bind Ctx.contained = some k ∧ k.code = code)

/-- FAULT_REPORT_WRITE writes a waiting report of 32 bytes at the tail of its context's queue, unless the queue is full.
FREPLY_RETRY of a written report resumes what stopped; FREPLY_ABORT is contained; for a context that is not resident
either is kept, at once where no page of its save area makes the device's write wait (log entry 25). UNCORRECTABLE_DATA
is logged (the unit that its record names is the model's choice, log entry 28), and contained where a context is
resident; a second one in a bank of the scratchpad or accumulator within 24 h fences every capability of the core (23
R482). A second residue mismatch in a nest's step is contained, and the capability of FA is fenced (08 R243). A fault in
handler mode is contained with its code. -/
def Obligations.ReportsAndReplies : Prop :=
  (∀ (k : Nat) (s : State) (r : Report) (c : Ctx), s.dev.reports[k]? = some r → s.dev.ctx r.ctx = some c →
    ((c.frqTail + 1) % 4096 = c.frqHead → exec (.faultReportWrite k) s = .next s) ∧
    (∀ s' b, (c.frqTail + 1) % 4096 ≠ c.frqHead → r.ctx < 4096 → r.kind < 16 → b.length = 32 →
      fld b 0 2 = r.ctx + 2 ^ 12 * r.kind → fld b 2 1 = r.eng % 256 → fld b 3 1 = r.code % 256 →
      fld b 4 4 = r.fseq % 2 ^ 32 → fld b 8 2 = r.core % 2 ^ 16 → fld b 10 1 = r.acc % 256 → fld b 11 5 = 0 →
      fld b 16 8 = r.va % 2 ^ 64 → fld b 24 8 = r.whence % 2 ^ 64 →
      s.writeSystem (c.frqbase.toNat + 32 * c.frqTail) b = some s' →
        ∃ t, exec (.faultReportWrite k) s = .next t ∧ t.dev.reports = s.dev.reports.eraseIdx k ∧
          (t.dev.ctx r.ctx).map Ctx.frqTail = some ((c.frqTail + 1) % 4096) ∧ t.dev.hbm = s'.dev.hbm ∧
          t.dev.sbm = s'.dev.sbm ∧ t.dev.host = s'.dev.host ∧ t.cores = s'.cores)) ∧
  (∀ (ctx : BitVec 12) (fseq : BitVec 32) (s : State) (c : Ctx) (o : OpenStop), s.dev.ctx ctx.toNat = some c →
    c.stops.find? (fun o => decide (o.fseq = fseq.toNat)) = some o →
    (∀ r ∈ s.dev.reports, r.ctx = ctx.toNat → r.kind < 3 → r.fseq ≠ fseq.toNat) →
      ((s.coreAt o.core).ctxId = ctx.toNat → (∃ k ∈ s.cores, k.id = o.core) →
        (∃ t, exec (.freplyRetry ctx fseq) s = .next t ∧
          (∀ x, t.dev.ctx ctx.toNat = some x → ∀ y ∈ x.stops, y.fseq ≠ fseq.toNat) ∧
          (∀ x, (t.coreAt o.core).aHalt = some x → x.fseq ≠ some fseq.toNat) ∧
          (∀ x, (t.coreAt o.core).xHalt = some x → x.fseq ≠ some fseq.toNat) ∧
          (∀ x, (t.coreAt o.core).xc.walk.stop = some x → x.fseq ≠ some fseq.toNat) ∧
          (∀ k ∈ (t.coreAt o.core).xc.copies, ∀ x, k.stop = some x → x.fseq ≠ some fseq.toNat) ∧
          (t.coreAt o.core).regs = (s.coreAt o.core).regs ∧ (t.coreAt o.core).mem = (s.coreAt o.core).mem ∧
          t.dev.hbm = s.dev.hbm) ∧
        (∀ x, c.contained = none → (s.coreAt o.core).aHalt = some x → x.fseq = some fseq.toNat →
          ∃ t, exec (.freplyAbort ctx fseq) s = .next t ∧ Claim.containedAs s t ctx.toNat x.code)) ∧
      ((s.coreAt o.core).ctxId ≠ ctx.toNat → (∀ p ∈ c.replies, p.1 ≠ fseq.toNat) →
        (∀ i, c.saved = some i → s.dev.systemWaits (c.faultEntryAt i o + 4) 2 .write = false) →
        (∃ t, exec (.freplyRetry ctx fseq) s = .next t ∧
          (t.dev.ctx ctx.toNat).map Ctx.replies = some (c.replies ++ [(fseq.toNat, 0)]) ∧ t.cores = s.cores) ∧
        (∃ t, exec (.freplyAbort ctx fseq) s = .next t ∧
          (t.dev.ctx ctx.toNat).map Ctx.replies = some (c.replies ++ [(fseq.toNat, 1)]) ∧ t.cores = s.cores))) ∧
  (∀ (unit : Fin 7) (num : Nat) (addr : Dword) (s : State),
    (unit.val = 2 ∨ unit.val = 3 → ∀ e ∈ s.dev.mgmt.eccEvents,
      ¬(e.1 = (s.core.id.number * 7 + unit.val) * 65536 + num ∧ (s.dev.globalTime.toNat : Int) < e.2 + 86400000000000)) →
    (s.dev.hostIf.errtail + 1) % 256 ≠ s.dev.hostIf.errhead →
      (s.core.resident = none → ∃ t, exec (.uncorrectableData unit num addr) s = .next t ∧
        t.dev.mgmt.errors = s.dev.mgmt.errors ++ [⟨s.dev.globalTime.toNat, 2, if unit.val < 5 then s.core.id.number else num, 1, addr.toNat⟩] ∧
        t.cores = s.cores ∧ t.dev.due = s.dev.due ∧ t.dev.hbm = s.dev.hbm) ∧
      (∀ x, s.core.resident.isSome = true → s.dev.ctx s.core.ctxId = some x → x.id < 4096 → x.contained = none →
        ∃ t, exec (.uncorrectableData unit num addr) s = .next t ∧ Claim.containedAs s t s.core.ctxId 0x11)) ∧
  (∀ (unit : Fin 7) (num : Nat) (addr : Dword) (s : State), unit.val = 2 ∨ unit.val = 3 →
    (∃ e ∈ s.dev.mgmt.eccEvents,
      e.1 = (s.core.id.number * 7 + unit.val) * 65536 + num ∧ (s.dev.globalTime.toNat : Int) < e.2 + 86400000000000) →
    (s.dev.hostIf.errtail + 1) % 256 ≠ s.dev.hostIf.errhead → s.core.resident = none →
      ∃ t, exec (.uncorrectableData unit num addr) s = .next t ∧ t.cores = s.cores ∧
        t.dev.due = s.dev.due ++ [DueEvent.fence s.core.id (BitVec.allOnes 24)] ∧
        t.dev.mgmt.fence = s.dev.mgmt.fence ++ [(s.core.id.number, BitVec.allOnes 24, s.dev.globalTime.toNat)] ∧
        t.dev.mgmt.errors = s.dev.mgmt.errors ++ [⟨s.dev.globalTime.toNat, 2, s.core.id.number, 1, addr.toNat⟩,
          ⟨s.dev.globalTime.toNat, 4, s.core.id.number, 1, 0⟩]) ∧
  (∀ (s : State) (n : Nest) (x : Ctx), s.core.mx.nest = some n → s.canStep = true → s.dev.ctx s.core.ctxId = some x →
    x.id < 4096 → x.contained = none →
      ∃ t, exec (.nestStep 2) s = .next t ∧ Claim.containedAs s t s.core.ctxId 0x10 ∧
        DueEvent.fence s.core.id (BitVec.ofNat 24 (2 ^ n.fa.cap)) ∈ t.dev.due) ∧
  (∀ (s : State) (e : Engine) (f : FaultRec) (x : Ctx), s.core.recorded = some (e, f) → s.core.inHandler = true →
    s.dev.ctx s.core.ctxId = some x → x.id < 4096 → x.contained = none →
      ∃ t, exec .doubleFault s = .next t ∧ Claim.containedAs s t s.core.ctxId f.code)

/-- A launch of a context that is placed and has not started: its cores are held for a re-relocation, and a pre-emption
of the context lets it wait for a placement again (22 R471; DEDUCED, log entry 25). -/
def Sys2Proof.Claim.notStarted (ctx : Nat) (l : Launch) : Prop :=
  l.ctx = ctx ∧ l.state = .bound ∧ l.record.mode ≠ 2 ∧ l.resume = false

/-- Two cores hold the same: registers, tiles, memory, control registers and the states of their domains. -/
def Sys2Proof.Claim.holdsAs (a b : Core) : Prop :=
  a.regs = b.regs ∧ a.vec = b.vec ∧ a.tiles = b.tiles ∧ a.mem = b.mem ∧ a.csr = b.csr ∧ a.doms = b.doms

/-- Pre-emption. A request waits for a boundary for PREEMPTDL.BND µs; at a boundary the context is saved without cores;
behind it a deep save begins, which has PREEMPTDL.SAVE µs (a placed launch that has not started only waits for a
placement again: log entry 25): the engines of every core but the columns of a row that drain stop, and once everything
has run to completion every core of a launch that is saved is recorded, with its registers, tiles, memory, control
registers and domains, and released, and their launches wait for their resumption; past its deadline the context is lost
and contained. What the device writes into the save area waits while one of its pages is being moved or sleeps (log
entry 25). A context saved without cores resumes at once. -/
def Sys2Proof.Claim.contextsAreSaved : Prop :=
  ∀ (ctx : Nat) (s : State) (c : Ctx), s.dev.ctx ctx = some c → ctx < 4096 →
    let u := s.unplaceHeld ctx
    (c.boundaryBy = none → c.saveBy = none → c.saved = none → ∃ t, exec (.preemptionRequest ctx) s = .next t ∧
      t.dev.ctx ctx = some { c with boundaryBy := some (s.dev.now + 3000 * (c.preemptdl.toNat % 2 ^ 16)) } ∧
      (∀ n, n ≠ ctx → t.dev.ctx n = s.dev.ctx n) ∧ t.cores = s.cores ∧ t.dev.launches = s.dev.launches) ∧
    ((∀ l ∈ s.dev.launches, ¬Claim.notStarted ctx l) → u = s) ∧
    u.dev.launches.map Launch.key = s.dev.launches.map Launch.key ∧ (∀ l ∈ u.dev.launches, ¬Claim.notStarted ctx l) ∧
    (c.boundaryBy.isSome = true → u.dev.anyRuns ctx = false → c.contained = none → u.dev.saveWaits c 0 = false →
      (∀ k ∈ u.cores, k.ctxId = ctx → k.blocksBoundary = false) →
        ∃ t, exec (.boundaryPreempt ctx) s = .next t ∧
          t.dev.ctx ctx = some { c with
            boundaryBy := none, saved := some ⟨if s.dev.seizure.active then 2 else 0, true, false, [], [], [], []⟩ } ∧
          t.cores = u.cores ∧ t.dev.launches = u.dev.launches) ∧
    (c.boundaryBy = none ∨ u.dev.anyRuns ctx = true ∨ c.contained.isSome = true ∨
      (∃ k ∈ u.cores, k.ctxId = ctx ∧ k.blocksBoundary = true) → exec (.boundaryPreempt ctx) s = .next s) ∧
    (∀ by_, c.boundaryBy = some by_ →
      (by_ ≤ s.dev.now → c.contained = none → s.dev.saveWaits c 0 = false → (∀ k ∈ s.coresOf ctx, (s.coreAt k).canFreeze = true) →
        ∃ t, exec (.deepPreempt ctx) s = .next t ∧
          t.dev.ctx ctx = some { c with
            boundaryBy := none, saveBy := some (s.dev.now + 3000 * (c.preemptdl.toNat / 2 ^ 16 % 2 ^ 32)) } ∧
          t.dev.launches = u.dev.launches ∧
          ∀ k ∈ u.coresOf ctx, ∀ r, (u.coreAt k).resident = some r → (r.mode ≠ .wave ∨ r.col = 0) →
            ∀ e : Engine, vget (t.coreAt k).flt.drained e.num false = true) ∧
      (s.dev.now < by_ ∨ c.contained.isSome = true ∨ (∃ k ∈ s.coresOf ctx, (s.coreAt k).canFreeze = false) →
        exec (.deepPreempt ctx) s = .next s)) ∧
    (∀ by_, c.saveBy = some by_ →
      (s.dev.now ≤ by_ → s.dev.saveWaits c (s.coreRecords (s.dev.savedLaunches ctx)).length = false →
        (∀ k ∈ s.coresOf ctx, s.saveReady (s.coreAt k) = true) → ∃ t i, exec (.saveComplete ctx) s = .next t ∧
        t.dev.ctx ctx = some { c with saveBy := none, saved := some i } ∧ i.complete = true ∧ i.lost = false ∧
        i.launches = s.dev.savedLaunches ctx ∧
        (∀ l ∈ s.dev.savedLaunches ctx, ∀ id ∈ s.coresFor l, (∃ c ∈ s.cores, c.id = id) → ∃ k ∈ i.cores,
          k.1 = l.key ∧ k.2.id = id ∧ Claim.holdsAs k.2 (s.coreAt id)) ∧
        (∀ k ∈ i.cores, ∃ l ∈ s.dev.savedLaunches ctx, k.1 = l.key ∧ ∃ id ∈ s.coresFor l, Claim.holdsAs k.2 (s.coreAt id)) ∧
        (∀ l ∈ i.launches, ∀ k ∈ t.cores, ∀ r, k.resident = some r → r.launch ≠ l.key) ∧
        (∀ l ∈ i.launches, ∀ x, t.dev.launch l.key = some x → x.state = .waiting ∧ x.resume = true)) ∧
      (by_ < s.dev.now ∨ (∃ k ∈ s.coresOf ctx, s.saveReady (s.coreAt k) = false) → exec (.saveComplete ctx) s = .next s)) ∧
    (∀ by_, c.saveBy = some by_ →
      (by_ ≤ s.dev.now → c.contained = none → s.dev.saveWaits c 0 = false → ∃ t y i, exec (.saveDeadlineExpire ctx) s = .next t ∧
        t.dev.ctx ctx = some y ∧ y.saveBy = none ∧ y.saved = some i ∧ i.lost = true ∧ Claim.containedAs s t ctx 0) ∧
      (s.dev.now < by_ → exec (.saveDeadlineExpire ctx) s = .next s)) ∧
    (c.saved = none → exec (.contextResume ctx) s = .next s) ∧
    (∀ i, c.saved = some i →
      (s.dev.seizure.active = true → ctx ∈ s.dev.seizure.frozen → exec (.contextResume ctx) s = .next s) ∧
      ((s.dev.seizure.active = false ∨ ctx ∉ s.dev.seizure.frozen) → i.cores = [] → i.launches = [] → c.stops = [] →
        ∃ t, exec (.contextResume ctx) s = .next t ∧ t.dev.ctx ctx = some { c with saved := none, replies := [] } ∧
          t.cores = s.cores ∧ t.dev.launches = s.dev.launches ∧ t.dev.idleVisits = 0))

/-- The resumption of a context with cores. Its image is read back from the save area, and its launches are restored
together, or none of them is and nothing changes (log entry 25). A gang goes on a placement of its shape, a task unit on
the core that has its place in the pool (log entry 25): each saved core, in partition order, on the core in its place,
which then holds what the saved one held; and the launch runs, or is held for its copy. -/
def Sys2Proof.Claim.contextsAreResumed : Prop :=
  (∀ (ctx : Nat) (s : State) (c : Ctx) (i : Image), s.dev.ctx ctx = some c → ctx < 4096 → c.saved = some i → c.stops = [] →
    (s.dev.seizure.active = false ∨ ctx ∉ s.dev.seizure.frozen) →
      let ls := s.dev.launches.filter fun l => decide (l.ctx = ctx) && l.resume && i.holds l.key
      let area := c.savebase.toNat
      let size := 0x10000 + recordBytes * i.cores.length
      let u := (s.modCtx ctx fun c => { c with saved := none }).modDev fun d => { d with idleVisits := 0 }
      let u := u.modDev fun d => if i.cores = [] then d else d.touchSystem area size
      s.resumesNext ls = true → (i.cores = [] ∨ s.dev.systemWaits area size .read = false) →
        (∀ t, u.resumeImage ctx (s.dev.readRecords (.save area) 0x10000 i) ls = some t →
          exec (.contextResume ctx) s = .next (t.modCtx ctx fun c => { c with replies := [] })) ∧
        (u.resumeImage ctx (s.dev.readRecords (.save area) 0x10000 i) ls = none → exec (.contextResume ctx) s = .next s)) ∧
  (∀ (ctx : Nat) (s : State) (i : Image) (l : Launch), s.dev.launch l.key = some l → (s.cores.map Core.id).Nodup →
    (∀ k ∈ i.cores, k.2.resident.isSome = true) →
      (l.record.mode ≠ 2 →
        (s.resumePlace l = none → s.resumeImage ctx i [l] = none) ∧
        (∀ scan, s.resumePlace l = some scan → ∃ t x, s.resumeImage ctx i [l] = some t ∧ t.dev.launch l.key = some x ∧
          x.members = scanMembers scan ∧ (x.state = .running ∧ x.resume = false ∨ x.state = .bound ∧ x.resume = true) ∧
          ∀ (j : Nat) (id : CoreId) (old : Core), (scanMembers scan)[j]? = some id → ((i.cores.filter fun k => decide (k.1 = l.key)).map Prod.snd)[j]? = some old →
            Claim.holdsAs (t.coreAt id) old ∧ ∃ r, (t.coreAt id).resident = some r ∧ r.ctx = l.ctx ∧ r.launch = l.key)) ∧
      (∀ old r p id, l.record.mode = 2 → (i.cores.filter fun k => decide (k.1 = l.key)).map Prod.snd = [old] →
        old.resident = some r → s.pool l = some p → p[r.row * (s.rootOf l).cols + r.col]? = some id →
          (s.coreClass l.record.use (s.coreAt id) ≠ .member → s.resumeImage ctx i [l] = none) ∧
          (s.coreClass l.record.use (s.coreAt id) = .member → ∃ t, s.resumeImage ctx i [l] = some t ∧
            Claim.holdsAs (t.coreAt id) old ∧ ∃ r', (t.coreAt id).resident = some r' ∧ r'.ctx = l.ctx ∧ r'.launch = l.key)))

/-- Pre-emption saves a context at a boundary or deep, or loses it, and a saved context is resumed. -/
def Obligations.PreemptionSavesContexts : Prop := Claim.contextsAreSaved ∧ Claim.contextsAreResumed

/-- Seizure. A command freezes every context of another job that is placed or resident, each pre-empted; the host's
write of a job does the same, and of 0 releases. The freeze is complete once every frozen context is saved or lost and
the pages of the freeze image take a write (log entry 25); a release ends a complete seizure, its contexts free to
resume, else waits for its completion. -/
def Obligations.SeizureFreezesContexts : Prop :=
  (∀ (job : Nat) (v : Dword) (s : State), s.dev.seizure.active = false → 0 < job → job < 2 ^ 16 → v.toNat % 2 ^ 16 = job →
    ∃ t, exec (.seizureCommandArrive job) s = .next t ∧ exec (.hostSeizeWrite v) s = .next t ∧
      t.dev.seizure = ⟨true, job, s.dev.globalTime.toNat, s.otherContexts job, false, false⟩ ∧
      (∀ n ∈ s.otherContexts job, ∀ x, t.dev.ctx n = some x →
        x.boundaryBy.isSome = true ∨ x.saveBy.isSome = true ∨ x.saved.isSome = true) ∧
      (∀ j, t.dev.job job = some j → j.seizing = true) ∧ t.cores = s.cores) ∧
  (∀ (job : Nat) (s : State), s.dev.seizure.active = true → exec (.seizureCommandArrive job) s = .next s) ∧
  (∀ (v : Dword) (s : State), v.toNat % 2 ^ 16 = 0 → exec (.hostSeizeWrite v) s = exec .seizureRelease s) ∧
  (∀ s : State,
    (s.dev.seizure.active = false → exec .seizureRelease s = .next s) ∧
    (s.dev.seizure.active = true → s.dev.seizure.complete = false → exec .seizureRelease s = .next { s with
      dev := { s.dev with seizure := { s.dev.seizure with release := true } } }) ∧
    (s.dev.seizure.active = true → s.dev.seizure.complete = true → ∃ t, exec .seizureRelease s = .next t ∧
      t.dev.seizure.active = false ∧ t.dev.seizure.frozen = [] ∧
      (∀ m, s.dev.seizure.frozen = [] → s.dev.cutSystem (s.dev.freezebase.toNat + 64) sbmBytes = some m →
        t.dev.sbm = sparseSbm m) ∧
      (∀ j, t.dev.job s.dev.seizure.job = some j → j.seizing = false) ∧ t.cores = s.cores ∧ t.dev.ctxs = s.dev.ctxs)) ∧
  (∀ s : State, s.dev.seizure.active = true → s.dev.seizure.complete = false →
    ((∃ n ∈ s.dev.seizure.frozen, ∃ x, s.dev.ctx n = some x ∧ x.saved = none) → exec .freezeComplete s = .next s) ∧
    ((∀ n ∈ s.dev.seizure.frozen, ∀ x, s.dev.ctx n = some x → x.saved.isSome = true) →
      s.dev.systemWaits s.dev.freezebase.toNat s.dev.freezeBytes .write = false →
      ∃ t, exec .freezeComplete s = .next t ∧ t.cores = s.cores ∧ t.dev.ctxs = s.dev.ctxs ∧
        (s.dev.seizure.release = false → t.dev.seizure = { s.dev.seizure with complete := true }) ∧
        (s.dev.seizure.release = true → t.dev.seizure.active = false)))

/-! ## The host, the links and the management core (19 R430–R436; 21 R450–R463; 23 R478–R486) -/

/-- Only the host registers change. -/
def Sys2Proof.Claim.hostOnly (s t : State) (h : HostIf) : Prop := t = { s with dev := { s.dev with hostIf := h } }

/-- The BAR2 window and the ports. An aligned read of a page that takes it gives the bytes, with the host's own view of
host memory, and waits at an SBM bank that is not Awake; one whose translation fails gives all ones, and a write that
fails is discarded; each is recorded with KIND 3 in HWCTX's queue. A write that succeeds stores its bytes; one to a page
being moved waits at the device. An AtomicOp completes as unsupported. A port and the time base report their new state.
DEVICE_RESET leaves no core with a context, every queue disabled, and the module as after reset, every core without
ENABLED (log entry 4) and the fence log kept; that it keeps the bytes of HBM, SBM and host memory, and the fence log
with the flash, is log entry 18. -/
def Obligations.HostReachesTheDevice : Prop :=
  (∀ (off : BitVec 36) (size : Fin 9) (v : Dword) (s s' : State) (k : Nat) (h : Home) (e : Dword),
    let ctx := s.dev.hostIf.hwctx % 4096
    let queue := s.dev.hostIf.hwctx / 2 ^ 16 % 16
    let va := s.dev.hostIf.hwbase.toNat + off.toNat
    (size = 1 ∨ size = 2 ∨ size = 4 ∨ size = 8) → va % size.val = 0 →
      (s.hostTranslate ctx va .read = (.ok h e, s') → s'.dev.homeReady h = true →
        ∃ t, exec (.hostWindowRead off size) s = .next t ∧
          Claim.hostOnly s' t { s'.dev.hostIf with
            lastRead := BitVec.ofNat 64 (s'.readHome 4096 h size.val), lastUnsupported := false }) ∧
      (s.hostTranslate ctx va .read = (.ok h e, s') → s'.dev.homeReady h = false →
        exec (.hostWindowRead off size) s = .next { s' with dev := { s'.dev with hostIf := { s'.dev.hostIf with
          reads := s'.dev.hostIf.reads ++ [(⟨ctx, va, off.toNat, size.val, queue⟩ : ParkedRead)] } } }) ∧
      (s.hostTranslate ctx va .read = (.invalid, s') ∨ s.hostTranslate ctx va .read = (.forbidden k, s') →
        ∃ t r, exec (.hostWindowRead off size) s = .next t ∧
          t.dev.hostIf.lastRead = BitVec.ofNat 64 (2 ^ (8 * size.val) - 1) ∧
          (t.dev.queue queue).completions = (s.dev.queue queue).completions ++ [r] ∧
          r.kind = 3 ∧ r.ident = off.toNat ∧ r.ctx = ctx ∧ t.cores = s.cores ∧ t.dev.hbm = s.dev.hbm) ∧
      (s.hostTranslate ctx va .write = (.ok h e, s') → s'.dev.homeReady h = true →
        exec (.hostWindowWrite off size v) s = .next (s'.pokeHome h size.val (v.toNat % 256 ^ size.val))) ∧
      (s.hostTranslate ctx va .write = (.invalid, s') ∨ s.hostTranslate ctx va .write = (.forbidden k, s') →
        ∃ t r, exec (.hostWindowWrite off size v) s = .next t ∧
          (t.dev.queue queue).completions = (s.dev.queue queue).completions ++ [r] ∧
          r.kind = 3 ∧ r.ident = off.toNat ∧ r.ctx = ctx ∧ t.cores = s.cores ∧ t.dev.hbm = s.dev.hbm) ∧
      (s.hostTranslate ctx va .write = (.parked, s') → ∃ t, exec (.hostWindowWrite off size v) s = .next t ∧
        t.dev.hostIf.parked = s.dev.hostIf.parked ++
          [⟨ctx, va, off.toNat, size.val, v.toNat % 256 ^ size.val, queue, true, s'.hostBits ctx va⟩] ∧
        t.cores = s.cores ∧ t.dev.hbm = s.dev.hbm ∧ t.dev.sbm = s.dev.sbm ∧ t.dev.host = s.dev.host)) ∧
  (∀ (off : BitVec 36) (v : Dword) (s : State), ∃ t, exec (.hostAtomicop off v) s = .next t ∧
    Claim.hostOnly s t { s.dev.hostIf with lastUnsupported := true }) ∧
  (∀ (port : Fin 2) (up atomics : Bool) (s : State), ∃ t, exec (.hostPortStateChange port up atomics) s = .next t ∧
    Claim.hostOnly s t t.dev.hostIf ∧ t.dev.hostIf.portUp[port] = up ∧ t.dev.hostIf.portAtomic[port] = atomics ∧
    (∀ p : Fin 2, p ≠ port → t.dev.hostIf.portUp[p] = s.dev.hostIf.portUp[p] ∧
      t.dev.hostIf.portAtomic[p] = s.dev.hostIf.portAtomic[p]) ∧ t.dev.hostIf.parked = s.dev.hostIf.parked) ∧
  (∀ (locked : Bool) (offset : BitVec 32) (s : State),
    exec (.timeBaseLockChange locked offset) s = .next { s with dev := { s.dev with locked := locked, offset := offset } }) ∧
  (∀ s : State, ∃ t, exec .deviceReset s = .next t ∧ (∀ c ∈ t.cores, c.resident = none ∧ c.enabled = false) ∧
    (∀ q, q < 16 → (t.dev.queue q).enable = false ∧ (t.dev.queue q).completions = []) ∧ t.dev.ctxs = [] ∧ t.dev.jobs = [] ∧
    t.dev.launches = [] ∧ t.dev.mgmt.booted = false ∧ t.dev.mgmt.fence = s.dev.mgmt.fence ∧
    t.dev.hbm = s.dev.hbm ∧ t.dev.sbm = s.dev.sbm ∧ t.dev.host = s.dev.host)

/-- Whether an invalidation covers a held translation: of a context, those that map the page's address, of any size; all
of a context; all of the device (19 R432). -/
def Sys2Proof.Claim.covered (scope ctx page : Nat) (t : TlbEntry) : Prop :=
  match scope with
  | 0 => t.ctx = ctx ∧ t.page = 2 ^ 16 * page / 2 ^ t.bits * 2 ^ t.bits
  | 1 => t.ctx = ctx
  | _ => True

/-- An invalidation is pending, no TLB of the device holds a translation that it covers, and every other one is kept. -/
def Sys2Proof.Claim.invalidated (s t : State) (scope ctx page : Nat) : Prop :=
  t.dev.inval = ⟨s.dev.fresh, true, false, scope, page, ctx⟩ ∧
    (∀ e, e ∈ t.dev.tlbHost ↔ e ∈ s.dev.tlbHost ∧ ¬Claim.covered scope ctx page e) ∧
    (∀ c ∈ t.cores, ∀ e, (e ∈ c.tlbC ∨ e ∈ c.tlbA ∨ e ∈ c.tlbX) → ¬Claim.covered scope ctx page e) ∧
    (∀ e, e ∈ t.core.tlbC ↔ e ∈ s.core.tlbC ∧ ¬Claim.covered scope ctx page e) ∧
    t.core.regs = s.core.regs ∧ t.core.mem = s.core.mem ∧ t.dev.hbm = s.dev.hbm

/-- Whether an invalidation covers the entry that a virtual address was translated with, which gave a page of 2^`bits`
bytes (19 R432). -/
def Sys2Proof.Claim.coversPage (i : Inval) (ctx va bits : Nat) : Prop :=
  match i.scope with
  | 0 => i.ctx = ctx ∧ va / 2 ^ bits = 2 ^ 16 * i.page / 2 ^ bits
  | 1 => i.ctx = ctx
  | _ => True

/-- An access of a core that was translated with a covered entry before the invalidation has not performed; a scale byte
that has been read has. -/
def Sys2Proof.Claim.awaited (i : Inval) (c : Core) : Prop :=
  ∃ a ∈ c.accesses, a.id < i.since ∧ ∃ u ∈ a.units,
    ∃ va ∈ (if u.got.isSome then { u with scale := none } else u).translated, ∃ n, (va, n) ∈ a.pages ∧ Claim.coversPage i c.ctxId va n

/-- TLBINV of a page, a context and the device, each discarded with DROP while another is pending; TLBINV_COMPLETE waits
for the accesses that were translated with a covered entry before it, and then PEND reads 0 and no TLB holds a covered
translation. -/
def Obligations.TranslationsAreInvalidated : Prop :=
  (∀ (i : Instr) (scope ctx page : Nat) (s : State),
    (∃ (c : BitVec 12) (p : BitVec 33), i = .tlbinvPage c p ∧ scope = 0 ∧ ctx = c.toNat ∧ page = p.toNat) ∨
    (∃ c : BitVec 12, i = .tlbinvContext c ∧ scope = 1 ∧ ctx = c.toNat ∧ page = 0) ∨
    (i = .tlbinvDevice ∧ scope = 2 ∧ ctx = 0 ∧ page = 0) →
      (s.dev.inval.pend = false → ∃ t, exec i s = .next t ∧ Claim.invalidated s t scope ctx page) ∧
      (s.dev.inval.pend = true → exec i s = .next
        { s with dev := { s.dev with inval := { s.dev.inval with drop := true } } })) ∧
  (∀ s : State,
    (s.dev.inval.pend = false → exec .tlbinvComplete s = .next s) ∧
    (s.dev.inval.pend = true → (∃ c ∈ s.dev.mgmt.core :: s.cores, Claim.awaited s.dev.inval c) → exec .tlbinvComplete s = .next s) ∧
    (s.dev.inval.pend = true → s.dev.hostIf.parked = [] → s.dev.hostIf.reads = [] →
      (∀ c ∈ s.dev.mgmt.core :: s.cores, ¬ Claim.awaited s.dev.inval c) →
        ∃ t, exec .tlbinvComplete s = .next t ∧ t.dev.inval.pend = false ∧
        (∀ c ∈ t.dev.mgmt.core :: t.cores, ∀ e, (e ∈ c.tlbC ∨ e ∈ c.tlbA ∨ e ∈ c.tlbX) →
          ¬Claim.covered s.dev.inval.scope s.dev.inval.ctx s.dev.inval.page e) ∧
        t.core.regs = s.core.regs ∧ t.core.mem = s.core.mem ∧ t.dev.hbm = s.dev.hbm))

/-- The multicast tables and packets, the bridges and the link ports. MCGSEL selects an entry and clears LOOP of its
die; MCGENT writes the selected entry, bit 3 of which stays 0; a packet is delivered to the cores that its entry names
and goes on to the routers that it names, one router further, but never into a ninth; one that reached its router in
this ref cycle waits for the next. A bridge that retrains and a port that goes down are recorded. -/
def Obligations.LinksCarryTheirState : Prop :=
  (∀ (v : Dword) (s : State), ∃ t, exec (.mcgsel v) s = .next t ∧
    t.dev.mcgDie = v.toNat / 2 ^ 16 % 4 ∧ t.dev.mcgRouter = v.toNat / 2 ^ 8 % 64 ∧ t.dev.mcgGroup = v.toNat % 256 ∧
    (∀ d : Nat, t.dev.mcgLoop.getLsbD d = (s.dev.mcgLoop.getLsbD d && decide (d ≠ v.toNat / 2 ^ 16 % 4))) ∧
    t.dev.mcg = s.dev.mcg ∧ t.cores = s.cores) ∧
  (∀ (v : Dword) (s : State),
    (s.dev.mcgRouter < 48 → s.dev.mcgGroup ≠ 0 → spWf s.dev.mcg = true → ∃ t, exec (.mcgent v) s = .next t ∧
      (∀ k : Nat, k < 22 → (spGet t.dev.mcg (256 * (48 * s.dev.mcgDie + s.dev.mcgRouter) + s.dev.mcgGroup)).getLsbD k =
        (v.getLsbD k && decide (k ≠ 3))) ∧
      (∀ n, n ≠ 256 * (48 * s.dev.mcgDie + s.dev.mcgRouter) + s.dev.mcgGroup → spGet t.dev.mcg n = spGet s.dev.mcg n) ∧
      t.cores = s.cores) ∧
    (48 ≤ s.dev.mcgRouter ∨ s.dev.mcgGroup = 0 → exec (.mcgent v) s = .next s)) ∧
  (∀ (k : Nat) (s : State) (p : Packet), s.dev.packets[k]? = some p → p.group ≠ 0 →
    (p.fresh = true → exec (.multicastCopy k) s = .next s) ∧
    let entry := spGet s.dev.mcg (256 * (48 * p.die + p.router) + p.group)
    let ways := egresses entry p.die p.router
    p.fresh = false → ∃ t, exec (.multicastCopy k) s = .next t ∧
      (p.passed < 8 → t.dev.packets = s.dev.packets.eraseIdx k ++
          ways.map (fun w => { p with fresh := true, die := w.1, router := w.2, passed := p.passed + 1 }) ∧ t.dev.mcgLoop = s.dev.mcgLoop) ∧
      (8 ≤ p.passed → t.dev.packets = s.dev.packets.eraseIdx k ∧ (ways ≠ [] → p.die < 4 → t.dev.mcgLoop.getLsbD p.die = true)) ∧
      (∀ i : Nat, i < 3 → entry.getLsbD i = true →
        let c := s.coreAt (routerCore p.die p.router i)
        c.id = routerCore p.die p.router i → c.resident.isSome = true → c.ctxId = p.ctx → p.off + p.bytes.length ≤ 2 ^ 21 →
        (∀ j, j < p.bytes.length → c.awake (7 + (p.off + j) / 2 ^ 17 % 16) = true) → Memory.wf c.mem.spad = true →
          readBytes (t.coreAt c.id).mem.spad p.off p.bytes.length = p.bytes ∧
          (∀ a, a < p.off ∨ p.off + p.bytes.length ≤ a →
            readByte (t.coreAt c.id).mem.spad a = readByte c.mem.spad a)) ∧
      t.dev.hbm = s.dev.hbm ∧ t.core.regs = s.core.regs) ∧
  (∀ (b : Fin 6) (p : Fin 18) (s : State), (s.dev.hostIf.errtail + 1) % 256 ≠ s.dev.hostIf.errhead →
    (∃ t, exec (.bridgeRetrain b) s = .next t ∧ t.dev.bridges[b] = true ∧
      t.dev.mgmt.errors = s.dev.mgmt.errors ++ [⟨s.dev.globalTime.toNat, 5, b.val, 1, 0⟩] ∧ t.cores = s.cores ∧
      t.dev.packets = s.dev.packets ∧ t.dev.hbm = s.dev.hbm) ∧
    (exec (.bridgeRetrainEnd b) s = .next { s with dev := { s.dev with bridges := vset s.dev.bridges b false } }) ∧
    (exec (.linkPortTrained p) s = .next { s with dev := { s.dev with
      ports := vset s.dev.ports p { s.dev.ports[p] with up := true } } }) ∧
    (∃ t, exec (.linkPortDown p) s = .next t ∧ (t.dev.ports[p]).up = false ∧
      (∀ o : Fin 18, o ≠ p → t.dev.ports[o] = s.dev.ports[o]) ∧
      t.dev.mgmt.errors = s.dev.mgmt.errors ++ [⟨s.dev.globalTime.toNat, 6, p.val, 1, 0⟩] ∧ t.cores = s.cores))

/-- The management core. MODULE_BOOT with an image that verifies enables the cores that it names with their
capabilities, without those that the fence log has taken, and with one that fails does nothing. A mailbox command is
taken, or discarded with result 4 while another runs; an attestation writes its report 4,096 bytes behind its nonce; a
staged image or firmware that verifies is kept, the firmware's length read from bytes 8 to 11 of its header (the model's
choice, log entry 10: 23 R483 places no field). The oldest error record goes to the error ring, 32 bytes, unless the
ring is full. -/
def Obligations.ManagementCoreServes : Prop :=
  (∀ (image : List Byte) (s : State),
    (s.dev.mgmt.booted = true → exec (.moduleBoot image) s = .next s) ∧
    (s.dev.mgmt.booted = false → ∃ t, exec (.moduleBoot image) s = .next t ∧
      (s.dev.mgmt.verifyImage image ≠ 0 → t = s) ∧
      (s.dev.mgmt.verifyImage image = 0 → t.dev.mgmt.booted = true ∧ t.dev.mgmt.image = image ∧
        t.dev.mgmt.version = fld image 4 4 ∧
        ∀ c ∈ t.cores, c.enabled = (fld image (16 + 4 * c.id.number) 4).testBit 31 ∧
          ∀ k : Nat, k < 24 → c.capmask.getLsbD k = ((fld image (16 + 4 * c.id.number) 4).testBit k &&
            !(s.dev.mgmt.fence.any fun e => decide (e.1 = c.id.number) && e.2.1.getLsbD k))))) ∧
  (∀ (i : Instr) (cmd : Nat) (s : State),
    (i, cmd) ∈ [(Instr.mbcmdAttest, 1), (.mbcmdStageFirmware, 2), (.mbcmdStageImage, 3)] →
      (s.dev.mgmt.command = none → exec i s = .next { s with dev := { s.dev with
        mgmt := { s.dev.mgmt with command := some cmd } } }) ∧
      (∀ o, s.dev.mgmt.command = some o → exec i s = .next { s with dev := { s.dev with
        mgmt := { s.dev.mgmt with result := 4 } } })) ∧
  (∀ s : State,
    (s.dev.mgmt.command = none → exec .mbcmdComplete s = .next s) ∧
    (s.dev.mgmt.command = some 1 → Memory.wf s.dev.host = true → ∃ t, exec .mbcmdComplete s = .next t ∧
      t.dev.mgmt = { s.dev.mgmt with command := none, result := 0 } ∧
      (let a := s.dev.hostIf.mbarg.toNat + 4096
       readLE t.dev.host a 4 = 0x56344154 ∧ readLE t.dev.host (a + 4) 4 = s.dev.devnum.toNat ∧
       readBytes t.dev.host (a + 8) 32 = readBytes s.dev.host s.dev.hostIf.mbarg.toNat 32 ∧
       ∀ b, b < a → readByte t.dev.host b = readByte s.dev.host b) ∧ t.cores = s.cores) ∧
    (s.dev.mgmt.command = some 2 →
      let b := readBytes s.dev.host s.dev.hostIf.mbarg.toNat (64 + readLE s.dev.host (s.dev.hostIf.mbarg.toNat + 8) 4 + 2420)
      let r := s.dev.mgmt.verifyFirmware b
      ∃ t, exec .mbcmdComplete s = .next t ∧ t.dev.mgmt = { s.dev.mgmt with
        command := none, result := r, stagedFirmware := if r = 0 then some b else s.dev.mgmt.stagedFirmware } ∧
        t.cores = s.cores ∧ t.dev.host = s.dev.host) ∧
    (s.dev.mgmt.command = some 3 →
      let b := readBytes s.dev.host s.dev.hostIf.mbarg.toNat 4740
      let r := s.dev.mgmt.verifyImage b
      ∃ t, exec .mbcmdComplete s = .next t ∧ t.dev.mgmt = { s.dev.mgmt with
        command := none, result := r, stagedImage := if r = 0 then some b else s.dev.mgmt.stagedImage } ∧
        t.cores = s.cores ∧ t.dev.host = s.dev.host)) ∧
  (∀ (s : State) (e : ErrRec) (rest : List ErrRec), s.dev.mgmt.errors = e :: rest → Memory.wf s.dev.host = true →
    let at_ := s.dev.hostIf.errbase.toNat + 32 * s.dev.hostIf.errtail
    let tail := (s.dev.hostIf.errtail + 1) % 256
    (tail = s.dev.hostIf.errhead → exec .errorRecordWrite s = .next s) ∧
    (tail ≠ s.dev.hostIf.errhead → ∃ t, exec .errorRecordWrite s = .next t ∧
      readLE t.dev.host at_ 8 = e.time % 2 ^ 64 ∧ readLE t.dev.host (at_ + 8) 1 = e.kind % 256 ∧
      readLE t.dev.host (at_ + 9) 2 = e.unit % 2 ^ 16 ∧ readLE t.dev.host (at_ + 11) 1 = 0 ∧
      readLE t.dev.host (at_ + 12) 4 = e.count % 2 ^ 32 ∧ readLE t.dev.host (at_ + 16) 8 = e.addr % 2 ^ 64 ∧
      readLE t.dev.host (at_ + 24) 8 = 0 ∧
      (∀ a, a < at_ ∨ at_ + 32 ≤ a → readByte t.dev.host a = readByte s.dev.host a) ∧
      t.dev.hostIf.errtail = tail ∧ t.dev.mgmt.errors = rest ∧ t.cores = s.cores))

/-! ## Rails, boost, limits and cluster gating (15 R361–R384; 16 R383–R386; 23 R478) -/

/-- Only one cluster changes, to `x`; every other cluster, every core and every memory stay. -/
def Sys2Proof.Claim.clusterIs (s t : State) (n : Fin 192) (x : Cluster) : Prop :=
  t.dev.cluster n.val = x ∧ (∀ k, k ≠ n.val → t.dev.cluster k = s.dev.cluster k) ∧
    t = { s with dev := { s.dev with clusters := t.dev.clusters } }

/-- Rails, boost and limits. A rail moves by 5 mV towards its aim when its time has come; at the end of a µs a context
pays one token for each cluster that it boosted, and at the end of a ms gets its weight times the quantum, up to the
cap; the change of a power limit is due at the end of the ref cycle; forced skipping starts when a limit has not been
acknowledged for 10 µs, or 100 µs after its acknowledgement; a thermal limit limits every cluster of its die, and a
thermal trip stops the die's clocks and contains every context with a core on the die, each rolled back at once or, with
gang rows, once their columns have stopped (that its notice has code 0 is log entry 21); an SBM bank that a placed
launch references stays Awake. -/
def Obligations.PowerFollowsItsLimits : Prop :=
  (∀ (n : Fin 192) (s : State),
    let x := s.dev.cluster n.val
    (x.railTimer ≠ some 0 → exec (.railStep n) s = .next s) ∧
    (x.railTimer = some 0 → (∀ c ∈ s.cores, ∀ e : Engine, (c.eng e).request = none) → x.gate = .run →
      ∃ t, exec (.railStep n) s = .next t ∧ t.cores = s.cores ∧
        (s.needVolts n.val true = x.rail → (t.dev.cluster n.val).rail = x.rail) ∧
        (x.rail < s.needVolts n.val true → (t.dev.cluster n.val).rail = x.rail + 1) ∧
        (s.needVolts n.val true < x.rail → (t.dev.cluster n.val).rail = x.rail - 1) ∧
        (∀ k, k ≠ n.val → t.dev.cluster k = s.dev.cluster k)) ∧
    (∃ t, exec (.powerLimitSet n) s = .next t ∧ Claim.clusterIs s t n { x with limitNext := some true }) ∧
    (∃ t, exec (.powerLimitClear n) s = .next t ∧ Claim.clusterIs s t n { x with limitNext := some false }) ∧
    (x.ackTimer = some 0 → ∃ t, exec (.ackTimerExpire n) s = .next t ∧
      Claim.clusterIs s t n { x with ackTimer := none, skip := x.limited }) ∧
    (x.ackTimer ≠ some 0 → ∃ t, exec (.ackTimerExpire n) s = .next t ∧ Claim.clusterIs s t n x) ∧
    (x.grant = some 0 → ∃ t, exec (.ackGrantExpire n) s = .next t ∧
      Claim.clusterIs s t n { x with grant := none, skip := x.limited }) ∧
    (x.grant ≠ some 0 → ∃ t, exec (.ackGrantExpire n) s = .next t ∧ Claim.clusterIs s t n x)) ∧
  (∀ s : State,
    (¬(s.dev.timeAdvances = true ∧ (s.dev.globalTime.toNat + 1) % 1000 = 0 ∧ s.dev.paid = false) →
      exec .boostTokenTick s = .next s) ∧
    (∀ x, s.dev.ctxs = [x] → s.dev.timeAdvances = true → (s.dev.globalTime.toNat + 1) % 1000 = 0 → s.dev.paid = false →
      x.boosted ≠ [] → x.boosted.length < x.tokens → ∃ t y, exec .boostTokenTick s = .next t ∧ t.dev.ctxs = [y] ∧
        t.dev.paid = true ∧ y.tokens = x.tokens - x.boosted.length ∧ y.boosted = [] ∧ t.cores = s.cores) ∧
    (¬(s.dev.timeAdvances = true ∧ (s.dev.globalTime.toNat + 1) % 1000000 = 0 ∧ s.dev.refilled = false) →
      exec .boostRefill s = .next s) ∧
    (s.dev.timeAdvances = true → (s.dev.globalTime.toNat + 1) % 1000000 = 0 → s.dev.refilled = false →
      ∃ t, exec .boostRefill s = .next t ∧ t.dev.refilled = true ∧
      t.dev.ctxs = s.dev.ctxs.map (fun x => { x with tokens :=
        let paid := x.tokens + x.weight * s.dev.boostQuant.toNat
        if paid ≤ s.dev.boostCap.toNat then paid else if x.tokens ≤ s.dev.boostCap.toNat then s.dev.boostCap.toNat
        else x.tokens }) ∧ t.cores = s.cores)) ∧
  (∀ (bank : Fin 1152) (state : Fin 3) (s : State), spWf s.dev.sbmState = true →
    (state ≠ 2 → (∃ l ∈ s.dev.launches, bank.val ∈ l.banks) → exec (.sbmBankStateChange bank state) s = .next s) ∧
    (state = 2 ∨ (∀ l ∈ s.dev.launches, bank.val ∉ l.banks) → ∃ t, exec (.sbmBankStateChange bank state) s = .next t ∧
      (spGet t.dev.sbmState bank.val).toNat = state.val ∧
      (∀ k, k ≠ bank.val → spGet t.dev.sbmState k = spGet s.dev.sbmState k) ∧ t.dev.sbm = s.dev.sbm ∧ t.cores = s.cores)) ∧
  (∀ (die : Fin 4) (s : State),
    (∃ t, exec (.thermalLimit die) s = .next t ∧
      (∀ n, 48 * die.val ≤ n → n < 48 * die.val + 48 → (t.dev.cluster n).limitNext = some true) ∧
      (∀ n, n < 48 * die.val ∨ 48 * die.val + 48 ≤ n → t.dev.cluster n = s.dev.cluster n) ∧ t.cores = s.cores) ∧
    ((∀ c ∈ s.cores, c.id.die = die.val → c.resident = none) → (s.dev.hostIf.errtail + 1) % 256 ≠ s.dev.hostIf.errhead →
      ∃ t, exec (.thermalTrip die) s = .next t ∧ t.dev.mgmt.stopped = vset s.dev.mgmt.stopped die true ∧
        t.dev.mgmt.errors = s.dev.mgmt.errors ++ [⟨s.dev.globalTime.toNat, 8, die.val, 1, 0⟩] ∧ t.cores = s.cores) ∧
    ((s.dev.hostIf.errtail + 1) % 256 ≠ s.dev.hostIf.errhead → ∃ t, exec (.thermalTrip die) s = .next t ∧
      t.dev.mgmt.stopped = vset s.dev.mgmt.stopped die true ∧
      ∀ c ∈ s.cores, c.id.die = die.val → c.resident.isSome = true → ∀ x, s.dev.ctx c.ctxId = some x → x.id < 4096 →
        x.contained = none →
          (s.hasRows c.ctxId = false → Claim.rolledBack t c.ctxId 0) ∧
          (s.hasRows c.ctxId = true → Claim.rolledBack t c.ctxId 0 ∨
            ∃ k, (t.dev.ctx c.ctxId).bind Ctx.contained = some k ∧ k.code = 0)))

/-- What a request of CLCTL does to a cluster: the gate it comes to, or the error with which it is rejected (15 R380).
-/
def Sys2Proof.Claim.gateAfter (x : Cluster) (refs : Bool) (req : Nat) : Except Nat Gate :=
  if x.busy.isSome then .error 3
  else
    match x.gate, req with
    | .run, 1 => .ok .draining
    | .draining, 0 | .quiesced, 0 => .ok .run
    | .quiesced, 2 => if refs then .error 2 else .ok .retained
    | .retained, 3 => .ok .clockoff
    | .clockoff, 4 => .ok .railoff
    | _, _ => .error 1

/-- Cluster gating. A request of CLCTL and a CLWAKE are judged at the end of their ref cycle. The request takes the
selected cluster one state on, or is rejected with its error and changes nothing else; CLWAKE is never rejected: a
draining or quiesced cluster runs, a gated one wakes in 1, 2 or 137 µs; a draining cluster whose HELD was 0 for a ref
cycle is quiesced; the µs of RETAINED and of a wake end, and a woken cluster runs, its rail at 675 mV and its SBM banks
Awake. -/
def Obligations.ClustersAreGated : Prop :=
  (∀ (i : Instr) (req : Nat) (s : State) (n : Fin 192),
    (i, req) ∈ [(Instr.clctlRun, 0), (.clctlQuiesce, 1), (.clctlRetain, 2), (.clctlClockoff, 3), (.clctlRailoff, 4)] →
    s.dev.clsel.toNat = n.val →
      let x := s.dev.cluster n.val
      let asked := { s with dev := { s.dev with due := s.dev.due ++ [DueEvent.gate n.val req] } }
      let t := asked.endGating
      exec i s = .next asked ∧
      (s.dev.due = [] → t.cores = s.cores ∧ t.dev.hbm = s.dev.hbm ∧ t.dev.sbm = s.dev.sbm ∧
        (∀ k, k ≠ n.val → t.dev.cluster k = s.dev.cluster k) ∧
        (match Claim.gateAfter x (s.dev.clusterRefs n.val) req with
         | .error e => Claim.clusterIs s t n { x with err := e }
         | .ok g => (t.dev.cluster n.val).gate = g ∧ (t.dev.cluster n.val).err = 0 ∧
           (g = .run → (t.dev.cluster n.val).req = 0 ∧ (t.dev.cluster n.val).wake = false) ∧
           (g ≠ .run → (t.dev.cluster n.val).req = req) ∧ (g = .retained → (t.dev.cluster n.val).busy = some 3000) ∧
           (g = .railoff → (t.dev.cluster n.val).rail = 0)))) ∧
  (∀ (n : Fin 192) (s : State),
    let x := s.dev.cluster n.val
    let asked := { s with dev := { s.dev with due := s.dev.due ++ [DueEvent.clwake n.val] } }
    let t := asked.endGating
    (exec (.clwake n) s = .next asked) ∧
    (s.dev.due = [] →
      (x.gate = .run ∨ x.gate = .waking → t = s) ∧
      (x.gate = .draining ∨ x.gate = .quiesced →
        (t.dev.cluster n.val).gate = .run ∧ (t.dev.cluster n.val).wake = false ∧ (t.dev.cluster n.val).req = 0 ∧
        (t.dev.cluster n.val).err = 0 ∧ t.cores = s.cores) ∧
      (x.gate = .clockoff ∨ x.gate = .railoff ∨ (x.gate = .retained ∧ x.busy = none) →
        Claim.clusterIs s t n { x with
          gate := .waking, wake := true
          busy := some (3000 * (if x.gate = .clockoff then 2 else if x.gate = .railoff then 137 else 1)) }) ∧
      (x.gate = .retained → x.busy.isSome = true → Claim.clusterIs s t n { x with wake := true })) ∧
    (x.gate = .draining → x.vacant = true → s.clusterHeld n.val = 0 → ∃ t, exec (.clusterQuiesced n) s = .next t ∧
      Claim.clusterIs s t n { x with gate := .quiesced, vacant := false }) ∧
    (x.gate ≠ .draining ∨ x.vacant = false ∨ s.clusterHeld n.val ≠ 0 → exec (.clusterQuiesced n) s = .next s) ∧
    (x.gate = .retained → x.busy = some 0 → ∃ t, exec (.clusterRetainDone n) s = .next t ∧
      Claim.clusterIs s t n (if x.wake then { x with gate := .waking, wake := true, busy := some 3000 }
        else { x with busy := none })) ∧
    (x.gate ≠ .retained ∨ x.busy ≠ some 0 → exec (.clusterRetainDone n) s = .next s) ∧
    (x.gate = .waking → x.busy = some 0 → spWf s.dev.sbmState = true → ∃ t, exec (.clusterWakeComplete n) s = .next t ∧
      (t.dev.cluster n.val).gate = .run ∧ (t.dev.cluster n.val).wake = false ∧ (t.dev.cluster n.val).req = 0 ∧
      (t.dev.cluster n.val).rail = 135 ∧ (∀ b ∈ clusterBanks n.val, (spGet t.dev.sbmState b).toNat = 2) ∧
      (∀ b, b ∉ clusterBanks n.val → spGet t.dev.sbmState b = spGet s.dev.sbmState b) ∧
      t.dev.sbm = s.dev.sbm ∧ t.cores = s.cores) ∧
    (x.gate ≠ .waking ∨ x.busy ≠ some 0 → exec (.clusterWakeComplete n) s = .next s))

/-! ## Encoding, stepping and the whole machine (03 R88–R117; 01 R19–R22; log entry 3) -/

/-- The worked encodings of spec/03 decode to the instructions that it gives for them; the word of zeros is *illegal
encoding*, and a reserved bit set is a *reserved field nonzero*. -/
def Obligations.SpecWordsDecode : Prop :=
  decode .c 0x04304200 = .ok (.add 3 1 2) ∧ decode .c 0x28100510 = .ok (.li 1 324) ∧
    decode .c 0x80313FC0 = .ok (.ldw 3 4 255 0) ∧ decode .c 0x80310E80 = .ok (.ldw 3 4 0x3A 0) ∧
    decode .c 0xD8440C00 = .ok (.steep ⟨8, some (0, 3), none⟩) ∧ decode .c 0xF8000000 = .ok .nop ∧
    decode .a 0x040014D0E3FE02FF = .ok (.tld ⟨0, .tile 5, 3, 4, 7, 511, false, 2, 255⟩) ∧
    decode .v 0x1012204010C00000 = .ok (.vfma .f32 2 .rtz 4 1 2 3) ∧
    decode .m 0x08000000000000000000000000000002 = .ok (.mwin 2) ∧
    decode .x (22 * 2 ^ 58) = .ok .xnop ∧ decode .c 0 = .error .illegal ∧
    decode .c 0x043042E0 = .error .illegal ∧ decode .c 0xF8000400 = .error (.reserved .nop)

/-- Decoding the word of an instruction gives it back: for every well-formed word of the five streams, with every
operand at every value that its encoding admits. -/
def Obligations.DecodeEncodeAgree : Prop :=
  ∀ (i : Instr) (e : Engine), i.stream = some e → i.wf = true →
    encode i < 2 ^ (8 * e.wordBytes) ∧ decode e (encode i) = .ok i

/-- The hint field of a word of an engine (03 R90, R103 to R117): bits 1:0 of a C word, but none for opcodes 0x23 to
0x25; bits 53:48 of an A or X word, 37:32 of a V word, 121:116 of an M word. -/
def Sys2Proof.Claim.hintBit (e : Engine) (w k : Nat) : Prop :=
  match e with
  | .c => k < 2 ∧ ¬ (0x23 ≤ w / 2 ^ 26 ∧ w / 2 ^ 26 ≤ 0x25)
  | .a | .x => 48 ≤ k ∧ k < 54
  | .v => 32 ≤ k ∧ k < 38
  | .m => 116 ≤ k ∧ k < 122

/-- What the decoder accepts is a well-formed word of the engine's own stream, and the word holds the instruction's
encoding and beside it nothing but bits of its hint field: a set bit that is neither is refused. -/
def Obligations.DecodedWordsAreWellFormed : Prop :=
  ∀ (e : Engine) (w : Nat) (i : Instr), w < 2 ^ (8 * e.wordBytes) → decode e w = .ok i →
    i.stream = some e ∧ i.wf = true ∧ (∀ k, (encode i).testBit k = true → w.testBit k = true) ∧
      ∀ k, w.testBit k = true → (encode i).testBit k = true ∨ Claim.hintBit e w k

/-- A step runs the decoded instruction. The core whose turn it is has nothing due, no stream before the engine's can
issue in this ref cycle, and the engine can: its word, fetched at its program counter between CODEBASE and CODEBOUND, is
decoded and executed, with the results that a return holds for it in flight again; one that is no instruction raises
*illegal encoding* or *reserved field nonzero* with its OP. An event at the head of the agenda is executed at once. That
the machine takes its own next turn with nothing on the agenda is log entry 3; that results held by a return count from
there is log entry 7. A word that is not aligned, or of which a byte lies outside CODEBASE to CODEBOUND, raises *fetch
bound* instead, with its address. -/
def Obligations.StepRunsTheDecodedWord : Prop :=
  (∀ (s : State) (e : Engine) (x : Ctx) (w : Nat), s.dev.agenda = [] → s.dev.closing = false →
    s.dev.active s.core = true → s.internalStep = none → s.rowOf s.core = none →
    (∀ o : Engine, o.num < e.num → s.core.ready o = false) → s.core.ready e = true → s.core.fetching = true →
    s.ctx = some x →
    (let pc := (s.core.eng e).pc.toNat
     let base := x.codebase.toNat % 2 ^ 49
     let bound := x.codebound.toNat % 2 ^ 49
     x.codebase.toNat / 2 ^ 51 = 0 ∧ x.codebound.toNat / 2 ^ 51 = 0 ∧ hbmBacked base = true ∧ hbmBacked bound = true ∧
       hbmBacked pc = true ∧ pc % e.wordBytes = 0 ∧ base ≤ pc ∧ pc + e.wordBytes ≤ bound ∧ w = readLE s.dev.hbm pc e.wordBytes) →
      (∀ i, decode e w = .ok i → step s = exec i (s.replayed e)) ∧
      (decode e w = .error .illegal →
        step s = .next ((s.replayed e).raise e ⟨0x01, w / 2 ^ (8 * e.wordBytes - 6), 0, 0, 0⟩)) ∧
      (∀ i, decode e w = .error (.reserved i) → (s.replayed e).contextIllegal e i = false →
        step s = .next ((s.replayed e).raise e ⟨0x02, w / 2 ^ (8 * e.wordBytes - 6), 0, 0, 0⟩))) ∧
  (∀ (s : State) (e : Engine) (x : Ctx), s.dev.agenda = [] → s.dev.closing = false →
    s.dev.active s.core = true → s.internalStep = none → s.rowOf s.core = none →
    (∀ o : Engine, o.num < e.num → s.core.ready o = false) → s.core.ready e = true → s.core.fetching = true →
    s.ctx = some x →
      let pc := (s.core.eng e).pc
      (pc.toNat % e.wordBytes ≠ 0 ∨ pc.toNat < x.codebase.toNat % 2 ^ 49 ∨ x.codebound.toNat % 2 ^ 49 < pc.toNat + e.wordBytes) →
        step s = .next ((s.replayed e).raise e ⟨0x03, 0, 0, pc, 0⟩)) ∧
  (∀ (s : State) (i : Instr) (r : List Choice), s.dev.agenda = .event i :: r → i.stream = none →
    step s = exec i { s with dev := { s.dev with agenda := r } })

/-- Every step keeps the memories of the device in their canonical form. The form is this model's own (memory as a list
of the bytes that are not zero; log entry 1); a save or a freeze moves bytes between the cores and the device, so that
the premise takes the form of both. -/
def Obligations.DeviceMemoryStaysCanonical : Prop :=
  ∀ s t : State, s.dev.canonical → s.coresCanonical → step s = .next t → t.dev.canonical

/-- Every step keeps the stores of every core, and of every core record kept for a resumption, in their canonical form.
The form is this model's own (log entry 1). -/
def Obligations.CoreMemoryStaysCanonical : Prop :=
  ∀ s t : State, s.dev.canonical → s.coresCanonical → step s = .next t → t.coresCanonical

/-- The machine right after reset has both forms: no memory lists a byte (log entry 1). -/
def Sys2Proof.Claim.resetIsCanonical : Prop := State.reset.dev.canonical ∧ State.reset.coresCanonical

/-- Right after reset no core holds a context or is enabled, every domain is Off, every queue is disabled, every engine
is Idle, the rails stand at 675 mV and every cluster runs without a power limit; SRSEED and the generators, FPSTATUS,
FAULTINFO and the scalar registers have the values that spec/01 gives them at a launch. That these are their values at
reset is log entry 5, and that no core is enabled before MODULE_BOOT log entry 4. -/
def Sys2Proof.Claim.resetLeavesTheDeviceEmpty : Prop :=
  (∀ c ∈ State.reset.cores, c.resident = none ∧ c.enabled = false ∧ (∀ d, d < 31 → c.dom d = .off) ∧
    (∀ e : Engine, (c.eng e).state = .idle ∧ (c.eng e).divisor = 3 ∧ (c.eng e).landing = []) ∧ c.csr.fpstatus = 0 ∧
    c.csr.srseed = 1 ∧ c.csr.genV = 1 ∧ c.csr.genM = 1 ∧ c.csr.genA = 1 ∧ c.csr.faultinfo = 0 ∧
    (∀ k : Nat, k < 16 → vget c.csr.scale k 1 = 0) ∧ (∀ r : SReg, c.readS r = 0) ∧ (c.readM 0) = BitVec.allOnes 128 ∧
    (∀ w : WNo, (c.regs.w[w]).flag = .empty) ∧ (∀ t : Fin 32, (c.tiles.t[t]).flag = .empty) ∧
    (∀ n, n < 64 → (c.xc.cask n).valid = false)) ∧
    State.reset.cores.length = 576 ∧ (∀ q, q < 16 → (State.reset.dev.queue q).enable = false) ∧
    (∀ n, n < 192 → (State.reset.dev.cluster n).rail = 135 ∧ (State.reset.dev.cluster n).limited = false ∧
      (State.reset.dev.cluster n).gate = .run) ∧
    State.reset.dev.ctxs = [] ∧ State.reset.dev.launches = []

/-- The machine right after reset. -/
def Obligations.ResetState : Prop := Claim.resetIsCanonical ∧ Claim.resetLeavesTheDeviceEmpty
end

