-- ==== Sys2Proof/Laws/Mem.lean ====
section
/-! SUPPORT. The laws of the sparse stores and of memory: a read after a write, and the canonical form, which every
operation over them keeps. -/

namespace Sys2Proof.Machine

/-! ## Entries -/

@[simp] theorem spGet_nil {n : Nat} (a : Nat) : spGet ([] : Sparse n) a = 0 := rfl

theorem spWfFrom_mono {n : Nat} (m : Sparse n) : ∀ b c : Nat, b ≤ c → spWfFrom c m = true → spWfFrom b m = true := by
  cases m with
  | nil => intros; rfl
  | cons e r =>
    intro b c hbc h
    simp only [spWfFrom, Bool.and_eq_true, decide_eq_true_eq] at h ⊢
    exact ⟨⟨by omega, h.1.2⟩, h.2⟩

/-- An entry below every listed number reads zero. -/
theorem spGet_below {n : Nat} (m : Sparse n) : ∀ b a : Nat, spWfFrom b m = true → a < b → spGet m a = 0 := by
  induction m with
  | nil => intros; rfl
  | cons e r ih =>
    intro b a h hab
    simp only [spWfFrom, Bool.and_eq_true, decide_eq_true_eq] at h
    simp only [spGet, if_neg (show e.1 ≠ a by omega)]
    exact ih (e.1 + 1) a h.2 (by omega)

theorem spSet_wfFrom {n : Nat} (m : Sparse n) (v : BitVec n) :
    ∀ b a : Nat, b ≤ a → spWfFrom b m = true → spWfFrom b (spSet m a v) = true := by
  induction m with
  | nil =>
    intro b a hab _
    by_cases hv : v = 0
    · simp only [spSet, if_pos hv, spWfFrom]
    · simp only [spSet, if_neg hv, spWfFrom, Bool.and_eq_true, decide_eq_true_eq]
      exact ⟨⟨hab, hv⟩, trivial⟩
  | cons e r ih =>
    obtain ⟨k, w⟩ := e
    intro b a hab h
    simp only [spWfFrom, Bool.and_eq_true, decide_eq_true_eq] at h
    obtain ⟨⟨hbk, hw⟩, hr⟩ := h
    by_cases h1 : a < k
    · by_cases hv : v = 0
      · simp only [spSet, if_pos h1, if_pos hv, spWfFrom, Bool.and_eq_true, decide_eq_true_eq]
        exact ⟨⟨hbk, hw⟩, hr⟩
      · simp only [spSet, if_pos h1, if_neg hv, spWfFrom, Bool.and_eq_true, decide_eq_true_eq]
        exact ⟨⟨hab, hv⟩, ⟨by omega, hw⟩, hr⟩
    · by_cases h2 : a = k
      · by_cases hv : v = 0
        · simp only [spSet, if_neg h1, if_pos h2, if_pos hv]
          exact spWfFrom_mono r b (k + 1) (by omega) hr
        · simp only [spSet, if_neg h1, if_pos h2, if_neg hv, spWfFrom, Bool.and_eq_true, decide_eq_true_eq]
          exact ⟨⟨hab, hv⟩, h2 ▸ hr⟩
      · simp only [spSet, if_neg h1, if_neg h2, spWfFrom, Bool.and_eq_true, decide_eq_true_eq]
        exact ⟨⟨hbk, hw⟩, ih (k + 1) a (by omega) hr⟩

theorem spSet_wf {n : Nat} (m : Sparse n) (a : Nat) (v : BitVec n) (h : spWf m = true) : spWf (spSet m a v) = true :=
  spSet_wfFrom m v 0 a (Nat.zero_le a) h

theorem spGet_spSet_from {n : Nat} (m : Sparse n) (a : Nat) (v : BitVec n) :
    ∀ b k : Nat, spWfFrom b m = true → spGet (spSet m a v) k = if k = a then v else spGet m k := by
  induction m with
  | nil =>
    intro b k _
    by_cases hv : v = 0
    · simp [spSet, hv, spGet]
    · simp only [spSet, if_neg hv, spGet, eq_comm]
  | cons e r ih =>
    obtain ⟨j, w⟩ := e
    intro b k h
    simp only [spWfFrom, Bool.and_eq_true, decide_eq_true_eq] at h
    obtain ⟨⟨_, hw⟩, hr⟩ := h
    by_cases h1 : a < j
    · by_cases hv : v = 0
      · simp only [spSet, if_pos h1, if_pos hv]
        by_cases hk : k = a
        · rw [if_pos hk, hv]
          exact spGet_below ((j, w) :: r) j k (by simpa [spWfFrom, hr] using hw) (by omega)
        · rw [if_neg hk]
      · simp only [spSet, if_pos h1, if_neg hv]
        by_cases hk : k = a
        · simp [spGet, hk]
        · simp [spGet, hk, Ne.symm hk]
    · by_cases h2 : a = j
      · subst h2
        by_cases hv : v = 0
        · simp only [spSet, if_neg h1, if_pos hv, if_true]
          by_cases hk : k = a
          · rw [if_pos hk, hv]
            exact spGet_below r (a + 1) k hr (by omega)
          · simp [spGet, hk, Ne.symm hk]
        · simp only [spSet, if_neg h1, if_neg hv, if_true]
          by_cases hk : k = a
          · simp [spGet, hk]
          · simp [spGet, hk, Ne.symm hk]
      · simp only [spSet, if_neg h1, if_neg h2, spGet]
        by_cases hj : j = k
        · rw [if_pos hj, if_pos hj, if_neg (by omega)]
        · rw [if_neg hj, if_neg hj]
          exact ih (j + 1) k hr

/-- A read of a store after a write: the value written at its number, the former one at any other. -/
theorem spGet_spSet {n : Nat} (m : Sparse n) (a k : Nat) (v : BitVec n) (h : spWf m = true) :
    spGet (spSet m a v) k = if k = a then v else spGet m k := spGet_spSet_from m a v 0 k h

theorem filter_wfFrom {n : Nat} (p : Nat × BitVec n → Bool) (m : Sparse n) :
    ∀ b : Nat, spWfFrom b m = true → spWfFrom b (m.filter p) = true := by
  induction m with
  | nil => intros; rfl
  | cons e r ih =>
    intro b h
    simp only [spWfFrom, Bool.and_eq_true, decide_eq_true_eq] at h
    by_cases hp : p e = true
    · simp only [List.filter_cons, hp, if_true, spWfFrom, Bool.and_eq_true, decide_eq_true_eq]
      exact ⟨h.1, ih (e.1 + 1) h.2⟩
    · simp only [List.filter_cons, hp]
      exact spWfFrom_mono _ b (e.1 + 1) (by omega) (ih (e.1 + 1) h.2)

theorem spClear_wf {n : Nat} (m : Sparse n) (lo hi : Nat) (h : spWf m = true) : spWf (spClear m lo hi) = true :=
  filter_wfFrom _ m 0 h

/-- A read of a store from which a range was cleared: zero in the range, the former entry outside it. -/
theorem spGet_spClear {n : Nat} (m : Sparse n) (lo hi a : Nat) :
    spGet (spClear m lo hi) a = if lo ≤ a ∧ a < hi then 0 else spGet m a := by
  induction m with
  | nil => simp [spClear]
  | cons e r ih =>
    obtain ⟨k, w⟩ := e
    simp only [spClear] at ih
    by_cases hk : k < lo ∨ hi ≤ k
    · simp only [spClear, List.filter_cons, hk, decide_true, if_true, spGet]
      by_cases he : k = a
      · rw [if_pos he, if_neg (by omega), if_pos he]
      · rw [if_neg he, if_neg he, ih]
    · simp only [spClear, List.filter_cons, hk, decide_false, Bool.false_eq_true, if_false, spGet, ih]
      by_cases ha : lo ≤ a ∧ a < hi
      · rw [if_pos ha, if_pos ha]
      · rw [if_neg ha, if_neg ha, if_neg (by omega)]

/-! ## Bytes -/

@[simp] theorem readByte_nil (a : Nat) : readByte [] a = 0 := rfl

theorem writeByte_wf (m : Memory) (a : Nat) (b : Byte) (h : Memory.wf m = true) : Memory.wf (writeByte m a b) = true :=
  spSet_wf (n := 8) m a b h

theorem readByte_writeByte (m : Memory) (a k : Nat) (b : Byte) (h : Memory.wf m = true) :
    readByte (writeByte m a b) k = if k = a then b else readByte m k := spGet_spSet (n := 8) m a k b h

theorem writeLE_wf (n : Nat) : ∀ (m : Memory) (a v : Nat), Memory.wf m = true → Memory.wf (writeLE m a n v) = true := by
  induction n with
  | zero => intro m a v h; exact h
  | succ n ih => intro m a v h; exact ih _ _ _ (writeByte_wf m a _ h)

/-- A byte of memory after a little-endian write: its byte of the value, or the former one outside the bytes written. -/
theorem readByte_writeLE (n : Nat) : ∀ (m : Memory) (a v k : Nat), Memory.wf m = true →
    readByte (writeLE m a n v) k =
      if a ≤ k ∧ k < a + n then BitVec.ofNat 8 (v / 256 ^ (k - a)) else readByte m k := by
  induction n with
  | zero => intro m a v k _; simp only [writeLE]; rw [if_neg (by omega)]
  | succ n ih =>
    intro m a v k h
    simp only [writeLE]
    rw [ih _ _ _ _ (writeByte_wf m a _ h)]
    by_cases h1 : a + 1 ≤ k ∧ k < a + 1 + n
    · rw [if_pos h1, if_pos (by omega), Nat.div_div_eq_div_mul, show k - a = k - (a + 1) + 1 by omega, Nat.pow_succ,
        Nat.mul_comm]
    · rw [if_neg h1, readByte_writeByte m a k _ h]
      by_cases h2 : k = a
      · rw [if_pos h2, if_pos (by omega), h2]; simp
      · rw [if_neg h2, if_neg (by omega)]

/-- Outside the bytes written memory reads as before. -/
theorem readByte_writeLE_of_outside (m : Memory) (a n v k : Nat) (h : Memory.wf m = true) (hk : k < a ∨ a + n ≤ k) :
    readByte (writeLE m a n v) k = readByte m k := by
  rw [readByte_writeLE n m a v k h, if_neg (by omega)]

theorem readLE_congr (n : Nat) : ∀ (m m' : Memory) (a : Nat),
    (∀ k, a ≤ k → k < a + n → readByte m k = readByte m' k) → readLE m a n = readLE m' a n := by
  induction n with
  | zero => intros; rfl
  | succ n ih =>
    intro m m' a h
    simp only [readLE]
    rw [h a (by omega) (by omega), ih m m' (a + 1) fun k h1 h2 => h k (by omega) (by omega)]

/-- A read of the bytes just written gives the low bytes of the value. -/
theorem readLE_writeLE (n : Nat) : ∀ (m : Memory) (a v : Nat), Memory.wf m = true →
    readLE (writeLE m a n v) a n = v % 256 ^ n := by
  induction n with
  | zero => intro m a v _; simp [readLE, Nat.mod_one]
  | succ n ih =>
    intro m a v h
    have hw := writeByte_wf m a (BitVec.ofNat 8 v) h
    simp only [writeLE, readLE]
    rw [ih _ _ _ hw, readByte_writeLE_of_outside _ _ _ _ _ hw (by omega), readByte_writeByte m a a _ h, if_pos rfl,
      Nat.pow_succ, Nat.mul_comm (256 ^ n) 256, Nat.mod_mul]
    simp

theorem writeBytes_wf (l : List Byte) : ∀ (m : Memory) (a : Nat), Memory.wf m = true → Memory.wf (writeBytes m a l) = true := by
  induction l with
  | nil => intro m a h; exact h
  | cons b r ih => intro m a h; exact ih _ _ (writeByte_wf m a b h)

/-- A byte of memory after a write of a list of bytes. -/
theorem readByte_writeBytes (l : List Byte) : ∀ (m : Memory) (a k : Nat), Memory.wf m = true →
    readByte (writeBytes m a l) k = if a ≤ k ∧ k < a + l.length then l.getD (k - a) 0 else readByte m k := by
  induction l with
  | nil => intro m a k _; simp only [writeBytes, List.length_nil]; rw [if_neg (by omega)]
  | cons b r ih =>
    intro m a k h
    simp only [writeBytes, List.length_cons]
    rw [ih _ _ _ (writeByte_wf m a b h)]
    by_cases h1 : a + 1 ≤ k ∧ k < a + 1 + r.length
    · rw [if_pos h1, if_pos (by omega), show k - a = k - (a + 1) + 1 by omega, List.getD_cons_succ]
    · rw [if_neg h1, readByte_writeByte m a k _ h]
      by_cases h2 : k = a
      · rw [if_pos h2, if_pos (by omega), h2]; simp
      · rw [if_neg h2, if_neg (by omega)]

/-! ## Ranges -/

/-- An entry that the first part does not list is that of the second. -/
theorem spGet_append_right {n : Nat} (x y : Sparse n) (k : Nat) (h : ∀ c ∈ x, c.1 ≠ k) : spGet (x ++ y) k = spGet y k := by
  induction x with
  | nil => rfl
  | cons e r ih =>
    simp only [List.cons_append, spGet, if_neg (h e List.mem_cons_self)]
    exact ih fun c hc => h c (List.mem_cons_of_mem e hc)

/-- An entry that the second part does not list is that of the first. -/
theorem spGet_append_left {n : Nat} (x y : Sparse n) (k : Nat) (h : ∀ c ∈ y, c.1 ≠ k) : spGet (x ++ y) k = spGet x k := by
  induction x with
  | nil =>
    have := spGet_append_right y [] k h
    simpa using this
  | cons e r ih => simp only [List.cons_append, spGet, ih]

theorem append_wfFrom {n : Nat} (x y : Sparse n) (p : Nat) : ∀ b, b ≤ p → spWfFrom b x = true → (∀ c ∈ x, c.1 < p) →
    spWfFrom p y = true → spWfFrom b (x ++ y) = true := by
  induction x with
  | nil => intro b hb _ _ hy; exact spWfFrom_mono y b p hb hy
  | cons e r ih =>
    intro b _ hx hp hy
    simp only [List.cons_append, spWfFrom, Bool.and_eq_true, decide_eq_true_eq] at hx ⊢
    exact ⟨hx.1, ih (e.1 + 1) (hp e List.mem_cons_self) hx.2 (fun c hc => hp c (List.mem_cons_of_mem e hc)) hy⟩

theorem wfFrom_of_ge {n : Nat} (x : Sparse n) (p b : Nat) (h : spWfFrom b x = true) (hp : ∀ c ∈ x, p ≤ c.1) :
    spWfFrom p x = true := by
  cases x with
  | nil => rfl
  | cons e r =>
    simp only [spWfFrom, Bool.and_eq_true, decide_eq_true_eq] at h ⊢
    exact ⟨⟨hp e List.mem_cons_self, h.1.2⟩, h.2⟩

theorem shift_wfFrom {n : Nat} (a : Nat) (x : Sparse n) : ∀ b, spWfFrom b x = true →
    spWfFrom (a + b) (x.map fun c => (a + c.1, c.2)) = true := by
  induction x with
  | nil => intros; rfl
  | cons e r ih =>
    intro b h
    simp only [List.map_cons, spWfFrom, Bool.and_eq_true, decide_eq_true_eq] at h ⊢
    exact ⟨⟨by omega, h.1.2⟩, ih (e.1 + 1) h.2⟩

theorem unshift_wfFrom {n : Nat} (a : Nat) (x : Sparse n) : ∀ b, spWfFrom b x = true → (∀ c ∈ x, a ≤ c.1) →
    spWfFrom (b - a) (x.map fun c => (c.1 - a, c.2)) = true := by
  induction x with
  | nil => intros; rfl
  | cons e r ih =>
    intro b h hp
    have he := hp e List.mem_cons_self
    simp only [List.map_cons, spWfFrom, Bool.and_eq_true, decide_eq_true_eq] at h ⊢
    refine ⟨⟨by omega, h.1.2⟩, ?_⟩
    have := ih (e.1 + 1) h.2 fun c hc => hp c (List.mem_cons_of_mem e hc)
    rwa [show e.1 + 1 - a = e.1 - a + 1 by omega] at this

/-- A range cut out of a memory in canonical form has it. -/
theorem cutMem_wf (m : Memory) (a n : Nat) (h : Memory.wf m = true) : Memory.wf (cutMem m a n) = true := by
  have hf := filter_wfFrom (n := 8) (fun c => decide (a ≤ c.1 ∧ c.1 < a + n)) m 0 h
  have := unshift_wfFrom (n := 8) a _ 0 hf fun c hc => by
    have := (List.mem_filter.mp hc).2
    simp only [decide_eq_true_eq] at this
    exact this.1
  simpa [Memory.wf, spWf, cutMem] using this

/-- A range put into a memory in canonical form, from one that has it, keeps it. -/
theorem putMem_wf (m : Memory) (a n : Nat) (src : Memory) (h : Memory.wf m = true) (hs : Memory.wf src = true) :
    Memory.wf (putMem m a n src) = true := by
  have h1 := filter_wfFrom (n := 8) (fun c => decide (c.1 < a)) m 0 h
  have h2 := shift_wfFrom (n := 8) a _ 0 (filter_wfFrom (n := 8) (fun c => decide (c.1 < n)) src 0 hs)
  have h3 := wfFrom_of_ge (n := 8) _ (a + n) 0 (filter_wfFrom (n := 8) (fun c => decide (a + n ≤ c.1)) m 0 h) fun c hc => by
    simpa using (List.mem_filter.mp hc).2
  unfold putMem Memory.wf spWf
  rw [List.append_assoc]
  refine append_wfFrom (n := 8) _ _ a 0 (Nat.zero_le a) h1 (fun c hc => by simpa using (List.mem_filter.mp hc).2) ?_
  refine append_wfFrom (n := 8) _ _ (a + n) a (by omega) h2 (fun c hc => ?_) h3
  obtain ⟨k, hk, rfl⟩ := List.mem_map.mp hc
  have := (List.mem_filter.mp hk).2
  simp only [decide_eq_true_eq] at this ⊢
  omega

/-- A byte of a range cut out of a memory. -/
theorem readByte_cutMem (m : Memory) (a n k : Nat) :
    readByte (cutMem m a n) k = if k < n then readByte m (a + k) else 0 := by
  induction m with
  | nil => simp [cutMem, readByte]
  | cons e r ih =>
    simp only [readByte, cutMem] at ih ⊢
    rw [List.filter_cons]
    by_cases hk : a ≤ e.1 ∧ e.1 < a + n
    · rw [if_pos (by simpa using hk)]
      simp only [List.map_cons, spGet, ih]
      by_cases he : e.1 = a + k
      · rw [if_pos (by omega), if_pos (by omega), if_pos he]
      · rw [if_neg (by omega), if_neg he]
    · rw [if_neg (by simpa using hk), ih]
      by_cases hn : k < n
      · rw [if_pos hn, if_pos hn, spGet, if_neg (by omega)]
      · rw [if_neg hn, if_neg hn]

theorem spGet_filter_of_true {n : Nat} (p : Nat × BitVec n → Bool) (x : Sparse n) (k : Nat)
    (h : ∀ c ∈ x, c.1 = k → p c = true) : spGet (x.filter p) k = spGet x k := by
  induction x with
  | nil => rfl
  | cons e r ih =>
    have ih := ih fun c hc => h c (List.mem_cons_of_mem e hc)
    rw [List.filter_cons]
    by_cases he : e.1 = k
    · rw [if_pos (h e List.mem_cons_self he), spGet, spGet, if_pos he, if_pos he]
    · split
      · rw [spGet, spGet, if_neg he, if_neg he, ih]
      · rw [spGet, if_neg he, ih]

theorem spGet_shift {n : Nat} (a : Nat) (x : Sparse n) (k : Nat) :
    spGet (x.map fun c => (a + c.1, c.2)) (a + k) = spGet x k := by
  induction x with
  | nil => rfl
  | cons e r ih =>
    simp only [List.map_cons, spGet, ih]
    by_cases he : e.1 = k
    · rw [if_pos he, if_pos (by omega)]
    · rw [if_neg he, if_neg (by omega)]

/-- A byte of a memory into which a range was put: that of the range inside it, the former one outside. -/
theorem readByte_putMem (m : Memory) (a n : Nat) (src : Memory) (k : Nat) :
    readByte (putMem m a n src) k = if a ≤ k ∧ k < a + n then readByte src (k - a) else readByte m k := by
  have low : ∀ c ∈ m.filter (fun c => decide (c.1 < a)), c.1 < a := fun c hc => by simpa using (List.mem_filter.mp hc).2
  have high : ∀ c ∈ m.filter (fun c => decide (a + n ≤ c.1)), a + n ≤ c.1 := fun c hc => by
    simpa using (List.mem_filter.mp hc).2
  have mid : ∀ c ∈ (src.filter fun c => decide (c.1 < n)).map (fun c => (a + c.1, c.2)), a ≤ c.1 ∧ c.1 < a + n := fun c hc => by
    obtain ⟨e, he, rfl⟩ := List.mem_map.mp hc
    have := (List.mem_filter.mp he).2
    simp only [decide_eq_true_eq] at this ⊢
    omega
  unfold putMem readByte
  by_cases hk : a ≤ k ∧ k < a + n
  · rw [if_pos hk, spGet_append_left _ _ _ (fun c hc => by have := high c hc; omega),
      spGet_append_right _ _ _ (fun c hc => by have := low c hc; omega)]
    obtain ⟨j, rfl⟩ : ∃ j, k = a + j := ⟨k - a, by omega⟩
    rw [spGet_shift, show a + j - a = j by omega]
    exact spGet_filter_of_true (n := 8) _ _ _ fun c _ he => by simp only [decide_eq_true_eq]; omega
  · rw [if_neg hk]
    by_cases h1 : k < a
    · rw [spGet_append_left _ _ _ (fun c hc => by have := high c hc; omega),
        spGet_append_left _ _ _ (fun c hc => by have := mid c hc; omega)]
      exact spGet_filter_of_true (n := 8) _ _ _ fun c _ he => by simp only [decide_eq_true_eq]; omega
    · rw [spGet_append_right _ _ _ (fun c hc => ?_)]
      · exact spGet_filter_of_true (n := 8) _ _ _ fun c _ he => by simp only [decide_eq_true_eq]; omega
      · rcases List.mem_append.mp hc with h | h
        · have := low c h; omega
        · have := mid c h; omega

/-! ## Two canonical stores with equal entries are equal -/

theorem spWf_ext {n : Nat} (m : Sparse n) : ∀ (m' : Sparse n) (b : Nat), spWfFrom b m = true → spWfFrom b m' = true →
    (∀ a, spGet m a = spGet m' a) → m = m' := by
  induction m with
  | nil =>
    intro m' b _ h' h
    cases m' with
    | nil => rfl
    | cons e r =>
      simp only [spWfFrom, Bool.and_eq_true, decide_eq_true_eq] at h'
      have := h e.1
      simp only [spGet, if_true] at this
      exact absurd this.symm h'.1.2
  | cons e r ih =>
    obtain ⟨k, w⟩ := e
    intro m' b h h' heq
    simp only [spWfFrom, Bool.and_eq_true, decide_eq_true_eq] at h
    cases m' with
    | nil =>
      have := heq k
      simp only [spGet, if_true] at this
      exact absurd this h.1.2
    | cons e' r' =>
      obtain ⟨k', w'⟩ := e'
      simp only [spWfFrom, Bool.and_eq_true, decide_eq_true_eq] at h'
      have hk : k = k' := by
        rcases Nat.lt_trichotomy k k' with hlt | heq' | hgt
        · have := heq k
          simp only [spGet, if_true, if_neg (show k' ≠ k by omega)] at this
          rw [spGet_below r' (k' + 1) k h'.2 (by omega)] at this
          exact absurd this h.1.2
        · exact heq'
        · have := heq k'
          simp only [spGet, if_true, if_neg (show k ≠ k' by omega)] at this
          rw [spGet_below r (k + 1) k' h.2 (by omega)] at this
          exact absurd this.symm h'.1.2
      subst hk
      have hw : w = w' := by simpa [spGet] using heq k
      subst hw
      rw [ih r' (k + 1) h.2 h'.2 fun a => ?_]
      by_cases ha : a = k
      · rw [ha, spGet_below r (k + 1) k h.2 (by omega), spGet_below r' (k + 1) k h'.2 (by omega)]
      · have := heq a
        simpa [spGet, Ne.symm ha] using this

/-- Equal memories are equal data: two canonical memories that read alike are the same list. -/
theorem memory_ext (m m' : Memory) (h : Memory.wf m = true) (h' : Memory.wf m' = true)
    (heq : ∀ a, readByte m a = readByte m' a) : m = m' := spWf_ext (n := 8) m m' 0 h h' heq

end Sys2Proof.Machine
end

