-- ==== Sys2Proof/Laws/Canonical.lean ====
section
/-! SUPPORT. The canonical form of the device's memories and of a core's stores: the state right after reset has it, and
the operations that write at a home keep it. -/

namespace Sys2Proof.Machine

/-! ## Reset -/

theorem reset_hbm_wf : Memory.wf State.reset.dev.hbm = true := rfl

theorem reset_sbm_wf : Memory.wf State.reset.dev.sbm = true := rfl

theorem reset_host_wf : Memory.wf State.reset.dev.host = true := rfl

theorem reset_peer_wf : Memory.wf State.reset.dev.peer = true := rfl

/-! ## The device -/

@[simp] theorem Device.modCtx_canonical (d : Device) (id : Nat) (f : Ctx → Ctx) :
    (d.modCtx id f).canonical ↔ d.canonical := Iff.rfl

theorem releaseHeld_wf (ws : List HeldWrite) : ∀ m : Memory, Memory.wf m = true → Memory.wf (releaseHeld m ws) = true := by
  induction ws with
  | nil => intro m h; exact h
  | cons w r ih => intro m h; exact ih _ (writeLE_wf w.size m w.addr w.value h)

theorem Device.storeBlocks_canonical (d : Device) (a n : Nat) (z : Bool) (h : d.canonical) :
    (d.storeBlocks a n z).canonical := by
  unfold Device.storeBlocks
  generalize List.range ((a + n - 1) / 256 - a / 256 + 1) = l
  induction l generalizing d with
  | nil => exact h
  | cons i r ih =>
    refine ih _ ?_
    obtain ⟨h1, h2, h3, h4, h5, h6, h7⟩ := h
    exact ⟨h1, h2, h3, h4, spSet_wf _ _ _ h5, h6, h7⟩

theorem Device.canonical_hbm (d : Device) (m : Memory) (h : d.canonical) (hm : Memory.wf m = true) :
    Device.canonical { d with hbm := m } := ⟨hm, h.2⟩

theorem Device.canonical_sbm (d : Device) (m : Memory) (h : d.canonical) (hm : Memory.wf m = true) :
    Device.canonical { d with sbm := m } := ⟨h.1, hm, h.2.2⟩

theorem Device.canonical_host (d : Device) (m : Memory) (h : d.canonical) (hm : Memory.wf m = true) :
    Device.canonical { d with host := m } := ⟨h.1, h.2.1, hm, h.2.2.2⟩

theorem Device.canonical_peer (d : Device) (m : Memory) (h : d.canonical) (hm : Memory.wf m = true) :
    Device.canonical { d with peer := m } := ⟨h.1, h.2.1, h.2.2.1, hm, h.2.2.2.2⟩

theorem Device.unprotect_canonical (d : Device) (ctx : Nat) (h : d.canonical) : (d.unprotect ctx).canonical := by
  unfold Device.unprotect
  split
  · exact h
  · obtain ⟨h1, h2, h3, h4⟩ := h
    exact ⟨h1, h2, releaseHeld_wf _ _ h3, h4⟩

theorem Device.hostWrite_canonical (d : Device) (ctx a n v : Nat) (h : d.canonical) :
    (d.hostWrite ctx a n v).canonical := by
  unfold Device.hostWrite
  split
  · split
    · exact Device.canonical_host _ _ h (writeLE_wf n d.host a v h.2.2.1)
    · split
      · have hu := Device.unprotect_canonical d ctx h
        exact Device.canonical_host _ _ hu (writeLE_wf n _ a v hu.2.2.1)
      · exact h
  · exact Device.canonical_host _ _ h (writeLE_wf n d.host a v h.2.2.1)

theorem State.logPeer_dev_canonical (s : State) (ctx a : Nat) (h : s.dev.canonical) : (s.logPeer ctx a).dev.canonical := by
  simp only [State.logPeer]
  split
  · split <;> exact h
  · exact h

theorem State.logLine_dev_canonical (s : State) (ctx : Nat) (x : Home) (h : s.dev.canonical) :
    (s.logLine ctx x).dev.canonical := by
  unfold State.logLine
  split
  · exact State.logPeer_dev_canonical s ctx _ h
  · split
    · split
      · exact h
      · split
        · exact Device.unprotect_canonical _ _ h
        · exact h
    · exact h

theorem State.logLines_dev_canonical (s : State) (ctx : Nat) (x : Home) (n : Nat) (h : s.dev.canonical) :
    (s.logLines ctx x n).dev.canonical := by
  unfold State.logLines
  generalize List.range ((n + 126) / 64) = l
  induction l generalizing s with
  | nil => exact h
  | cons i r ih => exact ih _ (State.logLine_dev_canonical _ _ _ h)

theorem State.modCore_dev (s : State) (id : CoreId) (f : Core → Core) : (s.modCore id f).dev = s.dev := by
  unfold State.modCore
  split <;> rfl

theorem State.pokeHome_dev_canonical (s : State) (x : Home) (n v : Nat) (h : s.dev.canonical) :
    (s.pokeHome x n v).dev.canonical := by
  cases x with
  | spad c off => simp only [State.pokeHome, State.modCore_dev]; exact h
  | hbm a z =>
    exact Device.storeBlocks_canonical _ _ _ _ (Device.canonical_hbm _ _ h (writeLE_wf n s.dev.hbm a v h.1))
  | metadata b => exact h
  | sbm a => exact Device.canonical_sbm _ _ h (writeLE_wf n s.dev.sbm a v h.2.1)
  | host a => exact Device.canonical_host _ _ h (writeLE_wf n s.dev.host a v h.2.2.1)
  | peer a => exact Device.canonical_peer _ _ h (writeLE_wf n s.dev.peer a v h.2.2.2.1)

/-- A range put at a home from a memory in canonical form keeps the memories of the device canonical. -/
theorem Device.put_canonical (d : Device) (x : Home) (n : Nat) (src : Memory) (h : d.canonical) (hs : Memory.wf src = true) :
    (d.put x n src).canonical := by
  cases x with
  | spad c off => exact h
  | hbm a z => exact Device.storeBlocks_canonical _ _ _ _ (Device.canonical_hbm _ _ h (putMem_wf d.hbm a n src h.1 hs))
  | metadata b => exact h
  | sbm a => exact Device.canonical_sbm _ _ h (putMem_wf d.sbm a n src h.2.1 hs)
  | host a => exact Device.canonical_host _ _ h (putMem_wf d.host a n src h.2.2.1 hs)
  | peer a => exact Device.canonical_peer _ _ h (putMem_wf d.peer a n src h.2.2.2.1 hs)

/-- A write of a context at a home keeps the memories of the device canonical. -/
theorem State.writeHome_dev_canonical (s : State) (ctx : Nat) (x : Home) (n v : Nat) (h : s.dev.canonical) :
    (s.writeHome ctx x n v).dev.canonical := by
  cases x with
  | host a => exact Device.hostWrite_canonical _ _ _ _ _ h
  | _ => exact State.pokeHome_dev_canonical _ _ _ _ (State.logLines_dev_canonical _ _ _ _ h)

/-! ## The cores -/

/-- Every core after a change of one: it is a core from before, or the change of the one that had the coordinate. -/
theorem State.mem_cores_modCore {s : State} {id : CoreId} {f : Core → Core} {c : Core} (h : c ∈ (s.modCore id f).cores) :
    c ∈ s.cores ∨ ∃ k ∈ s.cores, k.id = id ∧ c = f k := by
  unfold State.modCore at h
  split at h
  · rename_i hid
    simp only [State.cores, List.mem_append, List.mem_cons] at h ⊢
    rcases h with h | h | h
    · exact .inl (.inl h)
    · exact .inr ⟨s.core, .inr (.inl rfl), hid, h⟩
    · exact .inl (.inr (.inr h))
  · have key : ∀ k : Core, (if k.id = id then f k else k) = k ∨ (k.id = id ∧ (if k.id = id then f k else k) = f k) := by
      intro k
      split
      · exact .inr ⟨‹_›, rfl⟩
      · exact .inl rfl
    simp only [State.cores, List.mem_append, List.mem_cons, List.mem_map] at h ⊢
    rcases h with ⟨k, hk, he⟩ | h | ⟨k, hk, he⟩
    · rcases key k with h1 | ⟨h1, h2⟩
      · exact .inl (.inl ((h1.symm.trans he) ▸ hk))
      · exact .inr ⟨k, .inl hk, h1, he ▸ h2⟩
    · exact .inl (.inr (.inl h))
    · rcases key k with h1 | ⟨h1, h2⟩
      · exact .inl (.inr (.inr ((h1.symm.trans he) ▸ hk)))
      · exact .inr ⟨k, .inr (.inr hk), h1, he ▸ h2⟩

/-- A change of one core that keeps its stores canonical keeps those of every core. -/
theorem State.modCore_canonical (s : State) (id : CoreId) (f : Core → Core) (h : s.coresCanonical)
    (hf : ∀ c : Core, c.canonical → (f c).canonical) : (s.modCore id f).coresCanonical := by
  refine ⟨fun c hc => ?_, ?_⟩
  · rw [State.modCore_dev, List.mem_cons] at hc
    rcases hc with rfl | hc
    · exact h.1 _ (List.mem_cons_self ..)
    · rcases State.mem_cores_modCore hc with h1 | ⟨k, hk, _, rfl⟩
      · exact h.1 c (List.mem_cons_of_mem _ h1)
      · exact hf k (h.1 k (List.mem_cons_of_mem _ hk))
  · rw [State.modCore_dev]; exact h.2

/-- A write into a scratchpad keeps the stores of its core canonical. -/
theorem Core.spad_canonical (c : Core) (off n v : Nat) (h : c.canonical) :
    Core.canonical { c with mem := { c.mem with spad := writeLE c.mem.spad off n v } } :=
  ⟨writeLE_wf n c.mem.spad off v h.1, h.2⟩

end Sys2Proof.Machine
end

