-- ==== Sys2Proof/Laws/Num.lean ====
section
/-! SUPPORT. What the correctly rounded functions of 07 R212 and R213 compute with: the integer root, the numbers that stand for 1/x and
1/√x, and the scale of VSCALEB. -/

namespace Sys2Proof.Machine

/-! ## The integer root -/

theorem isqrtFrom_spec (n : Nat) : ∀ i r : Nat, r * r ≤ n → n < (r + 2 ^ i) * (r + 2 ^ i) →
    isqrtFrom n i r * isqrtFrom n i r ≤ n ∧ n < (isqrtFrom n i r + 1) * (isqrtFrom n i r + 1)
  | 0, r, h, g => ⟨h, by simpa [isqrtFrom] using g⟩
  | i + 1, r, h, g => by
    have e : r + 2 ^ (i + 1) = r + 2 ^ i + 2 ^ i := by rw [Nat.pow_succ]; omega
    unfold isqrtFrom
    split
    · exact isqrtFrom_spec n i _ (by assumption) (by rw [e] at g; exact g)
    · exact isqrtFrom_spec n i r h (by omega)

/-- `isqrt n` is the root of `n`, rounded down. -/
theorem isqrt_spec (n : Nat) : isqrt n * isqrt n ≤ n ∧ n < (isqrt n + 1) * (isqrt n + 1) := by
  apply isqrtFrom_spec n _ 0 (Nat.zero_le _)
  have h : n < 2 ^ (Nat.log2 n + 1) := Nat.lt_log2_self
  calc n < 2 ^ (Nat.log2 n + 1) := h
    _ ≤ 2 ^ ((Nat.log2 n / 2 + 1) + (Nat.log2 n / 2 + 1)) := Nat.pow_le_pow_right (by omega) (by omega)
    _ = (0 + 2 ^ (Nat.log2 n / 2 + 1)) * (0 + 2 ^ (Nat.log2 n / 2 + 1)) := by rw [Nat.pow_add]; simp

/-! ## 1/x and 1/√x -/

/-- The number that stands for 1/x: at least 64 bits of it, and one below them that is set exactly when bits are left out. -/
theorem recip_spec (neg : Bool) (m : Nat) (e : Int) (hm : m ≠ 0) :
    ∃ (v k : Nat) (more : Bool), recip neg m e = .fin neg (2 * v + if more then 1 else 0) (-e - k - 1) ∧ 2 ^ 63 ≤ v ∧
      v * m ≤ 2 ^ k ∧ 2 ^ k < (v + 1) * m ∧ (more = true ↔ v * m < 2 ^ k) := by
  have hp := Nat.pos_of_ne_zero hm
  have hv : 2 ^ 63 ≤ 2 ^ (Nat.log2 m + 64) / m := by
    rw [Nat.le_div_iff_mul_le hp]
    calc 2 ^ 63 * m ≤ 2 ^ 63 * 2 ^ (Nat.log2 m + 1) := Nat.mul_le_mul_left _ Nat.lt_log2_self.le
      _ = 2 ^ (Nat.log2 m + 64) := by rw [← Nat.pow_add]; congr 1; omega
  have split : ∀ n : Nat, n / m * m ≤ n ∧ n < (n / m + 1) * m ∧ (n % m ≠ 0 ↔ n / m * m < n) := by
    intro n
    have h1 := Nat.div_add_mod n m
    have h2 := Nat.mod_lt n hp
    rw [Nat.mul_comm] at h1
    rw [Nat.add_mul]
    omega
  obtain ⟨h1, h2, h3⟩ := split (2 ^ (Nat.log2 m + 64))
  refine ⟨_, Nat.log2 m + 64, decide (2 ^ (Nat.log2 m + 64) % m ≠ 0), ?_, hv, h1, h2, by simpa using h3⟩
  unfold recip sticky
  by_cases h : 2 ^ (Nat.log2 m + 64) % m = 0 <;> simp [h]

/-- The number that stands for 1/√x, in the same way. -/
theorem rsqrt_spec (m : Nat) (e : Int) (hm : m ≠ 0) :
    ∃ (v i j : Nat) (q : Int) (more : Bool), rsqrt m e = .fin false (2 * v + if more then 1 else 0) (q - 1) ∧ 2 ^ 63 ≤ v ∧
      (j : Int) - i = e + 2 * q ∧ v * v * m * 2 ^ j ≤ 2 ^ i ∧ 2 ^ i < (v + 1) * (v + 1) * m * 2 ^ j ∧
      (more = true ↔ v * v * m * 2 ^ j < 2 ^ i) := by
  have key : ∀ m' : Nat, m' ≠ 0 →
      let k := Nat.log2 m' + 128
      let k2 := k + k % 2
      let r := isqrt (2 ^ (2 * k2) / m')
      2 ^ 63 ≤ r ∧ r * r * m' ≤ 2 ^ (2 * k2) ∧ 2 ^ (2 * k2) < (r + 1) * (r + 1) * m' := by
    intro m' hm' k k2 r
    have hp := Nat.pos_of_ne_zero hm'
    obtain ⟨h1, h2⟩ := isqrt_spec (2 ^ (2 * k2) / m')
    have hlt : m' < 2 ^ (Nat.log2 m' + 1) := Nat.lt_log2_self
    refine ⟨?_, ?_, ?_⟩
    · by_contra hr
      have hr1 : r + 1 ≤ 2 ^ 63 := by omega
      have hb : 2 ^ (2 * k2) / m' < 2 ^ 63 * 2 ^ 63 := lt_of_lt_of_le h2 (Nat.mul_le_mul hr1 hr1)
      rw [Nat.div_lt_iff_lt_mul hp] at hb
      have : 2 ^ 63 * 2 ^ 63 * m' ≤ 2 ^ (2 * k2) := by
        calc 2 ^ 63 * 2 ^ 63 * m' ≤ 2 ^ 63 * 2 ^ 63 * 2 ^ (Nat.log2 m' + 1) := Nat.mul_le_mul_left _ hlt.le
          _ = 2 ^ (63 + 63 + (Nat.log2 m' + 1)) := by rw [Nat.pow_add 2 (63 + 63), Nat.pow_add 2 63 63]
          _ ≤ 2 ^ (2 * k2) := Nat.pow_le_pow_right (by omega) (by omega)
      omega
    · exact (Nat.le_div_iff_mul_le hp).1 h1
    · exact (Nat.div_lt_iff_lt_mul hp).1 h2
  by_cases he : e % 2 = 0
  · obtain ⟨h1, h2, h3⟩ := key m hm
    refine ⟨_, 2 * (Nat.log2 m + 128 + (Nat.log2 m + 128) % 2), 0, -(e / 2) - ((Nat.log2 m + 128 + (Nat.log2 m + 128) % 2 : Nat) : Int),
      !decide (isqrt (2 ^ (2 * (Nat.log2 m + 128 + (Nat.log2 m + 128) % 2)) / m) *
        isqrt (2 ^ (2 * (Nat.log2 m + 128 + (Nat.log2 m + 128) % 2)) / m) * m = 2 ^ (2 * (Nat.log2 m + 128 + (Nat.log2 m + 128) % 2))),
      ?_, h1, by omega, by simpa using h2, by simpa using h3, ?_⟩
    · unfold rsqrt sticky
      simp only [he, if_true]
      split <;> simp_all
    · simp only [Bool.not_eq_true', decide_eq_false_iff_not, Nat.pow_zero, Nat.mul_one]
      exact ⟨fun h => lt_of_le_of_ne h2 h, fun h => h.ne⟩
  · obtain ⟨h1, h2, h3⟩ := key (2 * m) (by omega)
    refine ⟨_, 2 * (Nat.log2 (2 * m) + 128 + (Nat.log2 (2 * m) + 128) % 2), 1,
      -((e - 1) / 2) - ((Nat.log2 (2 * m) + 128 + (Nat.log2 (2 * m) + 128) % 2 : Nat) : Int),
      !decide (isqrt (2 ^ (2 * (Nat.log2 (2 * m) + 128 + (Nat.log2 (2 * m) + 128) % 2)) / (2 * m)) *
        isqrt (2 ^ (2 * (Nat.log2 (2 * m) + 128 + (Nat.log2 (2 * m) + 128) % 2)) / (2 * m)) * (2 * m) =
          2 ^ (2 * (Nat.log2 (2 * m) + 128 + (Nat.log2 (2 * m) + 128) % 2))),
      ?_, h1, by omega, ?_, ?_, ?_⟩
    · unfold rsqrt sticky
      simp only [he, if_false]
      split <;> simp_all
    · rw [Nat.mul_assoc, Nat.pow_one, Nat.mul_comm m 2]; exact h2
    · rw [Nat.mul_assoc, Nat.pow_one, Nat.mul_comm m 2]; exact h3
    · rw [Nat.pow_one, Nat.mul_assoc (_ * _) m 2, Nat.mul_comm m 2]
      simp only [Bool.not_eq_true', decide_eq_false_iff_not]
      exact ⟨fun h => lt_of_le_of_ne h2 h, fun h => h.ne⟩

/-! ## The scale of VSCALEB -/

/-- The numbers of FP32: less than 25 bits, at one of its quanta. -/
theorem decodeFp_f32_fin {c : Nat} {neg : Bool} {m : Nat} {e : Int} (h : decodeFp .f32 c = .fin neg m e) :
    m < 2 ^ 24 ∧ -149 ≤ e ∧ e ≤ 104 := by
  have hf : c % 2 ^ 23 < 2 ^ 23 := Nat.mod_lt _ (by decide)
  have hx : c / 2 ^ 23 % 2 ^ 8 < 2 ^ 8 := Nat.mod_lt _ (by decide)
  simp only [decodeFp, decodeIeee] at h
  split at h
  · split at h <;> cases h
  · rename_i hs
    split at h
    · cases h; omega
    · cases h
      simp only [Bool.true_and, decide_eq_true_eq] at hs
      omega

/-- The order of two magnitudes is strict. -/
theorem magLt_asymm {m n : Nat} {e f : Int} (h : magLt m e n f = true) : magLt n f m e = false := by
  simp only [magLt, decide_eq_true_eq, decide_eq_false_iff_not, Int.min_comm f e] at *
  omega

/-- A magnitude of less than 25 bits at an FP32 exponent lies far below any at one of 828 or more. -/
theorem magLt_far {y n : Nat} {k x : Int} (hy : y < 2 ^ 25) (hn : n ≠ 0) (hk : k ≤ 104) (hx : 828 ≤ x) : magLt y k n x = true := by
  have e1 : (k - min k x).toNat = 0 := by omega
  obtain ⟨d, e2⟩ : ∃ d, (x - min k x).toNat = 724 + d := ⟨(x - min k x).toNat - 724, by omega⟩
  simp only [magLt, e1, e2, Nat.pow_zero, Nat.mul_one, decide_eq_true_eq]
  have : 2 ^ 25 ≤ 2 ^ (724 + d) := Nat.pow_le_pow_right (by omega) (by omega)
  calc y < 2 ^ (724 + d) := by omega
    _ ≤ n * 2 ^ (724 + d) := Nat.le_mul_of_pos_left _ (Nat.pos_of_ne_zero hn)

/-- The leading bit of a number of FP32. -/
theorem log2_lt_24 {m : Nat} (h0 : m ≠ 0) (hm : m < 2 ^ 24) : Nat.log2 m < 24 := (Nat.log2_lt h0).2 hm

/-- Far above FP32 every exponent rounds alike. -/
theorem roundFp_f32_above {mode : Mode1} {neg : Bool} {m : Nat} {e : Int} (h0 : m ≠ 0) (hm : m < 2 ^ 24) (he : 851 ≤ e) :
    roundFp .f32 mode (.fin neg m e) =
      (if overflows gF32 mode neg 1 851 then packInf .f32 neg else packFin .f32 neg gF32.maxM gF32.maxE, fNX ||| fOF) := by
  have hl := log2_lt_24 h0 hm
  have top : magLt gF32.maxM gF32.maxE m e = true := magLt_far (by decide) h0 (by decide) (by omega)
  have ovf : overflows gF32 mode neg m e = overflows gF32 mode neg 1 851 := by
    have h : ∀ (n : Nat) (x : Int), n ≠ 0 → 828 ≤ x → magLt n x (gF32.maxM + gF32.nextM) (gF32.maxE - 1) = false :=
      fun n x hn hx => magLt_asymm (magLt_far (by decide) hn (by decide) hx)
    cases mode <;> simp only [overflows, h m e h0 (by omega), h 1 851 (by decide) (by decide)]
  have past : beyond gF32 mode neg m e = true := by
    have hq : gF32.unbounded (floorLog m e) ≤ e := by simp only [gF32, ieeeGrid, floorLog]; omega
    have hq' : 828 ≤ gF32.unbounded (floorLog m e) := by simp only [gF32, ieeeGrid, floorLog]; omega
    simp only [beyond, top, Bool.true_and, roundOn, if_pos hq]
    exact magLt_far (by decide) (Nat.mul_ne_zero h0 (by positivity)) (by decide) hq'
  simp only [roundFp, encodeFp, gridOf, if_neg h0, roundMag, top, if_true, ovf, past]
  split <;> rfl

/-- Far below FP32 every exponent rounds alike. -/
theorem roundFp_f32_below {mode : Mode1} {neg : Bool} {m : Nat} {e : Int} (h0 : m ≠ 0) (hm : m < 2 ^ 24) (he : e ≤ -896)
    (hs : ∀ u n, mode ≠ .sr u n) :
    roundFp .f32 mode (.fin neg m e) =
      (packFin .f32 neg (if (mode = .rup ∧ neg = false) ∨ (mode = .rdn ∧ neg = true) then 1 else 0) (-149), fNX ||| fUF) := by
  have hl := log2_lt_24 h0 hm
  have small : ∀ {n : Nat} {k : Int} {y : Nat} {x : Int}, n < 2 ^ 24 → k ≤ -872 → y ≠ 0 → -149 ≤ x → magLt n k y x = true := by
    intro n k y x hn hk hy hx
    have e1 : (k - min k x).toNat = 0 := by omega
    obtain ⟨d, e2⟩ : ∃ d, (x - min k x).toNat = 723 + d := ⟨(x - min k x).toNat - 723, by omega⟩
    simp only [magLt, e1, e2, Nat.pow_zero, Nat.mul_one, decide_eq_true_eq]
    have : 2 ^ 24 ≤ 2 ^ (723 + d) := Nat.pow_le_pow_right (by omega) (by omega)
    calc n < 2 ^ (723 + d) := by omega
      _ ≤ y * 2 ^ (723 + d) := Nat.le_mul_of_pos_left _ (Nat.pos_of_ne_zero hy)
  have top : magLt gF32.maxM gF32.maxE m e = false := magLt_asymm (small hm (by omega) (by decide) (by decide))
  have hq : gF32.quantum (floorLog m e) = -149 := by simp only [gF32, ieeeGrid, floorLog]; omega
  have hu : gF32.unbounded (floorLog m e) ≤ e := by simp only [gF32, ieeeGrid, floorLog]; omega
  have hu' : gF32.unbounded (floorLog m e) = (Nat.log2 m : Int) + e - 23 := rfl
  have n0 : m * 2 ^ (e - gF32.unbounded (floorLog m e)).toNat ≠ 0 := Nat.mul_ne_zero h0 (by positivity)
  have nb : m * 2 ^ (e - gF32.unbounded (floorLog m e)).toNat < 2 ^ 24 := by
    have : (e - gF32.unbounded (floorLog m e)).toNat = 23 - Nat.log2 m := by omega
    rw [this]
    calc m * 2 ^ (23 - Nat.log2 m) < 2 ^ (Nat.log2 m + 1) * 2 ^ (23 - Nat.log2 m) :=
          Nat.mul_lt_mul_of_pos_right Nat.lt_log2_self (by positivity)
      _ = 2 ^ 24 := by rw [← Nat.pow_add]; congr 1; omega
  have hk : ∃ d, (-149 - e).toNat = 747 + d := ⟨(-149 - e).toNat - 747, by omega⟩
  obtain ⟨d, hk⟩ := hk
  have big : 2 ^ 25 ≤ 2 ^ (747 + d) := Nat.pow_le_pow_right (by omega) (by omega)
  have near : roundOn mode neg m e (-149) = (if (mode = .rup ∧ neg = false) ∨ (mode = .rdn ∧ neg = true) then 1 else 0, true) := by
    have hd : m / 2 ^ (747 + d) = 0 := Nat.div_eq_of_lt (by omega)
    have hr : m % 2 ^ (747 + d) = m := Nat.mod_eq_of_lt (by omega)
    have hn : ¬(-149 : Int) ≤ e := by omega
    have h1 : ¬2 ^ (747 + d) < 2 * m := by omega
    have h2 : ¬2 * m = 2 ^ (747 + d) := by omega
    simp only [roundOn, if_neg hn, hk, hd, hr]
    cases mode with
    | sr u n => exact absurd rfl (hs u n)
    | _ => cases neg <;> simp [roundsUp, h0, h1, h2]
  have past : beyond gF32 mode neg m e = false := by simp only [beyond, top, Bool.false_and]
  have tiny : magLt (m * 2 ^ (e - gF32.unbounded (floorLog m e)).toNat) (gF32.unbounded (floorLog m e)) 1 gF32.emin = true :=
    small nb (by omega) (by decide) (by decide)
  have wide : (roundOn mode neg m e (gF32.unbounded (floorLog m e))) = (m * 2 ^ (e - gF32.unbounded (floorLog m e)).toNat, false) := by
    simp only [roundOn, if_pos hu]
  simp only [roundFp, encodeFp, gridOf, if_neg h0, roundMag, top, Bool.false_eq_true, if_false, hq, near, wide, past, tiny, decide_eq_true n0]
  rfl

/-- The rounding of x · 2^n does not change where n goes beyond ±1,000 (04 R137). -/
theorem roundFp_f32_scale {mode : Mode1} {neg : Bool} {m : Nat} {e n : Int} (h0 : m ≠ 0) (hm : m < 2 ^ 24) (h1 : -149 ≤ e) (h2 : e ≤ 104)
    (hs : ∀ u k, mode ≠ .sr u k) :
    roundFp .f32 mode (.fin neg m (e + max (-1000) (min 1000 n))) = roundFp .f32 mode (.fin neg m (e + n)) := by
  rcases lt_trichotomy n (-1000) with h | h | h
  · rw [roundFp_f32_below h0 hm (by omega) hs, roundFp_f32_below h0 hm (by omega) hs]
  · subst h; rfl
  · by_cases g : n ≤ 1000
    · congr 2; omega
    · rw [roundFp_f32_above h0 hm (by omega), roundFp_f32_above h0 hm (by omega)]

end Sys2Proof.Machine
end

