-- ==== Sys2Proof/Laws/State.lean ====
section
/-! SUPPORT. One lemma per field per update: what the named updates of the state and of a core write and leave. -/

namespace Sys2Proof.Machine

/-! ## State.modFocus and State.modDev -/

@[simp] theorem State.modFocus_core (s : State) (f : Core → Core) : (s.modFocus f).core = f s.core := rfl
@[simp] theorem State.modFocus_left (s : State) (f : Core → Core) : (s.modFocus f).left = s.left := rfl
@[simp] theorem State.modFocus_right (s : State) (f : Core → Core) : (s.modFocus f).right = s.right := rfl
@[simp] theorem State.modFocus_dev (s : State) (f : Core → Core) : (s.modFocus f).dev = s.dev := rfl
@[simp] theorem State.modDev_dev (s : State) (f : Device → Device) : (s.modDev f).dev = f s.dev := rfl
@[simp] theorem State.modDev_left (s : State) (f : Device → Device) : (s.modDev f).left = s.left := rfl
@[simp] theorem State.modDev_right (s : State) (f : Device → Device) : (s.modDev f).right = s.right := rfl
@[simp] theorem State.modDev_core (s : State) (f : Device → Device) : (s.modDev f).core = s.core := rfl

/-! ## State.modCtx, State.modCsr, State.modMx, State.modRow -/

@[simp] theorem State.modCtx_dev (s : State) (n : Nat) (f : Ctx → Ctx) : (s.modCtx n f).dev = s.dev.modCtx n f := rfl
@[simp] theorem State.modCtx_left (s : State) (n : Nat) (f : Ctx → Ctx) : (s.modCtx n f).left = s.left := rfl
@[simp] theorem State.modCtx_right (s : State) (n : Nat) (f : Ctx → Ctx) : (s.modCtx n f).right = s.right := rfl
@[simp] theorem State.modCtx_core (s : State) (n : Nat) (f : Ctx → Ctx) : (s.modCtx n f).core = s.core := rfl
@[simp] theorem State.modCsr_csr (s : State) (f : CoreCsr → CoreCsr) : (s.modCsr f).core.csr = f s.core.csr := rfl
@[simp] theorem State.modCsr_id (s : State) (f : CoreCsr → CoreCsr) : (s.modCsr f).core.id = s.core.id := rfl
@[simp] theorem State.modCsr_enabled (s : State) (f : CoreCsr → CoreCsr) : (s.modCsr f).core.enabled = s.core.enabled := rfl
@[simp] theorem State.modCsr_capmask (s : State) (f : CoreCsr → CoreCsr) : (s.modCsr f).core.capmask = s.core.capmask := rfl
@[simp] theorem State.modCsr_resident (s : State) (f : CoreCsr → CoreCsr) : (s.modCsr f).core.resident = s.core.resident := rfl
@[simp] theorem State.modCsr_relay (s : State) (f : CoreCsr → CoreCsr) : (s.modCsr f).core.relay = s.core.relay := rfl
@[simp] theorem State.modCsr_bound (s : State) (f : CoreCsr → CoreCsr) : (s.modCsr f).core.bound = s.core.bound := rfl
@[simp] theorem State.modCsr_regs (s : State) (f : CoreCsr → CoreCsr) : (s.modCsr f).core.regs = s.core.regs := rfl
@[simp] theorem State.modCsr_vec (s : State) (f : CoreCsr → CoreCsr) : (s.modCsr f).core.vec = s.core.vec := rfl
@[simp] theorem State.modCsr_tiles (s : State) (f : CoreCsr → CoreCsr) : (s.modCsr f).core.tiles = s.core.tiles := rfl
@[simp] theorem State.modCsr_ec (s : State) (f : CoreCsr → CoreCsr) : (s.modCsr f).core.ec = s.core.ec := rfl
@[simp] theorem State.modCsr_ea (s : State) (f : CoreCsr → CoreCsr) : (s.modCsr f).core.ea = s.core.ea := rfl
@[simp] theorem State.modCsr_ev (s : State) (f : CoreCsr → CoreCsr) : (s.modCsr f).core.ev = s.core.ev := rfl
@[simp] theorem State.modCsr_em (s : State) (f : CoreCsr → CoreCsr) : (s.modCsr f).core.em = s.core.em := rfl
@[simp] theorem State.modCsr_ex (s : State) (f : CoreCsr → CoreCsr) : (s.modCsr f).core.ex = s.core.ex := rfl
@[simp] theorem State.modCsr_ctl (s : State) (f : CoreCsr → CoreCsr) : (s.modCsr f).core.ctl = s.core.ctl := rfl
@[simp] theorem State.modCsr_doms (s : State) (f : CoreCsr → CoreCsr) : (s.modCsr f).core.doms = s.core.doms := rfl
@[simp] theorem State.modCsr_mem (s : State) (f : CoreCsr → CoreCsr) : (s.modCsr f).core.mem = s.core.mem := rfl
@[simp] theorem State.modCsr_mx (s : State) (f : CoreCsr → CoreCsr) : (s.modCsr f).core.mx = s.core.mx := rfl
@[simp] theorem State.modCsr_xc (s : State) (f : CoreCsr → CoreCsr) : (s.modCsr f).core.xc = s.core.xc := rfl
@[simp] theorem State.modCsr_flt (s : State) (f : CoreCsr → CoreCsr) : (s.modCsr f).core.flt = s.core.flt := rfl
@[simp] theorem State.modCsr_accesses (s : State) (f : CoreCsr → CoreCsr) : (s.modCsr f).core.accesses = s.core.accesses := rfl
@[simp] theorem State.modCsr_arrivals (s : State) (f : CoreCsr → CoreCsr) : (s.modCsr f).core.arrivals = s.core.arrivals := rfl
@[simp] theorem State.modCsr_aHalt (s : State) (f : CoreCsr → CoreCsr) : (s.modCsr f).core.aHalt = s.core.aHalt := rfl
@[simp] theorem State.modCsr_xHalt (s : State) (f : CoreCsr → CoreCsr) : (s.modCsr f).core.xHalt = s.core.xHalt := rfl
@[simp] theorem State.modCsr_tlbC (s : State) (f : CoreCsr → CoreCsr) : (s.modCsr f).core.tlbC = s.core.tlbC := rfl
@[simp] theorem State.modCsr_tlbA (s : State) (f : CoreCsr → CoreCsr) : (s.modCsr f).core.tlbA = s.core.tlbA := rfl
@[simp] theorem State.modCsr_tlbX (s : State) (f : CoreCsr → CoreCsr) : (s.modCsr f).core.tlbX = s.core.tlbX := rfl
@[simp] theorem State.modCsr_left (s : State) (f : CoreCsr → CoreCsr) : (s.modCsr f).left = s.left := rfl
@[simp] theorem State.modCsr_right (s : State) (f : CoreCsr → CoreCsr) : (s.modCsr f).right = s.right := rfl
@[simp] theorem State.modCsr_dev (s : State) (f : CoreCsr → CoreCsr) : (s.modCsr f).dev = s.dev := rfl
@[simp] theorem State.modMx_mx (s : State) (f : Matrix → Matrix) : (s.modMx f).core.mx = f s.core.mx := rfl
@[simp] theorem State.modMx_id (s : State) (f : Matrix → Matrix) : (s.modMx f).core.id = s.core.id := rfl
@[simp] theorem State.modMx_enabled (s : State) (f : Matrix → Matrix) : (s.modMx f).core.enabled = s.core.enabled := rfl
@[simp] theorem State.modMx_capmask (s : State) (f : Matrix → Matrix) : (s.modMx f).core.capmask = s.core.capmask := rfl
@[simp] theorem State.modMx_resident (s : State) (f : Matrix → Matrix) : (s.modMx f).core.resident = s.core.resident := rfl
@[simp] theorem State.modMx_relay (s : State) (f : Matrix → Matrix) : (s.modMx f).core.relay = s.core.relay := rfl
@[simp] theorem State.modMx_bound (s : State) (f : Matrix → Matrix) : (s.modMx f).core.bound = s.core.bound := rfl
@[simp] theorem State.modMx_regs (s : State) (f : Matrix → Matrix) : (s.modMx f).core.regs = s.core.regs := rfl
@[simp] theorem State.modMx_vec (s : State) (f : Matrix → Matrix) : (s.modMx f).core.vec = s.core.vec := rfl
@[simp] theorem State.modMx_tiles (s : State) (f : Matrix → Matrix) : (s.modMx f).core.tiles = s.core.tiles := rfl
@[simp] theorem State.modMx_ec (s : State) (f : Matrix → Matrix) : (s.modMx f).core.ec = s.core.ec := rfl
@[simp] theorem State.modMx_ea (s : State) (f : Matrix → Matrix) : (s.modMx f).core.ea = s.core.ea := rfl
@[simp] theorem State.modMx_ev (s : State) (f : Matrix → Matrix) : (s.modMx f).core.ev = s.core.ev := rfl
@[simp] theorem State.modMx_em (s : State) (f : Matrix → Matrix) : (s.modMx f).core.em = s.core.em := rfl
@[simp] theorem State.modMx_ex (s : State) (f : Matrix → Matrix) : (s.modMx f).core.ex = s.core.ex := rfl
@[simp] theorem State.modMx_ctl (s : State) (f : Matrix → Matrix) : (s.modMx f).core.ctl = s.core.ctl := rfl
@[simp] theorem State.modMx_doms (s : State) (f : Matrix → Matrix) : (s.modMx f).core.doms = s.core.doms := rfl
@[simp] theorem State.modMx_mem (s : State) (f : Matrix → Matrix) : (s.modMx f).core.mem = s.core.mem := rfl
@[simp] theorem State.modMx_xc (s : State) (f : Matrix → Matrix) : (s.modMx f).core.xc = s.core.xc := rfl
@[simp] theorem State.modMx_csr (s : State) (f : Matrix → Matrix) : (s.modMx f).core.csr = s.core.csr := rfl
@[simp] theorem State.modMx_flt (s : State) (f : Matrix → Matrix) : (s.modMx f).core.flt = s.core.flt := rfl
@[simp] theorem State.modMx_accesses (s : State) (f : Matrix → Matrix) : (s.modMx f).core.accesses = s.core.accesses := rfl
@[simp] theorem State.modMx_arrivals (s : State) (f : Matrix → Matrix) : (s.modMx f).core.arrivals = s.core.arrivals := rfl
@[simp] theorem State.modMx_aHalt (s : State) (f : Matrix → Matrix) : (s.modMx f).core.aHalt = s.core.aHalt := rfl
@[simp] theorem State.modMx_xHalt (s : State) (f : Matrix → Matrix) : (s.modMx f).core.xHalt = s.core.xHalt := rfl
@[simp] theorem State.modMx_tlbC (s : State) (f : Matrix → Matrix) : (s.modMx f).core.tlbC = s.core.tlbC := rfl
@[simp] theorem State.modMx_tlbA (s : State) (f : Matrix → Matrix) : (s.modMx f).core.tlbA = s.core.tlbA := rfl
@[simp] theorem State.modMx_tlbX (s : State) (f : Matrix → Matrix) : (s.modMx f).core.tlbX = s.core.tlbX := rfl
@[simp] theorem State.modMx_left (s : State) (f : Matrix → Matrix) : (s.modMx f).left = s.left := rfl
@[simp] theorem State.modMx_right (s : State) (f : Matrix → Matrix) : (s.modMx f).right = s.right := rfl
@[simp] theorem State.modMx_dev (s : State) (f : Matrix → Matrix) : (s.modMx f).dev = s.dev := rfl
@[simp] theorem State.modRow_left (s : State) (n : Nat) (f : Row → Row) : (s.modRow n f).left = s.left := rfl
@[simp] theorem State.modRow_right (s : State) (n : Nat) (f : Row → Row) : (s.modRow n f).right = s.right := rfl
@[simp] theorem State.modRow_core (s : State) (n : Nat) (f : Row → Row) : (s.modRow n f).core = s.core := rfl

/-! ## One part of a core -/

@[simp] theorem Core.modXc_xc (c : Core) (f : CopyEng → CopyEng) : (c.modXc f).xc = f c.xc := rfl
@[simp] theorem Core.modXc_id (c : Core) (f : CopyEng → CopyEng) : (c.modXc f).id = c.id := rfl
@[simp] theorem Core.modXc_enabled (c : Core) (f : CopyEng → CopyEng) : (c.modXc f).enabled = c.enabled := rfl
@[simp] theorem Core.modXc_capmask (c : Core) (f : CopyEng → CopyEng) : (c.modXc f).capmask = c.capmask := rfl
@[simp] theorem Core.modXc_resident (c : Core) (f : CopyEng → CopyEng) : (c.modXc f).resident = c.resident := rfl
@[simp] theorem Core.modXc_relay (c : Core) (f : CopyEng → CopyEng) : (c.modXc f).relay = c.relay := rfl
@[simp] theorem Core.modXc_bound (c : Core) (f : CopyEng → CopyEng) : (c.modXc f).bound = c.bound := rfl
@[simp] theorem Core.modXc_regs (c : Core) (f : CopyEng → CopyEng) : (c.modXc f).regs = c.regs := rfl
@[simp] theorem Core.modXc_vec (c : Core) (f : CopyEng → CopyEng) : (c.modXc f).vec = c.vec := rfl
@[simp] theorem Core.modXc_tiles (c : Core) (f : CopyEng → CopyEng) : (c.modXc f).tiles = c.tiles := rfl
@[simp] theorem Core.modXc_ec (c : Core) (f : CopyEng → CopyEng) : (c.modXc f).ec = c.ec := rfl
@[simp] theorem Core.modXc_ea (c : Core) (f : CopyEng → CopyEng) : (c.modXc f).ea = c.ea := rfl
@[simp] theorem Core.modXc_ev (c : Core) (f : CopyEng → CopyEng) : (c.modXc f).ev = c.ev := rfl
@[simp] theorem Core.modXc_em (c : Core) (f : CopyEng → CopyEng) : (c.modXc f).em = c.em := rfl
@[simp] theorem Core.modXc_ex (c : Core) (f : CopyEng → CopyEng) : (c.modXc f).ex = c.ex := rfl
@[simp] theorem Core.modXc_ctl (c : Core) (f : CopyEng → CopyEng) : (c.modXc f).ctl = c.ctl := rfl
@[simp] theorem Core.modXc_doms (c : Core) (f : CopyEng → CopyEng) : (c.modXc f).doms = c.doms := rfl
@[simp] theorem Core.modXc_mem (c : Core) (f : CopyEng → CopyEng) : (c.modXc f).mem = c.mem := rfl
@[simp] theorem Core.modXc_mx (c : Core) (f : CopyEng → CopyEng) : (c.modXc f).mx = c.mx := rfl
@[simp] theorem Core.modXc_csr (c : Core) (f : CopyEng → CopyEng) : (c.modXc f).csr = c.csr := rfl
@[simp] theorem Core.modXc_flt (c : Core) (f : CopyEng → CopyEng) : (c.modXc f).flt = c.flt := rfl
@[simp] theorem Core.modXc_accesses (c : Core) (f : CopyEng → CopyEng) : (c.modXc f).accesses = c.accesses := rfl
@[simp] theorem Core.modXc_arrivals (c : Core) (f : CopyEng → CopyEng) : (c.modXc f).arrivals = c.arrivals := rfl
@[simp] theorem Core.modXc_aHalt (c : Core) (f : CopyEng → CopyEng) : (c.modXc f).aHalt = c.aHalt := rfl
@[simp] theorem Core.modXc_xHalt (c : Core) (f : CopyEng → CopyEng) : (c.modXc f).xHalt = c.xHalt := rfl
@[simp] theorem Core.modXc_tlbC (c : Core) (f : CopyEng → CopyEng) : (c.modXc f).tlbC = c.tlbC := rfl
@[simp] theorem Core.modXc_tlbA (c : Core) (f : CopyEng → CopyEng) : (c.modXc f).tlbA = c.tlbA := rfl
@[simp] theorem Core.modXc_tlbX (c : Core) (f : CopyEng → CopyEng) : (c.modXc f).tlbX = c.tlbX := rfl
@[simp] theorem Core.modW_regs (c : Core) (w : WNo) (f : Coupled Dword → Coupled Dword) : (c.modW w f).regs = { c.regs with w := vset c.regs.w w (f c.regs.w[w]) } := rfl
@[simp] theorem Core.modW_id (c : Core) (w : WNo) (f : Coupled Dword → Coupled Dword) : (c.modW w f).id = c.id := rfl
@[simp] theorem Core.modW_enabled (c : Core) (w : WNo) (f : Coupled Dword → Coupled Dword) : (c.modW w f).enabled = c.enabled := rfl
@[simp] theorem Core.modW_capmask (c : Core) (w : WNo) (f : Coupled Dword → Coupled Dword) : (c.modW w f).capmask = c.capmask := rfl
@[simp] theorem Core.modW_resident (c : Core) (w : WNo) (f : Coupled Dword → Coupled Dword) : (c.modW w f).resident = c.resident := rfl
@[simp] theorem Core.modW_relay (c : Core) (w : WNo) (f : Coupled Dword → Coupled Dword) : (c.modW w f).relay = c.relay := rfl
@[simp] theorem Core.modW_bound (c : Core) (w : WNo) (f : Coupled Dword → Coupled Dword) : (c.modW w f).bound = c.bound := rfl
@[simp] theorem Core.modW_vec (c : Core) (w : WNo) (f : Coupled Dword → Coupled Dword) : (c.modW w f).vec = c.vec := rfl
@[simp] theorem Core.modW_tiles (c : Core) (w : WNo) (f : Coupled Dword → Coupled Dword) : (c.modW w f).tiles = c.tiles := rfl
@[simp] theorem Core.modW_ec (c : Core) (w : WNo) (f : Coupled Dword → Coupled Dword) : (c.modW w f).ec = c.ec := rfl
@[simp] theorem Core.modW_ea (c : Core) (w : WNo) (f : Coupled Dword → Coupled Dword) : (c.modW w f).ea = c.ea := rfl
@[simp] theorem Core.modW_ev (c : Core) (w : WNo) (f : Coupled Dword → Coupled Dword) : (c.modW w f).ev = c.ev := rfl
@[simp] theorem Core.modW_em (c : Core) (w : WNo) (f : Coupled Dword → Coupled Dword) : (c.modW w f).em = c.em := rfl
@[simp] theorem Core.modW_ex (c : Core) (w : WNo) (f : Coupled Dword → Coupled Dword) : (c.modW w f).ex = c.ex := rfl
@[simp] theorem Core.modW_ctl (c : Core) (w : WNo) (f : Coupled Dword → Coupled Dword) : (c.modW w f).ctl = c.ctl := rfl
@[simp] theorem Core.modW_doms (c : Core) (w : WNo) (f : Coupled Dword → Coupled Dword) : (c.modW w f).doms = c.doms := rfl
@[simp] theorem Core.modW_mem (c : Core) (w : WNo) (f : Coupled Dword → Coupled Dword) : (c.modW w f).mem = c.mem := rfl
@[simp] theorem Core.modW_mx (c : Core) (w : WNo) (f : Coupled Dword → Coupled Dword) : (c.modW w f).mx = c.mx := rfl
@[simp] theorem Core.modW_xc (c : Core) (w : WNo) (f : Coupled Dword → Coupled Dword) : (c.modW w f).xc = c.xc := rfl
@[simp] theorem Core.modW_csr (c : Core) (w : WNo) (f : Coupled Dword → Coupled Dword) : (c.modW w f).csr = c.csr := rfl
@[simp] theorem Core.modW_flt (c : Core) (w : WNo) (f : Coupled Dword → Coupled Dword) : (c.modW w f).flt = c.flt := rfl
@[simp] theorem Core.modW_accesses (c : Core) (w : WNo) (f : Coupled Dword → Coupled Dword) : (c.modW w f).accesses = c.accesses := rfl
@[simp] theorem Core.modW_arrivals (c : Core) (w : WNo) (f : Coupled Dword → Coupled Dword) : (c.modW w f).arrivals = c.arrivals := rfl
@[simp] theorem Core.modW_aHalt (c : Core) (w : WNo) (f : Coupled Dword → Coupled Dword) : (c.modW w f).aHalt = c.aHalt := rfl
@[simp] theorem Core.modW_xHalt (c : Core) (w : WNo) (f : Coupled Dword → Coupled Dword) : (c.modW w f).xHalt = c.xHalt := rfl
@[simp] theorem Core.modW_tlbC (c : Core) (w : WNo) (f : Coupled Dword → Coupled Dword) : (c.modW w f).tlbC = c.tlbC := rfl
@[simp] theorem Core.modW_tlbA (c : Core) (w : WNo) (f : Coupled Dword → Coupled Dword) : (c.modW w f).tlbA = c.tlbA := rfl
@[simp] theorem Core.modW_tlbX (c : Core) (w : WNo) (f : Coupled Dword → Coupled Dword) : (c.modW w f).tlbX = c.tlbX := rfl
@[simp] theorem Core.modT_tiles (c : Core) (t : Fin 32) (f : Coupled Memory → Coupled Memory) : (c.modT t f).tiles = { c.tiles with t := vset c.tiles.t t (f c.tiles.t[t]) } := rfl
@[simp] theorem Core.modT_id (c : Core) (t : Fin 32) (f : Coupled Memory → Coupled Memory) : (c.modT t f).id = c.id := rfl
@[simp] theorem Core.modT_enabled (c : Core) (t : Fin 32) (f : Coupled Memory → Coupled Memory) : (c.modT t f).enabled = c.enabled := rfl
@[simp] theorem Core.modT_capmask (c : Core) (t : Fin 32) (f : Coupled Memory → Coupled Memory) : (c.modT t f).capmask = c.capmask := rfl
@[simp] theorem Core.modT_resident (c : Core) (t : Fin 32) (f : Coupled Memory → Coupled Memory) : (c.modT t f).resident = c.resident := rfl
@[simp] theorem Core.modT_relay (c : Core) (t : Fin 32) (f : Coupled Memory → Coupled Memory) : (c.modT t f).relay = c.relay := rfl
@[simp] theorem Core.modT_bound (c : Core) (t : Fin 32) (f : Coupled Memory → Coupled Memory) : (c.modT t f).bound = c.bound := rfl
@[simp] theorem Core.modT_regs (c : Core) (t : Fin 32) (f : Coupled Memory → Coupled Memory) : (c.modT t f).regs = c.regs := rfl
@[simp] theorem Core.modT_vec (c : Core) (t : Fin 32) (f : Coupled Memory → Coupled Memory) : (c.modT t f).vec = c.vec := rfl
@[simp] theorem Core.modT_ec (c : Core) (t : Fin 32) (f : Coupled Memory → Coupled Memory) : (c.modT t f).ec = c.ec := rfl
@[simp] theorem Core.modT_ea (c : Core) (t : Fin 32) (f : Coupled Memory → Coupled Memory) : (c.modT t f).ea = c.ea := rfl
@[simp] theorem Core.modT_ev (c : Core) (t : Fin 32) (f : Coupled Memory → Coupled Memory) : (c.modT t f).ev = c.ev := rfl
@[simp] theorem Core.modT_em (c : Core) (t : Fin 32) (f : Coupled Memory → Coupled Memory) : (c.modT t f).em = c.em := rfl
@[simp] theorem Core.modT_ex (c : Core) (t : Fin 32) (f : Coupled Memory → Coupled Memory) : (c.modT t f).ex = c.ex := rfl
@[simp] theorem Core.modT_ctl (c : Core) (t : Fin 32) (f : Coupled Memory → Coupled Memory) : (c.modT t f).ctl = c.ctl := rfl
@[simp] theorem Core.modT_doms (c : Core) (t : Fin 32) (f : Coupled Memory → Coupled Memory) : (c.modT t f).doms = c.doms := rfl
@[simp] theorem Core.modT_mem (c : Core) (t : Fin 32) (f : Coupled Memory → Coupled Memory) : (c.modT t f).mem = c.mem := rfl
@[simp] theorem Core.modT_mx (c : Core) (t : Fin 32) (f : Coupled Memory → Coupled Memory) : (c.modT t f).mx = c.mx := rfl
@[simp] theorem Core.modT_xc (c : Core) (t : Fin 32) (f : Coupled Memory → Coupled Memory) : (c.modT t f).xc = c.xc := rfl
@[simp] theorem Core.modT_csr (c : Core) (t : Fin 32) (f : Coupled Memory → Coupled Memory) : (c.modT t f).csr = c.csr := rfl
@[simp] theorem Core.modT_flt (c : Core) (t : Fin 32) (f : Coupled Memory → Coupled Memory) : (c.modT t f).flt = c.flt := rfl
@[simp] theorem Core.modT_accesses (c : Core) (t : Fin 32) (f : Coupled Memory → Coupled Memory) : (c.modT t f).accesses = c.accesses := rfl
@[simp] theorem Core.modT_arrivals (c : Core) (t : Fin 32) (f : Coupled Memory → Coupled Memory) : (c.modT t f).arrivals = c.arrivals := rfl
@[simp] theorem Core.modT_aHalt (c : Core) (t : Fin 32) (f : Coupled Memory → Coupled Memory) : (c.modT t f).aHalt = c.aHalt := rfl
@[simp] theorem Core.modT_xHalt (c : Core) (t : Fin 32) (f : Coupled Memory → Coupled Memory) : (c.modT t f).xHalt = c.xHalt := rfl
@[simp] theorem Core.modT_tlbC (c : Core) (t : Fin 32) (f : Coupled Memory → Coupled Memory) : (c.modT t f).tlbC = c.tlbC := rfl
@[simp] theorem Core.modT_tlbA (c : Core) (t : Fin 32) (f : Coupled Memory → Coupled Memory) : (c.modT t f).tlbA = c.tlbA := rfl
@[simp] theorem Core.modT_tlbX (c : Core) (t : Fin 32) (f : Coupled Memory → Coupled Memory) : (c.modT t f).tlbX = c.tlbX := rfl
@[simp] theorem Core.setDom_doms (c : Core) (d : Nat) (x : Dom) : (c.setDom d x).doms = vput c.doms d x := rfl
@[simp] theorem Core.setDom_id (c : Core) (d : Nat) (x : Dom) : (c.setDom d x).id = c.id := rfl
@[simp] theorem Core.setDom_enabled (c : Core) (d : Nat) (x : Dom) : (c.setDom d x).enabled = c.enabled := rfl
@[simp] theorem Core.setDom_capmask (c : Core) (d : Nat) (x : Dom) : (c.setDom d x).capmask = c.capmask := rfl
@[simp] theorem Core.setDom_resident (c : Core) (d : Nat) (x : Dom) : (c.setDom d x).resident = c.resident := rfl
@[simp] theorem Core.setDom_relay (c : Core) (d : Nat) (x : Dom) : (c.setDom d x).relay = c.relay := rfl
@[simp] theorem Core.setDom_bound (c : Core) (d : Nat) (x : Dom) : (c.setDom d x).bound = c.bound := rfl
@[simp] theorem Core.setDom_regs (c : Core) (d : Nat) (x : Dom) : (c.setDom d x).regs = c.regs := rfl
@[simp] theorem Core.setDom_vec (c : Core) (d : Nat) (x : Dom) : (c.setDom d x).vec = c.vec := rfl
@[simp] theorem Core.setDom_tiles (c : Core) (d : Nat) (x : Dom) : (c.setDom d x).tiles = c.tiles := rfl
@[simp] theorem Core.setDom_ec (c : Core) (d : Nat) (x : Dom) : (c.setDom d x).ec = c.ec := rfl
@[simp] theorem Core.setDom_ea (c : Core) (d : Nat) (x : Dom) : (c.setDom d x).ea = c.ea := rfl
@[simp] theorem Core.setDom_ev (c : Core) (d : Nat) (x : Dom) : (c.setDom d x).ev = c.ev := rfl
@[simp] theorem Core.setDom_em (c : Core) (d : Nat) (x : Dom) : (c.setDom d x).em = c.em := rfl
@[simp] theorem Core.setDom_ex (c : Core) (d : Nat) (x : Dom) : (c.setDom d x).ex = c.ex := rfl
@[simp] theorem Core.setDom_ctl (c : Core) (d : Nat) (x : Dom) : (c.setDom d x).ctl = c.ctl := rfl
@[simp] theorem Core.setDom_mem (c : Core) (d : Nat) (x : Dom) : (c.setDom d x).mem = c.mem := rfl
@[simp] theorem Core.setDom_mx (c : Core) (d : Nat) (x : Dom) : (c.setDom d x).mx = c.mx := rfl
@[simp] theorem Core.setDom_xc (c : Core) (d : Nat) (x : Dom) : (c.setDom d x).xc = c.xc := rfl
@[simp] theorem Core.setDom_csr (c : Core) (d : Nat) (x : Dom) : (c.setDom d x).csr = c.csr := rfl
@[simp] theorem Core.setDom_flt (c : Core) (d : Nat) (x : Dom) : (c.setDom d x).flt = c.flt := rfl
@[simp] theorem Core.setDom_accesses (c : Core) (d : Nat) (x : Dom) : (c.setDom d x).accesses = c.accesses := rfl
@[simp] theorem Core.setDom_arrivals (c : Core) (d : Nat) (x : Dom) : (c.setDom d x).arrivals = c.arrivals := rfl
@[simp] theorem Core.setDom_aHalt (c : Core) (d : Nat) (x : Dom) : (c.setDom d x).aHalt = c.aHalt := rfl
@[simp] theorem Core.setDom_xHalt (c : Core) (d : Nat) (x : Dom) : (c.setDom d x).xHalt = c.xHalt := rfl
@[simp] theorem Core.setDom_tlbC (c : Core) (d : Nat) (x : Dom) : (c.setDom d x).tlbC = c.tlbC := rfl
@[simp] theorem Core.setDom_tlbA (c : Core) (d : Nat) (x : Dom) : (c.setDom d x).tlbA = c.tlbA := rfl
@[simp] theorem Core.setDom_tlbX (c : Core) (d : Nat) (x : Dom) : (c.setDom d x).tlbX = c.tlbX := rfl
@[simp] theorem Core.orFlags_csr (c : Core) (f : BitVec 5) : (c.orFlags f).csr = { c.csr with fpstatus := c.csr.fpstatus ||| f.zeroExtend 7, landed := c.csr.landed ||| f } := rfl
@[simp] theorem Core.orFlags_id (c : Core) (f : BitVec 5) : (c.orFlags f).id = c.id := rfl
@[simp] theorem Core.orFlags_enabled (c : Core) (f : BitVec 5) : (c.orFlags f).enabled = c.enabled := rfl
@[simp] theorem Core.orFlags_capmask (c : Core) (f : BitVec 5) : (c.orFlags f).capmask = c.capmask := rfl
@[simp] theorem Core.orFlags_resident (c : Core) (f : BitVec 5) : (c.orFlags f).resident = c.resident := rfl
@[simp] theorem Core.orFlags_relay (c : Core) (f : BitVec 5) : (c.orFlags f).relay = c.relay := rfl
@[simp] theorem Core.orFlags_bound (c : Core) (f : BitVec 5) : (c.orFlags f).bound = c.bound := rfl
@[simp] theorem Core.orFlags_regs (c : Core) (f : BitVec 5) : (c.orFlags f).regs = c.regs := rfl
@[simp] theorem Core.orFlags_vec (c : Core) (f : BitVec 5) : (c.orFlags f).vec = c.vec := rfl
@[simp] theorem Core.orFlags_tiles (c : Core) (f : BitVec 5) : (c.orFlags f).tiles = c.tiles := rfl
@[simp] theorem Core.orFlags_ec (c : Core) (f : BitVec 5) : (c.orFlags f).ec = c.ec := rfl
@[simp] theorem Core.orFlags_ea (c : Core) (f : BitVec 5) : (c.orFlags f).ea = c.ea := rfl
@[simp] theorem Core.orFlags_ev (c : Core) (f : BitVec 5) : (c.orFlags f).ev = c.ev := rfl
@[simp] theorem Core.orFlags_em (c : Core) (f : BitVec 5) : (c.orFlags f).em = c.em := rfl
@[simp] theorem Core.orFlags_ex (c : Core) (f : BitVec 5) : (c.orFlags f).ex = c.ex := rfl
@[simp] theorem Core.orFlags_ctl (c : Core) (f : BitVec 5) : (c.orFlags f).ctl = c.ctl := rfl
@[simp] theorem Core.orFlags_doms (c : Core) (f : BitVec 5) : (c.orFlags f).doms = c.doms := rfl
@[simp] theorem Core.orFlags_mem (c : Core) (f : BitVec 5) : (c.orFlags f).mem = c.mem := rfl
@[simp] theorem Core.orFlags_mx (c : Core) (f : BitVec 5) : (c.orFlags f).mx = c.mx := rfl
@[simp] theorem Core.orFlags_xc (c : Core) (f : BitVec 5) : (c.orFlags f).xc = c.xc := rfl
@[simp] theorem Core.orFlags_flt (c : Core) (f : BitVec 5) : (c.orFlags f).flt = c.flt := rfl
@[simp] theorem Core.orFlags_accesses (c : Core) (f : BitVec 5) : (c.orFlags f).accesses = c.accesses := rfl
@[simp] theorem Core.orFlags_arrivals (c : Core) (f : BitVec 5) : (c.orFlags f).arrivals = c.arrivals := rfl
@[simp] theorem Core.orFlags_aHalt (c : Core) (f : BitVec 5) : (c.orFlags f).aHalt = c.aHalt := rfl
@[simp] theorem Core.orFlags_xHalt (c : Core) (f : BitVec 5) : (c.orFlags f).xHalt = c.xHalt := rfl
@[simp] theorem Core.orFlags_tlbC (c : Core) (f : BitVec 5) : (c.orFlags f).tlbC = c.tlbC := rfl
@[simp] theorem Core.orFlags_tlbA (c : Core) (f : BitVec 5) : (c.orFlags f).tlbA = c.tlbA := rfl
@[simp] theorem Core.orFlags_tlbX (c : Core) (f : BitVec 5) : (c.orFlags f).tlbX = c.tlbX := rfl

/-! ## Engines -/

@[simp] theorem Core.eng_c (c : Core) : c.eng .c = c.ec := rfl
@[simp] theorem Core.eng_a (c : Core) : c.eng .a = c.ea := rfl
@[simp] theorem Core.eng_v (c : Core) : c.eng .v = c.ev := rfl
@[simp] theorem Core.eng_m (c : Core) : c.eng .m = c.em := rfl
@[simp] theorem Core.eng_x (c : Core) : c.eng .x = c.ex := rfl
@[simp] theorem Core.setEng_c_ec (c : Core) (x : Eng) : (c.setEng .c x).ec = x := rfl
@[simp] theorem Core.setEng_c_ea (c : Core) (x : Eng) : (c.setEng .c x).ea = c.ea := rfl
@[simp] theorem Core.setEng_c_ev (c : Core) (x : Eng) : (c.setEng .c x).ev = c.ev := rfl
@[simp] theorem Core.setEng_c_em (c : Core) (x : Eng) : (c.setEng .c x).em = c.em := rfl
@[simp] theorem Core.setEng_c_ex (c : Core) (x : Eng) : (c.setEng .c x).ex = c.ex := rfl
@[simp] theorem Core.setEng_a_ec (c : Core) (x : Eng) : (c.setEng .a x).ec = c.ec := rfl
@[simp] theorem Core.setEng_a_ea (c : Core) (x : Eng) : (c.setEng .a x).ea = x := rfl
@[simp] theorem Core.setEng_a_ev (c : Core) (x : Eng) : (c.setEng .a x).ev = c.ev := rfl
@[simp] theorem Core.setEng_a_em (c : Core) (x : Eng) : (c.setEng .a x).em = c.em := rfl
@[simp] theorem Core.setEng_a_ex (c : Core) (x : Eng) : (c.setEng .a x).ex = c.ex := rfl
@[simp] theorem Core.setEng_v_ec (c : Core) (x : Eng) : (c.setEng .v x).ec = c.ec := rfl
@[simp] theorem Core.setEng_v_ea (c : Core) (x : Eng) : (c.setEng .v x).ea = c.ea := rfl
@[simp] theorem Core.setEng_v_ev (c : Core) (x : Eng) : (c.setEng .v x).ev = x := rfl
@[simp] theorem Core.setEng_v_em (c : Core) (x : Eng) : (c.setEng .v x).em = c.em := rfl
@[simp] theorem Core.setEng_v_ex (c : Core) (x : Eng) : (c.setEng .v x).ex = c.ex := rfl
@[simp] theorem Core.setEng_m_ec (c : Core) (x : Eng) : (c.setEng .m x).ec = c.ec := rfl
@[simp] theorem Core.setEng_m_ea (c : Core) (x : Eng) : (c.setEng .m x).ea = c.ea := rfl
@[simp] theorem Core.setEng_m_ev (c : Core) (x : Eng) : (c.setEng .m x).ev = c.ev := rfl
@[simp] theorem Core.setEng_m_em (c : Core) (x : Eng) : (c.setEng .m x).em = x := rfl
@[simp] theorem Core.setEng_m_ex (c : Core) (x : Eng) : (c.setEng .m x).ex = c.ex := rfl
@[simp] theorem Core.setEng_x_ec (c : Core) (x : Eng) : (c.setEng .x x).ec = c.ec := rfl
@[simp] theorem Core.setEng_x_ea (c : Core) (x : Eng) : (c.setEng .x x).ea = c.ea := rfl
@[simp] theorem Core.setEng_x_ev (c : Core) (x : Eng) : (c.setEng .x x).ev = c.ev := rfl
@[simp] theorem Core.setEng_x_em (c : Core) (x : Eng) : (c.setEng .x x).em = c.em := rfl
@[simp] theorem Core.setEng_x_ex (c : Core) (x : Eng) : (c.setEng .x x).ex = x := rfl
@[simp] theorem Core.setEng_id (c : Core) (e : Engine) (x : Eng) : (c.setEng e x).id = c.id := by cases e <;> rfl
@[simp] theorem Core.modEng_id (c : Core) (e : Engine) (f : Eng → Eng) : (c.modEng e f).id = c.id := by
  cases e <;> rfl
@[simp] theorem Core.setEng_enabled (c : Core) (e : Engine) (x : Eng) : (c.setEng e x).enabled = c.enabled := by cases e <;> rfl
@[simp] theorem Core.modEng_enabled (c : Core) (e : Engine) (f : Eng → Eng) : (c.modEng e f).enabled = c.enabled := by
  cases e <;> rfl
@[simp] theorem Core.setEng_capmask (c : Core) (e : Engine) (x : Eng) : (c.setEng e x).capmask = c.capmask := by cases e <;> rfl
@[simp] theorem Core.modEng_capmask (c : Core) (e : Engine) (f : Eng → Eng) : (c.modEng e f).capmask = c.capmask := by
  cases e <;> rfl
@[simp] theorem Core.setEng_resident (c : Core) (e : Engine) (x : Eng) : (c.setEng e x).resident = c.resident := by cases e <;> rfl
@[simp] theorem Core.modEng_resident (c : Core) (e : Engine) (f : Eng → Eng) : (c.modEng e f).resident = c.resident := by
  cases e <;> rfl
@[simp] theorem Core.setEng_relay (c : Core) (e : Engine) (x : Eng) : (c.setEng e x).relay = c.relay := by cases e <;> rfl
@[simp] theorem Core.modEng_relay (c : Core) (e : Engine) (f : Eng → Eng) : (c.modEng e f).relay = c.relay := by
  cases e <;> rfl
@[simp] theorem Core.setEng_bound (c : Core) (e : Engine) (x : Eng) : (c.setEng e x).bound = c.bound := by cases e <;> rfl
@[simp] theorem Core.modEng_bound (c : Core) (e : Engine) (f : Eng → Eng) : (c.modEng e f).bound = c.bound := by
  cases e <;> rfl
@[simp] theorem Core.setEng_regs (c : Core) (e : Engine) (x : Eng) : (c.setEng e x).regs = c.regs := by cases e <;> rfl
@[simp] theorem Core.modEng_regs (c : Core) (e : Engine) (f : Eng → Eng) : (c.modEng e f).regs = c.regs := by
  cases e <;> rfl
@[simp] theorem Core.setEng_vec (c : Core) (e : Engine) (x : Eng) : (c.setEng e x).vec = c.vec := by cases e <;> rfl
@[simp] theorem Core.modEng_vec (c : Core) (e : Engine) (f : Eng → Eng) : (c.modEng e f).vec = c.vec := by
  cases e <;> rfl
@[simp] theorem Core.setEng_tiles (c : Core) (e : Engine) (x : Eng) : (c.setEng e x).tiles = c.tiles := by cases e <;> rfl
@[simp] theorem Core.modEng_tiles (c : Core) (e : Engine) (f : Eng → Eng) : (c.modEng e f).tiles = c.tiles := by
  cases e <;> rfl
@[simp] theorem Core.setEng_ctl (c : Core) (e : Engine) (x : Eng) : (c.setEng e x).ctl = c.ctl := by cases e <;> rfl
@[simp] theorem Core.modEng_ctl (c : Core) (e : Engine) (f : Eng → Eng) : (c.modEng e f).ctl = c.ctl := by
  cases e <;> rfl
@[simp] theorem Core.setEng_doms (c : Core) (e : Engine) (x : Eng) : (c.setEng e x).doms = c.doms := by cases e <;> rfl
@[simp] theorem Core.modEng_doms (c : Core) (e : Engine) (f : Eng → Eng) : (c.modEng e f).doms = c.doms := by
  cases e <;> rfl
@[simp] theorem Core.setEng_mem (c : Core) (e : Engine) (x : Eng) : (c.setEng e x).mem = c.mem := by cases e <;> rfl
@[simp] theorem Core.modEng_mem (c : Core) (e : Engine) (f : Eng → Eng) : (c.modEng e f).mem = c.mem := by
  cases e <;> rfl
@[simp] theorem Core.setEng_mx (c : Core) (e : Engine) (x : Eng) : (c.setEng e x).mx = c.mx := by cases e <;> rfl
@[simp] theorem Core.modEng_mx (c : Core) (e : Engine) (f : Eng → Eng) : (c.modEng e f).mx = c.mx := by
  cases e <;> rfl
@[simp] theorem Core.setEng_xc (c : Core) (e : Engine) (x : Eng) : (c.setEng e x).xc = c.xc := by cases e <;> rfl
@[simp] theorem Core.modEng_xc (c : Core) (e : Engine) (f : Eng → Eng) : (c.modEng e f).xc = c.xc := by
  cases e <;> rfl
@[simp] theorem Core.setEng_csr (c : Core) (e : Engine) (x : Eng) : (c.setEng e x).csr = c.csr := by cases e <;> rfl
@[simp] theorem Core.modEng_csr (c : Core) (e : Engine) (f : Eng → Eng) : (c.modEng e f).csr = c.csr := by
  cases e <;> rfl
@[simp] theorem Core.setEng_flt (c : Core) (e : Engine) (x : Eng) : (c.setEng e x).flt = c.flt := by cases e <;> rfl
@[simp] theorem Core.modEng_flt (c : Core) (e : Engine) (f : Eng → Eng) : (c.modEng e f).flt = c.flt := by
  cases e <;> rfl
@[simp] theorem Core.setEng_accesses (c : Core) (e : Engine) (x : Eng) : (c.setEng e x).accesses = c.accesses := by cases e <;> rfl
@[simp] theorem Core.modEng_accesses (c : Core) (e : Engine) (f : Eng → Eng) : (c.modEng e f).accesses = c.accesses := by
  cases e <;> rfl
@[simp] theorem Core.setEng_arrivals (c : Core) (e : Engine) (x : Eng) : (c.setEng e x).arrivals = c.arrivals := by cases e <;> rfl
@[simp] theorem Core.modEng_arrivals (c : Core) (e : Engine) (f : Eng → Eng) : (c.modEng e f).arrivals = c.arrivals := by
  cases e <;> rfl
@[simp] theorem Core.setEng_aHalt (c : Core) (e : Engine) (x : Eng) : (c.setEng e x).aHalt = c.aHalt := by cases e <;> rfl
@[simp] theorem Core.modEng_aHalt (c : Core) (e : Engine) (f : Eng → Eng) : (c.modEng e f).aHalt = c.aHalt := by
  cases e <;> rfl
@[simp] theorem Core.setEng_xHalt (c : Core) (e : Engine) (x : Eng) : (c.setEng e x).xHalt = c.xHalt := by cases e <;> rfl
@[simp] theorem Core.modEng_xHalt (c : Core) (e : Engine) (f : Eng → Eng) : (c.modEng e f).xHalt = c.xHalt := by
  cases e <;> rfl
@[simp] theorem Core.setEng_tlbC (c : Core) (e : Engine) (x : Eng) : (c.setEng e x).tlbC = c.tlbC := by cases e <;> rfl
@[simp] theorem Core.modEng_tlbC (c : Core) (e : Engine) (f : Eng → Eng) : (c.modEng e f).tlbC = c.tlbC := by
  cases e <;> rfl
@[simp] theorem Core.setEng_tlbA (c : Core) (e : Engine) (x : Eng) : (c.setEng e x).tlbA = c.tlbA := by cases e <;> rfl
@[simp] theorem Core.modEng_tlbA (c : Core) (e : Engine) (f : Eng → Eng) : (c.modEng e f).tlbA = c.tlbA := by
  cases e <;> rfl
@[simp] theorem Core.setEng_tlbX (c : Core) (e : Engine) (x : Eng) : (c.setEng e x).tlbX = c.tlbX := by cases e <;> rfl
@[simp] theorem Core.modEng_tlbX (c : Core) (e : Engine) (f : Eng → Eng) : (c.modEng e f).tlbX = c.tlbX := by
  cases e <;> rfl

/-- The engine that was set. -/
@[simp] theorem Core.setEng_eng (c : Core) (e : Engine) (x : Eng) : (c.setEng e x).eng e = x := by cases e <;> rfl

/-- Another engine than the one that was set. -/
theorem Core.setEng_eng_ne (c : Core) {e o : Engine} (x : Eng) (h : o ≠ e) : (c.setEng e x).eng o = c.eng o := by
  cases e <;> cases o <;> first | rfl | exact absurd rfl h

/-- The engine that was changed. -/
@[simp] theorem Core.modEng_eng (c : Core) (e : Engine) (f : Eng → Eng) : (c.modEng e f).eng e = f (c.eng e) := by
  cases e <;> rfl

/-- Another engine than the one that was changed. -/
theorem Core.modEng_eng_ne (c : Core) {e o : Engine} (f : Eng → Eng) (h : o ≠ e) : (c.modEng e f).eng o = c.eng o :=
  c.setEng_eng_ne _ h


/-! ## A restored core with the cores that it names -/

@[simp] theorem Core.moved_id (c : Core) (m : List (CoreId × CoreId)) : (c.moved m).id = c.id := rfl
@[simp] theorem Core.moved_enabled (c : Core) (m : List (CoreId × CoreId)) : (c.moved m).enabled = c.enabled := rfl
@[simp] theorem Core.moved_capmask (c : Core) (m : List (CoreId × CoreId)) : (c.moved m).capmask = c.capmask := rfl
@[simp] theorem Core.moved_resident (c : Core) (m : List (CoreId × CoreId)) : (c.moved m).resident = c.resident := rfl
@[simp] theorem Core.moved_relay (c : Core) (m : List (CoreId × CoreId)) : (c.moved m).relay = c.relay := rfl
@[simp] theorem Core.moved_bound (c : Core) (m : List (CoreId × CoreId)) : (c.moved m).bound = c.bound := rfl
@[simp] theorem Core.moved_regs (c : Core) (m : List (CoreId × CoreId)) : (c.moved m).regs = c.regs := rfl
@[simp] theorem Core.moved_vec (c : Core) (m : List (CoreId × CoreId)) : (c.moved m).vec = c.vec := rfl
@[simp] theorem Core.moved_tiles (c : Core) (m : List (CoreId × CoreId)) : (c.moved m).tiles = c.tiles := rfl
@[simp] theorem Core.moved_ec (c : Core) (m : List (CoreId × CoreId)) : (c.moved m).ec = c.ec := rfl
@[simp] theorem Core.moved_ea (c : Core) (m : List (CoreId × CoreId)) : (c.moved m).ea = c.ea := rfl
@[simp] theorem Core.moved_ev (c : Core) (m : List (CoreId × CoreId)) : (c.moved m).ev = c.ev := rfl
@[simp] theorem Core.moved_em (c : Core) (m : List (CoreId × CoreId)) : (c.moved m).em = c.em := rfl
@[simp] theorem Core.moved_ex (c : Core) (m : List (CoreId × CoreId)) : (c.moved m).ex = c.ex := rfl
@[simp] theorem Core.moved_ctl (c : Core) (m : List (CoreId × CoreId)) : (c.moved m).ctl = c.ctl := rfl
@[simp] theorem Core.moved_doms (c : Core) (m : List (CoreId × CoreId)) : (c.moved m).doms = c.doms := rfl
@[simp] theorem Core.moved_mem (c : Core) (m : List (CoreId × CoreId)) : (c.moved m).mem = c.mem := rfl
@[simp] theorem Core.moved_csr (c : Core) (m : List (CoreId × CoreId)) : (c.moved m).csr = c.csr := rfl
@[simp] theorem Core.moved_flt (c : Core) (m : List (CoreId × CoreId)) : (c.moved m).flt = c.flt := rfl
@[simp] theorem Core.moved_accesses (c : Core) (m : List (CoreId × CoreId)) : (c.moved m).accesses = c.accesses := rfl
@[simp] theorem Core.moved_arrivals (c : Core) (m : List (CoreId × CoreId)) : (c.moved m).arrivals = c.arrivals := rfl
@[simp] theorem Core.moved_aHalt (c : Core) (m : List (CoreId × CoreId)) : (c.moved m).aHalt = c.aHalt := rfl
@[simp] theorem Core.moved_xHalt (c : Core) (m : List (CoreId × CoreId)) : (c.moved m).xHalt = c.xHalt := rfl
@[simp] theorem Core.moved_tlbC (c : Core) (m : List (CoreId × CoreId)) : (c.moved m).tlbC = c.tlbC := rfl
@[simp] theorem Core.moved_tlbA (c : Core) (m : List (CoreId × CoreId)) : (c.moved m).tlbA = c.tlbA := rfl
@[simp] theorem Core.moved_tlbX (c : Core) (m : List (CoreId × CoreId)) : (c.moved m).tlbX = c.tlbX := rfl

/-! ## Vectors -/

/-- The entry that was set. -/
@[simp] theorem vset_get_eq {α : Type} {n : Nat} (v : Vector α n) (i : Fin n) (x : α) : (vset v i x)[i] = x := by
  simp [vset]

/-- Another entry than the one that was set. -/
theorem vset_get_ne {α : Type} {n : Nat} (v : Vector α n) {i j : Fin n} (x : α) (h : j ≠ i) : (vset v i x)[j] = v[j] := by
  simp only [vset, Fin.getElem_fin]
  exact Vector.getElem_set_ne i.isLt j.isLt fun e => h (Fin.ext e.symm)

end Sys2Proof.Machine
end

