-- ==== Sys2Proof/Laws/Word.lean ====
section
/-! SUPPORT. What the issue of a word can do: one lemma per shared operation of 03 R92 and 01 R19–R30. -/

namespace Sys2Proof.Machine

/-! ## Still cores -/

/-- An engine changed only in what `Eng.still` forgets. -/
theorem Core.modEng_still {c : Core} {e : Engine} {f : Eng → Eng} (h : ∀ x, (f x).still = x.still) :
    (c.modEng e f).still = c.still := by
  cases e <;> simp only [Core.still, Core.modEng, Core.setEng, Core.eng, h]

/-- The same for a replaced engine. -/
theorem Core.setEng_still {c : Core} {e : Engine} {x : Eng} (h : x.still = (c.eng e).still) :
    (c.setEng e x).still = c.still := by
  cases e <;> simp only [Core.eng] at h <;> simp only [Core.still, Core.setEng, h]

/-- Counting an issue changes only holds and the watchdog. -/
@[simp] theorem Core.countIssue_still (c : Core) (e : Engine) : (c.countIssue e).still = c.still := by
  have h : ∀ (d : Core) (o : Engine),
      (d.modEng o fun x => { x with hold := x.hold.map fun h => h.tickFor e }).still = d.still :=
    fun d o => Core.modEng_still fun _ => rfl
  have : (engines.foldl (fun c o => c.modEng o fun x => { x with hold := x.hold.map fun h => h.tickFor e }) c).still
      = c.still := by simp only [engines, List.foldl_cons, List.foldl_nil, h]
  rw [← this]
  rfl

/-- Every engine after counting an issue: its hold apart, it is what it was. -/
theorem Core.countIssue_eng (c : Core) (e o : Engine) :
    (c.countIssue e).eng o = { c.eng o with hold := (c.eng o).hold.map fun h => h.tickFor e } := by
  cases o <;> rfl

/-- A result put in flight changes nothing that `still` keeps. -/
@[simp] theorem Core.land_still (c : Core) (e : Engine) (d : Dest) (v : LValue) (lat : Nat) (fl : BitVec 5) :
    (c.land e d v lat fl).still = c.still := Core.modEng_still fun _ => rfl

/-- Another engine's results in flight. -/
theorem Core.land_eng_ne (c : Core) {e o : Engine} (d : Dest) (v : LValue) (lat : Nat) (fl : BitVec 5) (h : o ≠ e) :
    (c.land e d v lat fl).eng o = c.eng o := Core.modEng_eng_ne c _ h

/-- The engine's own results in flight. -/
theorem Core.land_eng (c : Core) (e : Engine) (d : Dest) (v : LValue) (lat : Nat) (fl : BitVec 5) :
    (c.land e d v lat fl).eng e = { c.eng e with landing := (c.eng e).landing ++ [⟨d, v, lat, fl⟩] } :=
  Core.modEng_eng c e _

/-! ## A stream that goes on -/

/-- A level that does not end at a word does not loop back there. -/
theorem loopBack_none (wb pc : Nat) (ls : Vector Loop 4) (h : atLoopEnd ls wb pc = false) :
    ∀ n, n ≤ 4 → loopBack wb pc n ls = (ls, none)
  | 0, _ => rfl
  | n + 1, hn => by
    have hl : ¬((vget ls n Loop.reset).rem ≠ 0 ∧ pc % 2 ^ 48 = (vget ls n Loop.reset).lastAddr wb % 2 ^ 48) := by
      intro hc
      have hm : vget ls n Loop.reset ∈ ls.toList := by
        have hlen : n < ls.toArray.toList.length := by simp; omega
        unfold vget
        rw [List.getD_eq_getElem _ _ hlen]
        exact List.getElem_mem hlen
      have := List.any_eq_false.mp h _ hm
      simp only [decide_eq_true_eq] at this
      exact this hc
    simp only [loopBack, hl, if_false]
    exact loopBack_none wb pc ls h n (by omega)

/-- Advancing to the next word changes only the stream and the delay slot. -/
@[simp] theorem Core.advance_seq_still (c : Core) (e : Engine) : (c.advance e .seq).still = c.still := by
  unfold Core.advance
  cases e <;> simp only [if_true, reduceCtorEq, if_false] <;> (try split) <;> rfl

/-- Advancing leaves the other engines alone. -/
theorem Core.advance_seq_other (c : Core) {e o : Engine} (h : o ≠ e) : (c.advance e .seq).eng o = c.eng o := by
  unfold Core.advance
  cases e <;> cases o <;> first | exact absurd rfl h | (simp only [if_true, reduceCtorEq, if_false]; (try split) <;> rfl)

/-- The engine after advancing to the next word. -/
theorem Core.advance_seq_eng (c : Core) (e : Engine) :
    ((c.advance e .seq).eng e).index = (c.eng e).index + 1 ∧ ((c.advance e .seq).eng e).used = true
      ∧ ((c.advance e .seq).eng e).hold = none ∧ ((c.advance e .seq).eng e).landing = (c.eng e).landing := by
  unfold Core.advance
  cases e <;> simp only [if_true, reduceCtorEq, if_false] <;> (try split) <;> exact ⟨rfl, rfl, rfl, rfl⟩

/-- Where a word neither stands in a delay slot nor ends a loop body, the next word follows it. -/
theorem Core.advance_seq_pc (c : Core) (e : Engine) (hs : e = .c → c.ctl.slot = none)
    (hl : atLoopEnd (c.eng e).loops e.wordBytes (c.eng e).pc.toNat = false) :
    ((c.advance e .seq).eng e).pc = (c.eng e).pc + BitVec.ofNat 64 e.wordBytes := by
  have hb := loopBack_none e.wordBytes (c.eng e).pc.toNat (c.eng e).loops hl 4 (Nat.le_refl 4)
  cases e
  case c =>
    simp only [Core.eng_c] at hb
    simp only [Core.advance, if_true, hs rfl, Core.eng_c, hb, Core.setEng_c_ec]
  all_goals simp only [Core.advance, reduceCtorEq, if_false, hb, Core.setEng_eng]

/-! ## A word of a stream -/

/-- A word that fails a check of 03 R92 raises its fault. -/
theorem State.word_checked {s : State} {e : Engine} {i : Instr} {k : State → WordOut} {f : FaultRec}
    (h : s.precheck e i = some f) : s.word e i k = .next (s.raise e f) := by simp only [State.word, h]

/-- A word whose checks pass and whose part issues. -/
theorem State.word_ok {s s' : State} {e : Engine} {i : Instr} {k : State → WordOut} {n : NextPc}
    (h : s.precheck e i = none) (hk : k s = .ok s' n) :
    s.word e i k = .next (s'.modFocus fun c => (c.advance e n).countIssue e) := by
  simp only [State.word, h, hk, WordOut.finish]

/-- A word whose checks pass and whose part holds. -/
theorem State.word_hold {s s' : State} {e : Engine} {i : Instr} {k : State → WordOut} {x : Hold}
    (h : s.precheck e i = none) (hk : k s = .hold s' x) : s.word e i k = .next (s'.holdAt e x) := by
  simp only [State.word, h, hk, WordOut.finish]

/-- A word whose checks pass and whose part faults. -/
theorem State.word_fault {s s' : State} {e : Engine} {i : Instr} {k : State → WordOut} {f : FaultRec}
    (h : s.precheck e i = none) (hk : k s = .fault s' f) : s.word e i k = .next (s'.raise e f) := by
  simp only [State.word, h, hk, WordOut.finish]

/-- A word answers a next state always. -/
theorem State.word_next (s : State) (e : Engine) (i : Instr) (k : State → WordOut) : ∃ t, s.word e i k = .next t :=
  ⟨_, rfl⟩

/-- Everything that a word which only puts results in flight can do. -/
theorem State.word_lands {s : State} {e : Engine} {i : Instr} {k : State → WordOut} {d : Dest} {v : LValue} {lat : Nat}
    {fl : BitVec 5} (h : s.precheck e i = none) (hk : k s = .ok (s.modFocus fun c => c.land e d v lat fl) .seq) :
    ∃ t, s.word e i k = .next t ∧ Lands e s t [⟨d, v, lat, fl⟩] ∧ GoesOn e s t ∧ OnlyStream e s t := by
  refine ⟨_, State.word_ok h hk, ?_, ⟨?_, ?_, ?_, ?_⟩, ?_, ?_⟩
  · simp only [Lands, State.modFocus_core, Core.countIssue_eng, (Core.advance_seq_eng _ e).2.2.2, Core.land_eng]
  · intro hs
    simp only [State.modFocus_core, Core.countIssue_eng]
    rw [Core.advance_seq_pc]
    · simp only [Core.land_eng]
    · intro he; simpa only [Core.land, Core.modEng_ctl] using hs.1 he
    · simpa only [Core.land_eng] using hs.2
  · simp only [State.modFocus_core, Core.countIssue_eng, (Core.advance_seq_eng _ e).1, Core.land_eng]
  · simp only [State.modFocus_core, Core.countIssue_eng, (Core.advance_seq_eng _ e).2.1]
  · simp only [State.modFocus_core, Core.countIssue_eng, (Core.advance_seq_eng _ e).2.2.1, Option.map_none]
  · simp only [State.still, State.modFocus, Core.countIssue_still, Core.advance_seq_still, Core.land_still]
  · intro o ho
    simp only [State.modFocus_core, Core.countIssue_eng, Core.advance_seq_other _ ho, Core.land_eng_ne _ _ _ _ _ ho,
      Eng.sameStream, and_self]

/-- Everything that a word with no effect but its issue can do. -/
theorem State.word_passes {s : State} {e : Engine} {i : Instr} {k : State → WordOut} (h : s.precheck e i = none)
    (hk : k s = .ok s .seq) :
    ∃ t, s.word e i k = .next t ∧ Lands e s t [] ∧ GoesOn e s t ∧ OnlyStream e s t := by
  refine ⟨_, State.word_ok h hk, ?_, ⟨?_, ?_, ?_, ?_⟩, ?_, ?_⟩
  · simp only [Lands, State.modFocus_core, Core.countIssue_eng, (Core.advance_seq_eng _ e).2.2.2, List.append_nil]
  · intro hs
    simp only [State.modFocus_core, Core.countIssue_eng]
    exact Core.advance_seq_pc _ e hs.1 hs.2
  · simp only [State.modFocus_core, Core.countIssue_eng, (Core.advance_seq_eng _ e).1]
  · simp only [State.modFocus_core, Core.countIssue_eng, (Core.advance_seq_eng _ e).2.1]
  · simp only [State.modFocus_core, Core.countIssue_eng, (Core.advance_seq_eng _ e).2.2.1, Option.map_none]
  · simp only [State.still, State.modFocus, Core.countIssue_still, Core.advance_seq_still]
  · intro o ho
    simp only [State.modFocus_core, Core.countIssue_eng, Core.advance_seq_other _ ho, Eng.sameStream, and_self]

end Sys2Proof.Machine
end

