-- ==== Sys2Proof/Tests/Slice0.lean ====
section
/-! SUPPORT. Tests of the model: ill-formed instructions refused, words decoded, and a witness for the hypotheses of every
statement. -/

set_option Elab.async false

namespace Sys2Proof.Tests

open Machine

/-! ## Well-formedness: one ill-formed term for each check, refused -/

theorem test_wf_class_run : (Instr.ldAcqW 1 2 ⟨3, 2⟩ 0).wf = false ∧ (Instr.stwRel 1 2 ⟨15, 0⟩ 0).wf = false := by decide

theorem test_wf_loop_body : (Instr.loop 1 0 0).wf = false ∧ (Instr.aloop 0 (.imm 3) 0).wf = false ∧
    (Instr.xloop 3 (.word 1 255) 0).wf = false ∧ (Instr.vloop 0 (.imm 1) 0).wf = false := by decide

theorem test_wf_fork : (Instr.fork 0 1).wf = false ∧ (Instr.fork 1 0).wf = false ∧ (Instr.fork 1 61).wf = false ∧
    (Instr.rendez 0 255).wf = false := by decide

theorem test_wf_domain_set : (Instr.steep ⟨0, some (4, 3), none⟩).wf = false ∧
    (Instr.kilnL ⟨0, none, some (7, 6)⟩).wf = false := by decide

theorem test_wf_divisor : (Instr.clkdiv .v 1).wf = false ∧ (Instr.clkdiv .c 2).wf = false ∧ (Instr.clkdiv .m 9).wf = false ∧
    (Instr.clkdiv .m 2).wf = true ∧ (Instr.clkdiv .c 3).wf = true := by decide

theorem test_wf_tile_bytes : (Instr.tld ⟨0, .tile 0, 0, 0, 1, 2048, false, 0, 255⟩).wf = false ∧
    (Instr.tld ⟨0, .tile 0, 0, 0, 1, 2047, false, 0, 255⟩).wf = true ∧
    (Instr.tldx ⟨0, .tile 0, 0, .tile 1, 3, 512, false, 255⟩).wf = false ∧
    (Instr.apf 0 0 31 128 0).wf = false := by decide

theorem test_wf_vector_types : (Instr.vadd .e4m3 0 .dyn 0 0 0).wf = false ∧ (Instr.vadd .f32 0 .sr 0 0 0).wf = false ∧
    (Instr.vadd .i32 0 .rne 0 0 0).wf = false ∧ (Instr.vfma .i32 0 .dyn 0 0 0 0).wf = false ∧
    (Instr.vabs .t8 0 .dyn 0 0).wf = false ∧ (Instr.vaddi .f16 0 .dyn 0 0 0).wf = false ∧
    (Instr.vcmpUn .i8 0 0 0 0).wf = false ∧ (Instr.vcmpEq .e2m1 0 0 0 0).wf = false ∧
    (Instr.vsll .f32 0 0 0 0).wf = false ∧ (Instr.vslli .i8 0 0 0 8).wf = false := by decide

theorem test_wf_vector_functions : (Instr.vcvt .f32 .f32 false false 0 .dyn 0 0).wf = false ∧
    (Instr.vcvt .f16 .f32 false true 0 .dyn 0 0).wf = false ∧ (Instr.vcvt .f32 .f16 false false 0 .sr 0 0).wf = false ∧
    (Instr.vcvt .i8 .i32 false false 0 .rne 0 0).wf = false ∧ (Instr.vroundi .i32 0 .dyn 0 0).wf = false ∧
    (Instr.vrcp 0 .sr 0 0).wf = false ∧ (Instr.vscaleb 0 .sr 0 0 0).wf = false ∧
    (Instr.vredSum .f16 0 .dyn 0 0).wf = false ∧ (Instr.vdrain .bf16 0 .dyn 0 0 0 0 255).wf = false := by decide

theorem test_wf_vloop_count : (Instr.vloop 0 (.imm 131072) 1).wf = false ∧ (Instr.vloop 0 (.word 1 254) 1).wf = false := by
  decide

theorem test_wf_matrix : (Instr.mset 0 (.imm 0) 0 0 0).wf = false ∧ (Instr.mfmt .bf16 .e4m3).wf = false ∧
    (Instr.malloc 0).wf = false ∧ (Instr.mfree 0).wf = false ∧ (Instr.mclaim 0 3 2 0).wf = false ∧
    (Instr.mrelease 0 31 30 0).wf = false := by decide

theorem test_wf_drain : (Instr.mdrain 0 0 0 (.spad 2) .f32 .dyn).wf = false ∧
    (Instr.mdrain 0 0 0 (.spad 0) .e2m1 .dyn).wf = false ∧ (Instr.mdrain 0 1 0 (.spad 0) .f32 .dyn).wf = false ∧
    (Instr.mdrain 0 0 1 (.spad 0x1FFF80) .f32 .dyn).wf = false ∧
    (Instr.mdrain 0 0 31 (.tile (.tile 0) 255) .f32 .dyn).wf = true ∧
    (Instr.mdrain 0 0 0 (.spad 0) .i32 .rne).wf = false := by decide

theorem test_wf_copy : (Instr.xmcast ⟨0, none, true, 0, 0, none, 255⟩).wf = false ∧
    (Instr.xgather ⟨0, none, true, 0, 0, none, 255⟩).wf = true ∧ (Instr.xred ⟨0, none, false, 0, 0, some 1, 255⟩).wf = false ∧
    (Instr.xmig ⟨0, some 1, false, 0, 0, none, 255⟩).wf = false ∧ (Instr.xcask 0 0 0).wf = false ∧
    (Instr.xsig 0 0).wf = false ∧ (Instr.xjoin 0).wf = false := by decide

/-! ## Rejections by name (03 R91) -/

theorem test_decode_rejects : decode .c 0 = .error .illegal ∧ decode .c (0x0C * 2 ^ 26) = .error .illegal ∧
    decode .a (0x07 * 2 ^ 58) = .error .illegal ∧ decode .v (0x1C * 2 ^ 58) = .error .illegal ∧
    decode .m (0x13 * 2 ^ 122) = .error .illegal ∧ decode .x (0x0D * 2 ^ 58) = .error .illegal ∧
    decode .v (0x01 * 2 ^ 58 + 7 * 2 ^ 54) = .error .illegal := by decide

theorem test_decode_reserved : decode .c 0x04304204 = .error (.reserved (.add 3 1 2)) ∧
    decode .a (0x12 * 2 ^ 58 + 1) = .error (.reserved .anop) ∧ decode .v (0x32 * 2 ^ 58 + 1) = .error (.reserved .vnop) ∧
    decode .m (0x12 * 2 ^ 122 + 1) = .error (.reserved .mnop) ∧ decode .x (0x16 * 2 ^ 58 + 1) = .error (.reserved .xnop) ∧
    decode .c 0xF8000003 = .ok .nop := by decide

/-- C integer and compare words (R105, R107 opcodes 0x01–0x04), part 1: the words are written out from the layouts of spec/03, some with hint bits set. -/
theorem test_decode_c_int_1 : ∀ p ∈ ([
    (0x068FD100, .add 40 63 17),
    (0x069F9211, .sub 41 62 18),
    (0x06AF5322, .and 42 61 19),
    (0x06BF1433, .or 43 60 20),
    (0x06CED540, .xor 44 59 21),
    (0x06DE9651, .sll 45 58 22),
    (0x06EE5762, .srl 46 57 23),
    (0x06FE1873, .sra 47 56 24),
    (0x070DD980, .min 48 55 25),
    (0x071D9A91, .max 49 54 26),
    (0x072D5BA2, .minu 50 53 27),
    (0x073D1CB3, .maxu 51 52 28),
    (0x061F80C0, .clz 33 62),
    (0x052B40D3, .popc 18 45)] : List (Nat × Instr)),
    decode .c p.1 = .ok p.2 := by decide

/-- C integer and compare words (R105, R107 opcodes 0x01–0x04), part 2: the words are written out from the layouts of spec/03, some with hint bits set. -/
theorem test_decode_c_int_2 : ∀ p ∈ ([
    (0x094A3C01, .mul 20 40 60),
    (0x095A7B11, .mulh 21 41 59),
    (0x096ABA21, .mulhu 22 42 58),
    (0x097AF931, .div 23 43 57),
    (0x098B3841, .divu 24 44 56),
    (0x099B7751, .rem 25 45 55),
    (0x09ABB661, .remu 26 46 54),
    (0x0C17B200, .cmpEq 1 30 50),
    (0x0C27F110, .cmpNe 2 31 49),
    (0x0C383020, .cmpLt 3 32 48),
    (0x0C486F30, .cmpLtu 4 33 47),
    (0x0C58AE40, .cmpGe 5 34 46),
    (0x0C68ED50, .cmpGeu 6 35 45),
    (0x12556A50, .sel 37 5 21 42)] : List (Nat × Instr)),
    decode .c p.1 = .ok p.2 := by decide

/-- C immediate words (opcodes 0x05–0x0B): the words are written out from the layouts of spec/03, some with hint bits set. -/
theorem test_decode_c_imm : ∀ p ∈ ([
    (0x149CA002, .addi 9 50 (BitVec.ofInt 12 (-2048))),
    (0x18ACE006, .andi 10 51 (BitVec.ofInt 12 (-2047))),
    (0x1CBD200A, .ori 11 52 (BitVec.ofInt 12 (-2046))),
    (0x20CD600E, .xori 12 53 (BitVec.ofInt 12 (-2045))),
    (0x2437C0FC, .slli 3 31 63),
    (0x244810F8, .srli 4 32 62),
    (0x245860F4, .srai 5 33 61),
    (0x2AC80000, .li 44 (BitVec.ofInt 18 (-131072))),
    (0x2F3FFFFD, .lui 51 262143)] : List (Nat × Instr)),
    decode .c p.1 = .ok p.2 := by decide

/-- C memory words (opcodes 0x10–0x22): the words are written out from the layouts of spec/03, some with hint bits set. -/
theorem test_decode_c_mem : ∀ p ∈ ([
    (0x40A8E020, .ldB 10 35 (BitVec.ofInt 8 (-128)) 8),
    (0x44B92064, .ldBu 11 36 (BitVec.ofInt 8 (-127)) 9),
    (0x48C960A8, .ldH 12 37 (BitVec.ofInt 8 (-126)) 10),
    (0x4CD9A0EC, .ldHu 13 38 (BitVec.ofInt 8 (-125)) 11),
    (0x50E9E130, .ldW 14 39 (BitVec.ofInt 8 (-124)) 12),
    (0x54FA2174, .ldWu 15 40 (BitVec.ofInt 8 (-123)) 13),
    (0x590A61B8, .ldD 16 41 (BitVec.ofInt 8 (-122)) 14),
    (0x60FB5FCF, .stB 15 45 127 3),
    (0x650B9F93, .stH 16 46 126 4),
    (0x691BDF57, .stW 17 47 125 5),
    (0x6D2C1F1B, .stD 18 48 124 6),
    (0x716A4A78, .ldAcqW 22 41 ⟨2, 9⟩ 14),
    (0x757A8EB4, .ldAcqD 23 42 ⟨3, 10⟩ 13),
    (0x798AD2F0, .stRelW 24 43 ⟨4, 11⟩ 12),
    (0x7D9B172C, .stRelD 25 44 ⟨5, 12⟩ 11),
    (0x80BD0E9C, .ldw 11 52 0x3A 7),
    (0x857BBF64, .stw 23 46 (BitVec.ofInt 8 (-3)) 9),
    (0x898BC3FC, .stwRel 24 47 ⟨0, 15⟩ 15)] : List (Nat × Instr)),
    decode .c p.1 = .ok p.2 := by decide

/-- C atomics and FENCE.C (opcodes 0x23–0x26): the words are written out from the layouts of spec/03, some with hint bits set. -/
theorem test_decode_c_amo : ∀ p ∈ ([
    (0x8CC87D04, .amoAddW 12 33 61 4),
    (0x8CD8BC15, .amoAndW 13 34 60 5),
    (0x8CE8FB26, .amoOrW 14 35 59 6),
    (0x8CF93A37, .amoXorW 15 36 58 7),
    (0x8D097948, .amoSminW 16 37 57 8),
    (0x8D19B859, .amoSmaxW 17 38 56 9),
    (0x8D29F76A, .amoUminW 18 39 55 10),
    (0x8D3A367B, .amoUmaxW 19 40 54 11),
    (0x8D4A758C, .amoSwapW 20 41 53 12),
    (0x8D5AB49D, .amoFaddW 21 42 52 13),
    (0x8D6AF3AE, .amoBfaddW 22 43 51 14),
    (0x90D8BE0F, .amoAddD 13 34 62 15),
    (0x90E8FD1E, .amoAndD 14 35 61 14),
    (0x90F93C2D, .amoOrD 15 36 60 13),
    (0x91097B3C, .amoXorD 16 37 59 12),
    (0x9119BA4B, .amoSminD 17 38 58 11),
    (0x9129F95A, .amoSmaxD 18 39 57 10),
    (0x913A3869, .amoUminD 19 40 56 9),
    (0x914A7778, .amoUmaxD 20 41 55 8),
    (0x915AB687, .amoSwapD 21 42 54 7),
    (0x9459130A, .casW 5 36 19 10),
    (0x9469541B, .casD 6 37 20 11),
    (0x9802970C, .fenceC 0xA5C3)] : List (Nat × Instr)),
    decode .c p.1 = .ok p.2 := by decide

/-- C control flow, engines, word registers and casks (opcodes 0x28–0x35): the words are written out from the layouts of spec/03, some with hint bits set. -/
theorem test_decode_c_flow : ∀ p ∈ ([
    (0xA2A00000, .br 5 (BitVec.ofInt 20 (-524288))),
    (0xA35FFFFE, .brn 6 524287),
    (0xA40FFFF8, .jmp (BitVec.ofInt 18 (-2))),
    (0xA807FFFC, .call 131071),
    (0xAC0AC000, .calli 43),
    (0xAC000010, .ret),
    (0xB1DFFFFC, .loop 29 3 65535),
    (0xC00F00A0, .fork 0b1010 60),
    (0xC4003114, .rendez 0b0101 0xC4),
    (0xC8ED6000, .wput 14 53 0x80),
    (0xCF636040, .wget 54 13 0x81),
    (0xD37BE080, .ckwait 55 47 0x82),
    (0xD40E8000, .ckrel 58)] : List (Nat × Instr)),
    decode .c p.1 = .ok p.2 := by decide

/-- C domain, clock, control register, system and work words (opcodes 0x36–0x3F), part 1: the words are written out from the layouts of spec/03, some with hint bits set. -/
theorem test_decode_c_sys_1 : ∀ p ∈ ([
    (0xDAACF2B0, .steep ⟨0x55, some (3, 12), some (2, 6)⟩),
    (0xDD500279, .kilnR ⟨0x2A, none, some (1, 7)⟩),
    (0xE20C3C00, .kilnL ⟨0x41, some (0, 15), none⟩),
    (0xE40C0000, .steepReg 48),
    (0xE40C4010, .kilnRReg 49),
    (0xE40C8020, .kilnLReg 50),
    (0xEA700078, .domq 39 30),
    (0xEC000048, .clkdiv .v 2),
    (0xEC000110, .clkdiv .x 8),
    (0xF38023C4, .csrr 56 0x8F1),
    (0xF40E5F08, .csrw 0x7C2 57),
    (0xF8000000, .nop),
    (0xF8000011, .clkwait),
    (0xF8000022, .pwrack)] : List (Nat × Instr)),
    decode .c p.1 = .ok p.2 := by decide

/-- C domain, clock, control register, system and work words (opcodes 0x36–0x3F), part 2: the words are written out from the layouts of spec/03, some with hint bits set. -/
theorem test_decode_c_sys_2 : ∀ p ∈ ([
    (0xF8000033, .eret),
    (0xF8000040, .halt),
    (0xF8000051, .gyle),
    (0xF8000062, .tend),
    (0xF8000073, .bsync),
    (0xF80EC080, .trap 59),
    (0xFC068000, .launch 26),
    (0xFC06C010, .tspawn 27),
    (0xFC070020, .cancelL 28),
    (0xFC074030, .cancelG 29),
    (0xFC078040, .cancelP 30),
    (0xFC07C050, .cancelJ 31),
    (0xFC080060, .seize 32)] : List (Nat × Instr)),
    decode .c p.1 = .ok p.2 := by decide

/-- A words (R108, R109): the words are written out from the layouts of spec/03, some with hint bits set. -/
theorem test_decode_a : ∀ p ∈ ([
    (0x066D9AF4E3FFFB9C, .tld ⟨9, .queue 6, 11, 13, 7, 511, true, (BitVec.ofInt 8 (-5)), 0x9C⟩),
    (0x090076B3E0FE6440, .tst ⟨4, .tile 29, 10, 12, 31, 127, false, 100, 0x40⟩),
    (0x0FC044D41FFE00FF, .tldRaw ⟨15, .tile 17, 3, 5, 0, 4095, false, 0, 0xFF⟩),
    (0x118057A3BFF80031, .tldx ⟨6, .tile 21, 14, .queue 3, 2, 1023, true, 0x31⟩),
    (0x16019E5ADFF00032, .tstx ⟨8, .queue 7, 9, .tile 26, 3, 511, false, 0x32⟩),
    (0x1800031C67FE8000, .apf 12 7 3 1023 (BitVec.ofInt 8 (-128))),
    (0x2000BB8400000000, .qdef 5 27 33),
    (0x24006A0000000021, .apush 10 6 0x21),
    (0x28005C0000000022, .apop 5 12 0x22),
    (0x2C00D96000000000, .aadd 13 9 6),
    (0x3000EA00FFFFFFF9, .aaddi 14 10 (BitVec.ofInt 32 (-7))),
    (0x340083FFFFFFFC00, .aloop 2 (.imm 1048575) 4095),
    (0x3400E00003402477, .aloop 3 (.word 13 0x77) 9),
    (0x3800BB0000000023, .aCkwait 11 44 0x23),
    (0x3C000F4000000000, .aCkrel 61),
    (0x4000000000008421, .afence 0x8421),
    (0x443F000000000000, .ajoin),
    (0x4800000000000000, .anop)] : List (Nat × Instr)),
    decode .a p.1 = .ok p.2 := by decide

/-- V arithmetic (R110–R112): the words are written out from the layouts of spec/03, some with hint bits set. -/
theorem test_decode_v_arith : ∀ p ∈ ([
    (0x045B5D41F0000000, .vadd .f16 3 .rup 11 21 30),
    (0x0A606582E8000000, .vsub .i16 4 .dyn 12 22 29),
    (0x0CAC6DC3E0000000, .vmul .bf16 5 .rdn 13 23 28),
    (0x10197600DCC00000, .vfma .f32 3 .rne 14 24 27 19),
    (0x14217E40D5000000, .vfms .f32 4 .rne 15 25 26 20),
    (0x18298680CD400000, .vnfma .f32 5 .rne 16 26 25 21),
    (0x1EA08EC0C0000000, .vmin .i8 4 .dyn 17 27 24),
    (0x202A9700B8000000, .vmax .f32 5 .rtz 18 28 23),
    (0x2638760000000000, .vabs .i32 7 .dyn 14 24),
    (0x28797E4000000000, .vneg .f16 7 .rne 15 25),
    (0x2C129DC03F800000, .vaddi .f32 2 .rtz 19 23 0x3F800000),
    (0x3028E000DEADBEEF, .vmovi 5 28 0xDEADBEEF)] : List (Nat × Instr)),
    decode .v p.1 = .ok p.2 := by decide

/-- V compare, select, logic and shifts: the words are written out from the layouts of spec/03, some with hint bits set. -/
theorem test_decode_v_logic : ∀ p ∈ ([
    (0x34403B00B0000000, .vcmpEq .f16 0 7 12 22),
    (0x34483340B8040000, .vcmpNe .f16 1 6 13 23),
    (0x34502B80C0080000, .vcmpLt .f16 2 5 14 24),
    (0x345823C0C80C0000, .vcmpLe .f16 3 4 15 25),
    (0x34601C00D0100000, .vcmpGt .f16 4 3 16 26),
    (0x34681440D8140000, .vcmpGe .f16 5 2 17 27),
    (0x34700C80E0180000, .vcmpUn .f16 6 1 18 28),
    (0x38188E4049800000, .vsel 3 17 25 9 6),
    (0x3C106DC0F0000000, .vand 2 13 23 30),
    (0x3C187600E8040000, .vor 3 14 24 29),
    (0x3C207E40E0080000, .vxor 4 15 25 28),
    (0x3C288680D80C0000, .vandn 5 16 26 27),
    (0x3C30978000100000, .vnot 6 18 30),
    (0x42087600E8000000, .vsll .i32 1 14 24 29),
    (0x42507E40E0040000, .vsrl .i16 2 15 25 28),
    (0x42988680D8080000, .vsra .i8 3 16 26 27),
    (0x462086800000001F, .vslli .i32 4 16 26 31),
    (0x46688EC04000000F, .vsrli .i16 5 17 27 15),
    (0x46B0970080000007, .vsrai .i8 6 18 28 7)] : List (Nat × Instr)),
    decode .v p.1 = .ok p.2 := by decide

/-- V conversions and functions: the words are written out from the layouts of spec/03, some with hint bits set. -/
theorem test_decode_v_fn : ∀ p ∈ ([
    (0x48A5AEC000000000, .vcvt .bf16 .f32 false false 4 .sr 21 27),
    (0x48C9B70000020000, .vcvt .e4m3 .f32 true false 1 .rne 22 28),
    (0x4A10BF4000240000, .vcvt .i32 .i16 false false 2 .dyn 23 29),
    (0x4C9CA68000000000, .vroundi .bf16 3 .rdn 20 26),
    (0x500B644000000000, .vfexp2 1 .rup 12 17),
    (0x581B74C000000000, .vgetexp 3 .rup 14 19),
    (0x5C237D0000000000, .vgetmant 4 .rup 15 20),
    (0x602B854000000000, .vrcp 5 .rup 16 21),
    (0x64338D8000000000, .vrsq 6 .rup 17 22),
    (0x683B95C000000000, .vlog2 7 .rup 18 23),
    (0x54315D80F0000000, .vscaleb 6 .rne 11 22 30),
    (0x6C38660000000000, .vclass 7 12 24)] : List (Nat × Instr)),
    decode .v p.1 = .ok p.2 := by decide

/-- V reductions, moves, mask logic, loop and join, part 1: the words are written out from the layouts of spec/03, some with hint bits set. -/
theorem test_decode_v_move_1 : ∀ p ∈ ([
    (0x80226E4000000000, .vredSum .f32 4 .rtz 13 25),
    (0x8228768000040000, .vredMax .i32 5 .dyn 14 26),
    (0x80317EC000080000, .vredMin .f32 6 .rne 15 27),
    (0x84107EC040000000, .vperm 2 15 27 8),
    (0x8818800024400055, .vbcast 3 16 9 true 0x55),
    (0x8C20880000000000, .viota 4 17),
    (0x9028964000000000, .vmov 5 18 (.reg 25)),
    (0x9028900000040000, .vmov 5 18 .vw),
    (0x9028900000080000, .vmov 5 18 .col),
    (0x90289000000C0000, .vmov 5 18 .row),
    (0x9028900000100000, .vmov 5 18 .die),
    (0x9028900000140000, .vmov 5 18 .ctx),
    (0xA030980093C00056, .vpop 6 19 (.queue 4) 7 true 0x56)] : List (Nat × Instr)),
    decode .v p.1 = .ok p.2 := by decide

/-- V reductions, moves, mask logic, loop and join, part 2: the words are written out from the layouts of spec/03, some with hint bits set. -/
theorem test_decode_v_move_2 : ∀ p ∈ ([
    (0xA43805005A800057, .vpush 7 20 (.tile 22) 5 false 0x57),
    (0xA808054000000000, .vpute 1 21),
    (0xAE10B000F4F00058, .vdrain .i32 2 .dyn 22 30 19 3 0x58),
    (0xB00008C020000000, .vmand 0 1 3 4),
    (0xB008110028040000, .vmor 1 2 4 5),
    (0xB010194030080000, .vmxor 2 3 5 6),
    (0xB0182180380C0000, .vmandn 3 4 6 7),
    (0xB020298000100000, .vmnot 4 5 6),
    (0xB02831C000140000, .vmmov 5 6 7),
    (0xC0000000DFFFFFFE, .vloop 3 (.imm 131071) 4094),
    (0xC00000006000E011, .vloop 1 (.word 14 255) 17),
    (0xC400000000000000, .vjoin),
    (0xC800003F00000000, .vnop)] : List (Nat × Instr)),
    decode .v p.1 = .ok p.2 := by decide

/-- M words (R113–R115): the words are written out from the layouts of spec/03, some with hint bits set. -/
theorem test_decode_m : ∀ p ∈ ([
    (0x04000BFFFFFFFFFFE25AD0F000000000, .mset 5 (.imm 1048575) (BitVec.ofInt 24 (-1)) 1234567 (BitVec.ofInt 24 (-8388608))),
    (0x04066400016000002000004000007000, .mset 2 (.word 11 0x66) 1 2 3),
    (0x08500000000000000000000000000007, .mwin 7),
    (0x0C000000000000000000000000000011, .mfmt .e4m3 .e5m2),
    (0x1000000000000000000080000BFFFFFD, .msrc ⟨1, true, 2097151, 3, false, 1048577⟩),
    (0x14000000000000000000000000000000, .mgo),
    (0x180000000000000000000000000003FE, .mgoS 1022),
    (0x1C000000000000000000000080000001, .mzero 0x80000001),
    (0x200000000000000000000000000000A5, .malloc 0xA5),
    (0x2400000000000000000000000000005A, .mfree 0x5A),
    (0x2800000000000000000000000001D13E, .mclaim 30 9 20 3),
    (0x2C000000000000000000000000014D1D, .mrelease 29 8 19 2),
    (0x300000000000000000000640100048FC, .mdrain 28 7 18 (.spad 0x1000) .bf16 .rup),
    (0x3006700000000000000001000025C4DB, .mdrain 27 6 17 (.tile (.queue 5) 0x67) .i32 .dyn),
    (0x34068000000000000000000000000674, .mflags 26 (.tile 25) 0x68),
    (0x340690000000000000000000000008F3, .mflagsC 25 (.queue 3) 0x69),
    (0x3806A00000000000000000000000000C, .mchk 12 0x6A),
    (0x3C000000000000000000000000000000, .mwait),
    (0x400000000000000000000007FEFA11FA, .mloop 2 (.imm 999999) 4093),
    (0x4006B00000000000000000000280004D, .mloop 1 (.word 9 0x6B) 5),
    (0x44000000000000000000000000000000, .mjoin),
    (0x48000000000000000000000000000000, .mnop)] : List (Nat × Instr)),
    decode .m p.1 = .ok p.2 := by decide

/-- X words (R116, R117): the words are written out from the layouts of spec/03, some with hint bits set. -/
theorem test_decode_x : ∀ p ∈ ([
    (0x04C1B73FFFAA5865, .xcopy ⟨3, some 45, true, 1, 32766, some 677, 101⟩),
    (0x0902005FFF555866, .xconv ⟨4, none, false, 2, 32765, some 341, 102⟩),
    (0x0D43B27FFF000067, .xmcast ⟨5, some 44, false, 3, 32764, none, 103⟩),
    (0x1184AE9FFECF0868, .xcsr ⟨6, some 43, false, 4, 32763, some 240, 104⟩),
    (0x15C5ABBFFE800069, .xgather ⟨7, some 42, true, 5, 32762, none, 105⟩),
    (0x1A06A6DFFE40006A, .xscatter ⟨8, some 41, false, 6, 32761, none, 106⟩),
    (0x1E47A2FFFE00006B, .xsmd ⟨9, some 40, false, 7, 32760, none, 107⟩),
    (0x22889E1FFDC0006C, .xred ⟨10, some 39, false, 0, 32759, none, 108⟩),
    (0x26C99A3FFD80006D, .xamo ⟨11, some 38, false, 1, 32758, none, 109⟩),
    (0x2B0A005FFD40006E, .xmig ⟨12, none, false, 2, 32757, none, 110⟩),
    (0x2F4B007FFD00006F, .xlink ⟨13, none, false, 3, 32756, none, 111⟩),
    (0x338C009FFCC00070, .xchain ⟨14, none, false, 4, 32755, none, 112⟩),
    (0x400097F0FFFFFFFF, .xcask 37 63 4294967295),
    (0x4400900000000040, .xsig 36 64),
    (0x4800C30000000000, .xjoin 0xC3),
    (0x4C00000000004002, .xfence 0x4002),
    (0x5000404BF4600000, .xloop 1 (.imm 77777) 2048),
    (0x5000200003C00C6C, .xloop 0 (.word 15 0x6C) 3),
    (0x5400000000000000, .xhalt),
    (0x5800000000000000, .xnop)] : List (Nat × Instr)),
    decode .x p.1 = .ok p.2 := by decide

/-! ## Small states -/

/-- A context of job 1 with its code in the first MiB of HBM. -/
def ctx1 (system : Bool) : Ctx := newCtx
  { job := 1, ctx := 1, system := system, codebase := 0, codebound := 0x100000, trapvec := 0x20000, ptroot := 2 ^ 63 + 0x80000,
    savebase := 0, logbase := 0, frqbase := 0 }

/-- An engine that runs at 0x10000. -/
def up (x : Eng) : Eng := { x with state := .running, pc := 0x10000 }

/-- A core with a detached launch of context 1, every domain Awake and every engine running. -/
def core1 : Core := { Core.reset ⟨0, 0, 0⟩ with
  enabled := true
  capmask := BitVec.allOnes 24
  resident := some ⟨1, 0, BitVec.allOnes 24, .detached, 0, 0, 0, 0, 0⟩
  doms := Vector.replicate 31 .awake
  ec := up Eng.reset
  ea := up Eng.reset
  ev := up Eng.reset
  em := up Eng.reset
  ex := up Eng.reset }

/-- A device of one core, with context 1. -/
def small (system : Bool) (f : Core → Core) : State := ⟨[], f core1, [], { Device.reset with ctxs := [ctx1 system] }⟩

/-- The same of a system context, unchanged. -/
def base : State := small true id

/-- A coupled register in a state of its flag. -/
def flagged {α : Type} (x : α) (f : Flag) : Coupled α := { Coupled.reset x with flag := f }

/-- A core whose word registers are all full. -/
def fullWords : State := small true fun c =>
  { c with regs := { c.regs with w := Vector.replicate 16 (flagged 0x1_0000_0005 .full) } }

/-- Pages of context 1 in every TLB of the core: 0 in HBM, 1 in HBM and not writable, 2 in SBM, 3 at the host. -/
def tlb1 : List TlbEntry :=
  [⟨1, 0, 16, 7, 0x1000⟩, ⟨1, 0x10000, 16, 3, 0x1008⟩, ⟨1, 0x20000, 16, 7 + 2 ^ 51, 0x1010⟩,
    ⟨1, 0x30000, 16, 7 + 2 ^ 52, 0x1018⟩]

/-- A core with those pages, and with s1 to s4 at a scratchpad address and at the pages 0, 2 and 3. -/
def paged : State := small true fun c => { c with
  tlbC := tlb1
  tlbA := tlb1
  tlbX := tlb1
  regs := { c.regs with s := ((((c.regs.s.set 1 0xFFFFFFFFFF000000).set 2 0x100).set 3 0x20100).set 4 0x30100) } }

/-- The home of a place. -/
def homeIn : CPlace → Option Home
  | .at_ _ h => some h
  | .stop _ => none

theorem placed_of_home {p : CPlace} {h : Home} (hp : homeIn p = some h) : ∃ s, p = .at_ s h := by
  cases p with
  | at_ s k => exact ⟨s, by simp only [homeIn, Option.some.injEq] at hp; rw [hp]⟩
  | stop o => simp [homeIn] at hp

/-! ## A witness for the hypotheses of each statement -/

/-- A core whose launch declares no use; one that has no capability; both fail in the order of the checks. -/
theorem witness_FailedChecksRaiseTheirFault :
    let noUse := small true fun c => { c with resident := some ⟨1, 0, 0, .detached, 0, 0, 0, 0, 0⟩ }
    let noCap := small true fun c => { c with capmask := 0 }
    let i : Instr := .add 3 1 2
    (i.stream = some .c ∧ noUse.precheck .c i = some (mkFault 0x07 1 0 0)) ∧
      base.contextIllegal .c .bsync = true ∧
      (noUse.contextIllegal .c i = false ∧ noUse.core.inHandler = false ∧ 1 ∈ i.caps noUse.core.mx ∧
        noUse.core.useMask.getLsbD 1 = false ∧ ∀ j ∈ i.caps noUse.core.mx, 1 ≤ j) ∧
      (noCap.contextIllegal .c i = false ∧ (∀ k ∈ i.caps noCap.core.mx, noCap.core.useMask.getLsbD k = true) ∧
        1 ∈ i.caps noCap.core.mx ∧ noCap.core.capmask.getLsbD 1 = false ∧ ∀ j ∈ i.caps noCap.core.mx, 1 ≤ j) ∧
      (small false id).precheck .c (.csrw 0x240 1) = some (mkFault 0x13 0 0x240 0) ∧ base.precheck .c i = none := by decide

/-- A word of a state whose capabilities are all used and present, and that its context does not make illegal. -/
def reaches (s : State) (i : Instr) : Bool :=
  !s.contextIllegal .c i && (i.caps s.core.mx).all fun k => s.core.useMask.getLsbD k && s.core.capmask.getLsbD k

theorem reaches_last {s : State} {i : Instr} (h : reaches s i = true) : Claim.reachesLastCheck s .c i := by
  simp only [reaches, Bool.and_eq_true, Bool.not_eq_true', List.all_eq_true] at h
  exact ⟨h.1, .inr fun k hk => (h.2 k hk).1, fun k hk => (h.2 k hk).2⟩

/-- Words that come to the last check, and fail it or pass it. -/
theorem witness_FailedChecksRaiseTheirFault_last :
    Claim.reachesLastCheck (small false id) .c (.csrw 0x240 1) ∧
      (small false id).privileged (.csrw 0x240 1) = some ⟨0x13, 0, 0x240, 0, 0⟩ ∧ Claim.reachesLastCheck base .c .eret ∧
      base.privileged .eret = some ⟨0x13, 0, 0, 0, 0⟩ ∧ Claim.reachesLastCheck base .c (.seize 0) ∧ base.privileged (.seize 0) = none :=
  ⟨reaches_last (by decide), by decide, reaches_last (by decide), by decide, reaches_last (by decide), by decide⟩

/-- A C stream in a delay slot, and two loop levels at the last word of their body, with two passes left and with one. -/
theorem witness_IssueMovesOnlyItsStream :
    (small true fun c => { c with ctl := { c.ctl with slot := some (some 0x40) } }).core.ctl.slot = some (some 0x40) ∧
    ∀ rem ∈ [1, 2],
      let l : Loop := ⟨3, 0xFFF8, rem⟩
      let s := small true fun c => { c with ec := { c.ec with loops := c.ec.loops.set 1 l } }
      (s.core.eng .c).loops[1] = l ∧ l.rem ≠ 0 ∧ s.core.ctl.slot = none ∧
        (s.core.eng .c).pc.toNat % 2 ^ 48 = l.lastAddr Engine.c.wordBytes % 2 ^ 48 ∧
        ∀ k : Fin 4, k ≠ 1 → (s.core.eng .c).loops[k].rem = 0 := by decide

/-- One result due among others, for every kind of destination at a bound of its range. -/
theorem witness_DueResultLands : ∀ p ∈ ([(.sreg 0, .word 5), (.sreg 63, .word 5), (.handlerReg 7, .word 1), (.pred 0, .word 1),
      (.pred 7, .word 1), (.areg 15, .word 1), (.word 15, .word 1), (.vreg 31 (BitVec.allOnes 128), .lanes zeroLanes),
      (.mreg 0 (BitVec.allOnes 128), .mask 1), (.tileRow 31 7 1 true, .lanes zeroLanes)] : List (Dest × LValue)),
    let l : Landing := ⟨p.1, p.2, 0, 1⟩
    let other : Landing := ⟨.sreg 1, .word 2, 3, 0⟩
    let s := small true fun c => { c with ec := { c.ec with landing := [other, l, other] } }
    (s.core.eng .c).landing = [other] ++ l :: [other] ∧ l.rem = 0 ∧ (∀ x ∈ [other] ++ [other], x.rem ≠ 0) ∧
      Memory.wf (s.core.tiles.t[31]).data = true := fun _ _ => ⟨rfl, rfl, by decide, rfl⟩

/-- The clauses at the bounds of their address classes. -/
theorem witness_CAccessFindsItsPlace :
    (0xFFFFFFFFFF000001 : Dword).toNat % 2 ≠ 0 ∧
    (classify (2 ^ 49) = .bad ∧ classify 0xFFFFFFFFFF800000 = .bad ∧ classify 0xFFFFFFFFFEFFFFF8 = .bad) ∧
    (classify 0 = .virt 0 ∧ classify (2 ^ 49 - 8) = .virt (2 ^ 49 - 8)) ∧
    (classify 0xFFFFFFFFFF000000 = .spad 0 0 ∧ classify 0xFFFFFFFFFF7FFFF8 = .spad 3 0x1FFFF8) ∧
    (small true fun c => { c with doms := c.doms.set 7 .retained }).touchSpad 0 0 = some (mkFault 0x04 7 0xFFFFFF 0) ∧
    base.touchSpad 0 0x1FFFF8 = none ∧
    (paged.translate .c 0x100 .write).1 = .ok (.hbm 0x100 false) 0xC7 ∧ (paged.translate .c 0x50000 .read).1 = .invalid ∧
    (paged.translate .c 0x10000 .write).1 = .forbidden 2 ∧ paged.core.ec.parked = none ∧
    (small true fun c => { c with ec := { c.ec with parked := some 0x100 } }).core.ec.parked = some 0x100 := by decide

theorem witness_LoadWordsComplete :
    Claim.load (.ldD 5 1 0 3) paged = some (5, 0xFFFFFFFFFF000000, 8, false, 3, 0) ∧
    Claim.load (.ldAcqW 5 1 ⟨2, 4⟩ 3) paged = some (5, 0xFFFFFFFFFF000000, 4, true, 3, 0x1C) ∧
    paged.precheck .c (.ldD 5 1 0 3) = none ∧ paged.precheck .c (.ldAcqW 5 1 ⟨2, 4⟩ 3) = none ∧
    paged.spadHolds 0xFFFFFFFFFF000000 3 0 = false ∧
    (∃ s', paged.cPlace 0xFFFFFFFFFF000000 8 .read false = .at_ s' (.spad ⟨0, 0, 0⟩ 0)) :=
  ⟨by decide, by decide, by decide, by decide, by decide, placed_of_home (by decide)⟩

set_option maxRecDepth 4000 in
/-- A store to the scratchpad, and one to a virtual address; an LDW into an empty register. -/
theorem witness_StoresAndLongLoadsComplete :
    (Claim.store (.stB 5 1 (BitVec.ofInt 8 (-128)) 3) paged = some (0, 0xFFFFFFFFFEFFFF80, 1, false, 3, 0)) ∧
    (Claim.store (.stD 5 1 127 3) paged = some (0, 0xFFFFFFFFFF0003F8, 8, false, 3, 0) ∧
      paged.precheck .c (.stD 5 1 127 3) = none ∧ paged.spadHolds 0xFFFFFFFFFF0003F8 3 0 = false ∧
      ∃ s', paged.cPlace 0xFFFFFFFFFF0003F8 8 .write false = .at_ s' (.spad ⟨0, 0, 0⟩ 0x3F8)) ∧
    (Claim.store (.stw 5 2 0 3) paged = some (0, 0x100, 8, true, 3, 0) ∧ paged.precheck .c (.stw 5 2 0 3) = none ∧
      paged.spadHolds 0x100 3 0 = false ∧ ∃ s', paged.cPlace 0x100 8 .write true = .at_ s' (.hbm 0x100 false)) ∧
    (paged.precheck .c (.ldw 15 2 255 3) = none ∧ (paged.core.regs.w[15]).canWrite .c = true ∧
      paged.spadHolds (paged.core.readS 2) 3 0 = false ∧
      ∃ s', paged.cPlace (paged.core.readS 2) 8 .read true = .at_ s' (.hbm 0x100 false)) :=
  ⟨by decide, ⟨by decide, by decide, by decide, placed_of_home (by decide)⟩,
    ⟨by decide, by decide, by decide, placed_of_home (by decide)⟩,
    ⟨by decide, by decide, by decide, placed_of_home (by decide)⟩⟩

set_option maxRecDepth 4000 in
/-- An atomic on the scratchpad, on SBM, on a host that supports none, and one that has performed. -/
theorem witness_AtomicWordsComplete :
    (Claim.atomic (.casD 5 1 2 3) paged = some (5, 0xFFFFFFFFFF000000, 16, 8, 0x100, 0, 3) ∧
      paged.precheck .c (.casD 5 1 2 3) = none ∧ paged.core.ctl.amo = none ∧ paged.spadHolds 0xFFFFFFFFFF000000 3 0 = false ∧
      ∃ s', paged.cPlace 0xFFFFFFFFFF000000 8 .atomic true = .at_ s' (.spad ⟨0, 0, 0⟩ 0)) ∧
    (Claim.atomic (.amoAddW 5 3 2 3) paged = some (5, 0x20100, 0, 4, 0x100, 0, 3) ∧
      paged.precheck .c (.amoAddW 5 3 2 3) = none ∧ paged.spadHolds 0x20100 3 0 = false ∧
      (∃ s', paged.cPlace 0x20100 4 .atomic true = .at_ s' (.sbm 0x100)) ∧
      (∀ c off, Home.sbm 0x100 ≠ .spad c off) ∧ paged.dev.amoSupported (.sbm 0x100) 0 = true) ∧
    (Claim.atomic (.amoSminW 5 4 2 3) paged = some (5, 0x30100, 4, 4, 0x100, 0, 3) ∧
      (∃ s', paged.cPlace 0x30100 4 .atomic true = .at_ s' (.host 0x100)) ∧
      paged.dev.amoSupported (.host 0x100) 4 = false) ∧
    (small true fun c => { c with ctl := { c.ctl with amo := some (7, some 9) } }).core.ctl.amo = some (7, some 9) :=
  ⟨⟨rfl, by decide, by decide, by decide, placed_of_home (by decide)⟩,
    ⟨rfl, by decide, by decide, placed_of_home (by decide), by intros; simp, by decide⟩,
    ⟨rfl, placed_of_home (by decide), by decide⟩, by decide⟩

/-- An access of one unit at the head of the queue. -/
def accessing (op : AccOp) (h : Home) (size data : Nat) : State := small true fun c =>
  { c with accesses := [⟨1, .c, 0, 0, op, [⟨h, 0, size, 0, data, 0, none, none, false⟩], 0, true, []⟩] }

theorem wf_nil : Memory.wf [] = true := rfl

theorem small_canonical (op : AccOp) (h : Home) (size data : Nat) :
    (accessing op h size data).dev.canonical ∧ (accessing op h size data).coresCanonical := by
  refine ⟨⟨rfl, rfl, rfl, rfl, rfl, rfl, rfl⟩, ?_, ?_⟩
  · intro c hc
    have tiles (t : Coupled Memory) (ht : t ∈ Tiles.reset.t.toList) : Memory.wf t.data = true := by
      have : t = Coupled.reset [] := by simpa [Tiles.reset, Vector.toList] using ht
      rw [this]; rfl
    simp only [State.cores, accessing, small, List.nil_append, List.mem_cons, List.not_mem_nil, or_false] at hc
    rcases hc with rfl | rfl <;> exact ⟨rfl, rfl, rfl, rfl, tiles⟩
  · intro x hx i hi
    simp only [accessing, small, List.mem_singleton] at hx
    subst hx
    rcases hi

/-- A store of one byte at the last byte of the scratchpad, and of eight bytes in SBM. -/
theorem witness_StorePerforms :
    (∀ p ∈ ([(.spad ⟨0, 0, 0⟩ 0x1FFFFF, 1), (.sbm 0x100, 8)] : List (Home × Nat)),
      let s := accessing .store p.1 p.2 0xAB
      ∃ a u, s.core.accesses[0]? = some a ∧ a.units = [u] ∧ u.home = p.1 ∧ a.op = .store ∧ u.tag = 0 ∧ 0 < u.size ∧
        u.size ≤ 8) ∧
    (accessing .store (.spad ⟨0, 0, 0⟩ 0x1FFFFF) 1 0xAB).canPerform 0 = true ∧
    Claim.plain (accessing .store (.spad ⟨0, 0, 0⟩ 0x1FFFFF) 1 0xAB) (.spad ⟨0, 0, 0⟩ 0x1FFFFF) ∧
    (accessing .store (.spad ⟨0, 0, 0⟩ 0x1FFFFF) 1 0xAB).dev.canonical ∧
    (accessing .store (.spad ⟨0, 0, 0⟩ 0x1FFFFF) 1 0xAB).coresCanonical ∧
    Claim.logRoom (accessing .store (.spad ⟨0, 0, 0⟩ 0x1FFFFF) 1 0xAB) 1 := by
  refine ⟨?_, by decide, ?_, (small_canonical _ _ _ _).1, (small_canonical _ _ _ _).2, ?_⟩
  · intro p hp
    simp only [List.mem_cons, List.not_mem_nil, or_false] at hp
    rcases hp with rfl | rfl <;> exact ⟨_, _, rfl, rfl, rfl, rfl, rfl, by decide, by decide⟩
  · exact ⟨_, List.mem_singleton.2 rfl, rfl⟩
  · intro c hc
    right
    have : some (ctx1 true) = some c := hc
    cases this
    decide

set_option maxRecDepth 4000 in
/-- A context whose gyle is open and protected, with room in its log. -/
theorem witness_HostWriteIsHeld :
    base.dev.ctx 1 = some (ctx1 true) ∧ (ctx1 true).unprot = false ∧ (ctx1 true).used + 1 ≤ (ctx1 true).logCapacity ∧
      Memory.wf base.dev.host = true := by decide

/-- An AMO of each bound of its functions and a CAS, at the scratchpad; a CAS whose comparand is equal, and one whose is
not. -/
theorem witness_AtomicPerforms : ∀ p ∈ ([(0, 4, 0), (8, 8, 0), (16, 8, 0), (16, 4, 1)] : List (Nat × Nat × Dword)),
    let s := accessing (.amo p.1 p.2.1 5 p.2.2) (.spad ⟨0, 0, 0⟩ 8) p.2.1 0
    (p.1 < 9 ∨ p.1 = 16) ∧ (p.2.1 = 4 ∨ p.2.1 = 8) ∧ s.canPerform 0 = true ∧ s.core.accesses.length = 1 := by decide

/-- A load at the scratchpad; data of an LDW that arrive; a tile whose data have all come. -/
theorem witness_LoadsPerform :
    (let s := accessing (.load 8 false) (.spad ⟨0, 0, 0⟩ 0x1FFFF8) 8 0;
      s.canPerform 0 = true ∧ s.core.accesses.length = 1) ∧
    (small true fun c => { c with arrivals := [(15, 9)] }).core.arrivals = [(15, 9)] ∧
    (let tile : Coupled Memory := { flagged [] (.filling .a) with outstanding := true };
      let s := small true fun c => { c with tiles := { c.tiles with t := c.tiles.t.set 31 tile } };
      (s.core.tiles.t[31]).outstanding = true ∧ (s.core.tiles.t[31]).flag = .filling .a ∧
        s.core.tileLoading 31 = false) := by decide

/-! ## Values: the worked values of 04 and 05, as the spec gives them -/

/-- 04, the table of worked T8 decodes and RNE encodes: the two decodes. -/
theorem test_t8_decode : numEq (decodeT8 0x5B) (.fin false 11 0) = true ∧ numEq (decodeT8 0x96) (.fin true 7 (-5)) = true := by
  decide

/-- 04, the same table: the encodes, with both saturation modes of the last line. -/
theorem test_t8_encode : (encodeFp .t8 .rne true (.fin false 100 0)).1 = 0x45 ∧
    (encodeFp .t8 .rne true (.fin false 112 0)).1 = 0x46 ∧ (encodeFp .t8 .rne true (.fin false 63 (-4))).1 = 0x50 ∧
    (encodeFp .t8 .rne true (.fin true 1 (-13))).1 = 0x00 ∧ (encodeFp .t8 .rne true (.fin false 2000 0)).1 = 0x41 ∧
    (encodeFp .t8 .rne false (.fin false 2000 0)).1 = 0x40 := by
  decide

/-- 04, the worked A56 values. -/
theorem test_a56 : a56Pack (.fin false 1 0) = 0x7FD00000000000 ∧
    a56Pack (.fin false (2 ^ 46 + 3) (-46)) = 0x7FD00000000001 ∧
    a56Pack (.fin false (2 ^ 23 + 7) (-3)) = 0x84D00000E00000 ∧
    numEq (a56Unpack 0x84D00000E00000) (.fin false (2 ^ 23 + 7) (-3)) = true := by
  decide

/-- 04, the terms of the worked group: products 0 to 3 and the accumulator. -/
def workedGroup : List Machine.Num :=
  ([(0x4480, 0x4480), (0x3F40, 0x3F00), (0x3E40, 0x3F00), (0xBF81, 0x3F00)].map fun (p : Nat × Nat) =>
    (numMul (decodeFp .bf16 p.1) (decodeFp .bf16 p.2)).1) ++ [a56Unpack 0x7FD00000000000]

/-- 04, the worked group sum: WIN 0 drops bits and sets the husk flag, WIN 5 keeps every bit. -/
theorem test_group : windowSum workedGroup (windowWidth 0) false = (0x84D00000E00000, true) ∧
    windowSum workedGroup (windowWidth 5) false = (0x84D00000F70000, false) := by
  decide

/-- 04, the drains of those results to FP32 with RNE. -/
theorem test_group_drain : (encodeFp .f32 .rne true (a56Unpack 0x84D00000E00000)).1 = 0x49800007 ∧
    (encodeFp .f32 .rne true (a56Unpack 0x84D00000F70000)).1 = 0x49800008 := by
  decide

/-- 04, the first three states of a generator loaded with 1. -/
theorem test_lfsr : lfsrStep 1 = 0x80200003 ∧ lfsrStep 0x80200003 = 0xC0300002 ∧ lfsrStep 0xC0300002 = 0x60180001 := by
  decide

/-- 04, the VCVT of 1.03125 to T8 with stochastic rounding: lanes 0, 1 and 2. -/
theorem test_stochastic :
    [0, 1, 2].map (fun (k : Nat) => (encodeFp .t8 (srMode 0x80200003 k .t8) true (.fin false 33 (-5))).1) =
      [0x61, 0x61, 0x60] := by
  decide

/-- The result that a C word puts in flight, and its latency, with s1 and s2 as given. -/
def inFlight (i : Instr) (a b : Dword) : List (LValue × Nat) :=
  match exec i (small true fun c => { c with regs := { c.regs with s := (c.regs.s.set 1 a).set 2 b } }) with
  | .next t => t.core.ec.landing.map fun l => (l.val, l.rem)
  | _ => []

/-- 05 R153: shifts by b[5:0], the arithmetic one with its sign; signed and unsigned least values. -/
theorem test_shifts : inFlight (.sll 3 1 2) 3 65 = [(.word 6, 1)] ∧
    inFlight (.sra 3 1 2) 0x8000000000000000 63 = [(.word 0xFFFFFFFFFFFFFFFF, 1)] ∧
    inFlight (.min 3 1 2) 0xFFFFFFFFFFFFFFFF 1 = [(.word 0xFFFFFFFFFFFFFFFF, 1)] ∧
    inFlight (.minu 3 1 2) 0xFFFFFFFFFFFFFFFF 1 = [(.word 1, 1)] := by
  decide

/-- 05 R153: the corners of division, and the upper halves of products. -/
theorem test_division : inFlight (.div 3 1 2) 0x8000000000000000 0xFFFFFFFFFFFFFFFF = [(.word 0x8000000000000000, 18)] ∧
    inFlight (.rem 3 1 2) 5 0 = [(.word 5, 18)] ∧
    inFlight (.rem 3 1 2) 0xFFFFFFFFFFFFFFF9 2 = [(.word 0xFFFFFFFFFFFFFFFF, 18)] ∧
    inFlight (.mulh 3 1 2) 0xFFFFFFFFFFFFFFFF 2 = [(.word 0xFFFFFFFFFFFFFFFF, 3)] ∧
    inFlight (.mulhu 3 1 2) 0xFFFFFFFFFFFFFFFF 2 = [(.word 1, 3)] := by
  decide

/-- 05 R153: leading zeros and set bits. -/
theorem test_counts : inFlight (.clz 3 1) 0 0 = [(.word 64, 1)] ∧ inFlight (.clz 3 1) 0x100 0 = [(.word 55, 1)] ∧
    inFlight (.popc 3 1) 0xF0F 0 = [(.word 8, 1)] := by
  decide

/-- 05 R155, its example: the two LUIs after `li s1, 1` make 0x0000_0010_0000_0003. -/
theorem test_lui : inFlight (.lui 1 0) 1 0 = [(.word 0x40000, 1)] ∧ inFlight (.lui 1 3) 0x40000 0 = [(.word 0x1000000003, 1)] ∧
    inFlight (.li 1 0x3FFFF) 0 0 = [(.word 0xFFFFFFFFFFFFFFFF, 1)] := by
  decide

/-- 07 R199: RM = sr in VADD.i32 and in VAND, whose RM is reserved, and in VADD.f32; the same words with RM = 0 decode. -/
theorem test_rm_sr :
    (∀ w ∈ [(1 * 2 ^ 58 + 8 * 2 ^ 54 + 1 * 2 ^ 43 + 2 * 2 ^ 38 + 3 * 2 ^ 27 : Nat),
        15 * 2 ^ 58 + 1 * 2 ^ 43 + 2 * 2 ^ 38 + 3 * 2 ^ 27, 1 * 2 ^ 58 + 1 * 2 ^ 43 + 2 * 2 ^ 38 + 3 * 2 ^ 27],
      (decode .v w).toOption.isSome = true ∧ decode .v (w + 5 * 2 ^ 48) = .error .illegal) ∧
    decode .v (15 * 2 ^ 58 + 4 * 2 ^ 48 + 1 * 2 ^ 43 + 2 * 2 ^ 38 + 3 * 2 ^ 27) = .error (.reserved (.vand 0 1 2 3)) := by
  decide

theorem base_up : ∀ e, Claim.engineUp base e := by
  intro e
  refine ⟨fun d hd => ?_, fun _ => ⟨rfl, fun k hk => absurd hk List.not_mem_nil⟩⟩
  cases e <;> cases hd <;> decide

theorem fullWords_up : ∀ e, Claim.engineUp fullWords e := by
  intro e
  refine ⟨fun d hd => ?_, fun _ => ⟨rfl, fun k hk => absurd hk List.not_mem_nil⟩⟩
  cases e <;> cases hd <;> decide

/-- Every transfer, taken and not taken; LOOP at its longest body; the loop words with a count of 0, of their greatest
count, and of a full word register. -/
theorem witness_TransfersAndLoopsComplete :
    (∀ i ∈ [Instr.br 0 (BitVec.ofInt 20 (-524288)), .br 1 4, .brn 0 4, .brn 1 524287, .jmp 3, .call (BitVec.ofInt 18 (-1)),
        .calli 1, .ret], (Claim.transfer i base).isSome = true ∧ base.precheck .c i = none) ∧
    base.precheck .c (.loop 1 3 65535) = none ∧
    (∀ p ∈ [(Instr.aloop 3 (.imm 0) 4095, Engine.a), (.vloop 0 (.imm 131071) 1, .v), (.mloop 1 (.imm 1048575) 7, .m),
        (.xloop 2 (.imm 5) 9, .x)],
      (Claim.loop p.1).map Prod.fst = some p.2 ∧ base.precheck p.2 p.1 = none) ∧
    (∀ p ∈ [(Instr.aloop 3 (.word 15 255) 4095, Engine.a), (.vloop 0 (.word 0 255) 1, .v), (.mloop 1 (.word 3 9) 7, .m),
        (.xloop 2 (.word 4 0) 9, .x)],
      (Claim.loop p.1).map Prod.fst = some p.2 ∧ fullWords.precheck p.2 p.1 = none) ∧
    (∀ w : Fin 16, (fullWords.core.regs.w[w]).canRead false = true) ∧
    (∀ e, Claim.engineUp base e) ∧ ∀ e, Claim.engineUp fullWords e :=
  ⟨by decide, by decide, by decide, by decide, by decide, base_up, fullWords_up⟩

/-- The same core with A, V, M and X in one state. -/
def engines4 (x : EngState) : State := small true fun c => { c with
  ea := { c.ea with state := x }
  ev := { c.ev with state := x }
  em := { c.em with state := x }
  ex := { c.ex with state := x } }

/-- FORK of all four Idle engines, RENDEZ of joined ones, the JOIN words, and an engine that has joined. -/
theorem witness_StreamsForkAndJoin :
    ((engines4 .idle).precheck .c (.fork 15 60) = none ∧
      ∀ e ∈ forkSet 15, ((engines4 .idle).core.eng e).state = .idle ∧
        ∀ d ∈ e.dom?.toList, (engines4 .idle).core.awake d = true) ∧
    ((engines4 .joined).precheck .c (.rendez 15 0) = none ∧
      ∀ e ∈ forkSet 15, ((engines4 .joined).core.eng e).state = .joined ∨ ((engines4 .joined).core.eng e).state = .idle) ∧
    (∀ p ∈ [(Instr.ajoin, Engine.a), (.vjoin, .v), (.mjoin, .m), (.xhalt, .x)], base.precheck p.2 p.1 = none) ∧
    (∀ e ∈ [Engine.a, .v, .m], ((engines4 .joining).core.eng e).state = .joining ∧ ((engines4 .joining).core.eng e).landing = [] ∧
      (engines4 .joining).core.matrixBusy = false ∧ (engines4 .joining).core.tileWriting = false ∧
      vget (engines4 .joining).core.flt.drained e.num false = false ∧ (engines4 .joining).core.flt.stop = .run ∧
      (let s := { engines4 .joining with core := { (engines4 .joining).core with
          flt := { (engines4 .joining).core.flt with stop := .draining } } };
        s.core.flt.stop = .draining ∧ vget s.core.flt.drained e.num false = false ∧ (s.core.eng e).state = .joining)) ∧
    ∀ e, Claim.engineUp base e :=
  ⟨by decide, by decide, by decide, by decide, base_up⟩

/-- A core whose word register 7 another engine is filling, and whose word register 8 has a completing write of C outstanding. -/
def fillingWords : State := small true fun c => { c with regs := { c.regs with
  w := (c.regs.w.set 7 { flagged 0 (.filling .v) with writer := some .v }).set 8
    { flagged 0 (.filling .c) with outstanding := true, writer := some .c } } }

/-- The words that move data, where they go on and where they hold. -/
theorem witness_WordRegistersCouple :
    (∀ w : Fin 16, (base.core.regs.w[w]).canWrite .c = true ∧ (base.core.regs.w[w]).canWrite .a = true ∧
      (base.core.regs.w[w]).seen ≠ .full ∧ (fullWords.core.regs.w[w]).canRead false = true ∧
      (fullWords.core.regs.w[w]).seen = .full) ∧
    base.core.awake 2 = true ∧ base.precheck .c (.wput 15 63 255) = none ∧ base.precheck .a (.apush 0 15 0) = none ∧
    base.precheck .c (.wget 63 0 255) = none ∧ fullWords.precheck .c (.wput 0 1 16) = none ∧
    fullWords.precheck .c (.wget 0 15 255) = none ∧ fullWords.precheck .a (.apop 15 15 255) = none ∧
    fullWords.precheck .a (.apush 15 1 16) = none ∧ base.precheck .a (.apop 1 0 16) = none ∧
    (base.core.regs.w[(0 : Fin 16)]).seen = .empty ∧
    ((fillingWords.core.regs.w[(7 : Fin 16)]).seen = .filling .v ∧ fillingWords.precheck .c (.wput 7 1 16) = none ∧
      fillingWords.precheck .a (.apush 7 1 16) = none ∧ fillingWords.precheck .c (.wget 1 7 16) = none ∧
      fillingWords.precheck .a (.apop 1 7 16) = none ∧ fillingWords.core.awake 2 = true) ∧
    ((fillingWords.core.regs.w[(8 : Fin 16)]).seen = .filling .c ∧ (fillingWords.core.regs.w[(8 : Fin 16)]).outstanding = true ∧
      fillingWords.precheck .c (.wput 8 1 16) = none) := by decide

/-- A core whose cask 63 has two slots, the second of which is full and at the read pointer. -/
def casked : State := small true fun c => { c with
  xc := { c.xc with
    casks := c.xc.casks.set 63 ⟨true, 2, 1, 0, 64⟩
    slots := [(64 * 63 + 1, (⟨true, true, 70, 64⟩ : Slot).pack)] } }

theorem witness_CaskWordsComplete :
    casked.core.awake 5 = true ∧ casked.core.awake 2 = true ∧ (casked.core.xc.cask 63).valid = true ∧
      casked.core.xc.ready 63 = true ∧ casked.core.xc.filledNow 63 = true ∧ spWf casked.core.xc.slots = true ∧ casked.precheck .c (.ckwait 1 63 255) = none ∧
      casked.precheck .a (.aCkwait 1 63 255) = none ∧ casked.precheck .c (.ckrel 63) = none ∧
      casked.precheck .a (.aCkrel 63) = none ∧ casked.core.xc.freed = [] := by decide

/-- Each word that waits, its condition met; a fence behind a pending access of its mask, and a CLKWAIT with a divisor on
its way, which hold. -/
theorem witness_WaitingWordsPass :
    (∀ i ∈ [Instr.nop, .anop, .vnop, .mnop, .xnop, .apf 1 2 3 4 5, .fenceC 0xFFFF, .afence 1, .xfence 0x8000, .mwait, .clkwait],
      ∃ e ∈ engines, Claim.passes i base = some (e, true) ∧ base.precheck e i = none) ∧
    (let s := accessing .store (.spad ⟨0, 0, 0⟩ 0) 1 0;
      Claim.passes (.fenceC 1) s = some (.c, false) ∧ s.precheck .c (.fenceC 1) = none ∧
        Claim.passes (.fenceC 2) s = some (.c, true)) ∧
    (let s := small true fun c => { c with ex := { c.ex with request := some 8 } };
      Claim.passes .clkwait s = some (.c, false) ∧ s.precheck .c .clkwait = none) ∧ ∀ e, Claim.engineUp base e :=
  ⟨by decide, by decide, by decide, base_up⟩

theorem witness_ComputingWordsComplete :
    (∀ i ∈ [Instr.add 1 2 3, .sub 63 1 2, .and 1 2 3, .or 1 2 3, .xor 1 2 3, .sll 1 2 3, .srl 1 2 3, .sra 1 2 3, .min 1 2 3,
        .max 1 2 3, .minu 1 2 3, .maxu 1 2 3, .clz 1 2, .popc 1 2, .mul 1 2 3, .mulh 1 2 3, .mulhu 1 2 3, .div 1 2 0,
        .divu 1 2 0, .rem 1 2 0, .remu 1 2 0, .sel 0 1 2 3, .addi 1 2 2048, .andi 1 2 2047, .ori 1 2 0, .xori 1 2 1,
        .slli 1 2 63, .srli 1 2 0, .srai 1 2 63, .li 1 131072, .lui 1 262143],
      (Claim.scalar i base).isSome = true ∧ base.precheck .c i = none) ∧
    (∀ i ∈ [Instr.cmpEq 0 1 2, .cmpNe 7 1 2, .cmpLt 1 2 3, .cmpLtu 1 2 3, .cmpGe 1 2 3, .cmpGeu 1 2 3],
      (Claim.compare i base).isSome = true ∧ base.precheck .c i = none) ∧
    (∃ w, w < 2 ^ 32 ∧ w / 2 ^ 26 = 3 ∧ w / 2 ^ 4 % 2 ^ 4 < 6 ∧ w / 2 ^ 23 % 2 ^ 3 ≠ 0) ∧
    (decode .c 0x0C700050 = .ok (.cmpGeu 7 0 0) ∧ (Claim.compare (.cmpGeu 7 0 0) base).isSome = true) ∧
    base.core.awake 2 = true ∧ base.precheck .a (.aadd 15 0 1) = none ∧ base.precheck .a (.aaddi 0 15 0x80000000) = none := by
  refine ⟨by decide, by decide, ⟨0x0C800000, by decide⟩, by decide, by decide, by decide, by decide⟩

/-- A core whose domains are Off but for d.f. -/
def dark : State := small true fun c => { c with doms := (Vector.replicate 31 Dom.off).set 0 .awake }

/-- STEEP of weight 7 and of weight 6; KILN.R of a domain with no work outstanding. -/
theorem witness_DomainWordsComplete :
    (∃ p, Claim.domains (.steep ⟨0x1A, none, none⟩) dark = some (.steep, p) ∧ dark.precheck .c (.steep ⟨0x1A, none, none⟩) = none ∧
      6 < Claim.weight (fun d => match dark.core.dom d with | .waking _ _ => true | _ => false) +
        Claim.weight fun d => p d && decide (dark.core.dom d = .off ∨ dark.core.dom d = .retained)) ∧
    (∃ p, Claim.domains (.steep ⟨0x18, none, none⟩) dark = some (.steep, p) ∧ dark.precheck .c (.steep ⟨0x18, none, none⟩) = none ∧
      Claim.weight (fun d => match dark.core.dom d with | .waking _ _ => true | _ => false) +
        Claim.weight (fun d => p d && decide (dark.core.dom d = .off ∨ dark.core.dom d = .retained)) ≤ 6) ∧
    (∃ p, Claim.domains (.kilnR ⟨0x40, some (15, 15), none⟩) base = some (.kilnR, p) ∧
      base.precheck .c (.kilnR ⟨0x40, some (15, 15), none⟩) = none ∧ ∀ d, p d = true → base.outstanding d = false) := by
  refine ⟨⟨_, rfl, by decide, by decide⟩, ⟨_, rfl, by decide, by decide⟩, ⟨_, rfl, by decide, fun d hd => ?_⟩⟩
  simp only [Bool.and_eq_true, decide_eq_true_eq] at hd
  have key : ∀ k : Fin 31, Claim.named ⟨0x40, some (15, 15), none⟩ k.val = true → base.outstanding k.val = false := by decide
  exact key ⟨d, hd.1.1⟩ hd.1.2

/-- A Waking domain whose count has run out, from Off and from Retained; a KILN.L of d.x that discards the credit of a copy of the core. -/
theorem witness_DomainsChangeState :
    (DomAct.kilnR ≠ .kilnL ∨ (0x7FFFFFFF : BitVec 31).getLsbD 5 = false) ∧
    (DomAct.kilnL ≠ .kilnL ∨ (0x7FFFFFDF : BitVec 31).getLsbD 5 = false) ∧
    (let s := small true fun c => { c with xc := { c.xc with held := [⟨c.id, 63, 1, 0, c.id, 9⟩] } };
      (0x20 : BitVec 31).getLsbD 5 = true ∧ s.core.xc.held.length = 1 ∧ s.core.dom 5 = .awake) ∧
    (∀ d ∈ [(0 : Fin 31), 1, 2, 3, 4, 5, 6, 7, 22, 23, 30], ∀ r ∈ [true, false],
      (small true fun c => { c with doms := c.doms.set d (.waking r 0) }).core.dom d.val = .waking r 0) := by decide

theorem witness_ControlRegistersAreGuarded :
    csrAccess 0x00F = none ∧ csrAccess 0xFFF = none ∧ csrAccess 0x102 = some (.none_, .rw) ∧ csrAccess 0x263 = some (.none_, .rw) ∧
    csrAccess 0x002 = some (.ro, .ro) ∧ csrAccess 0x101 = some (.ro, .rw) ∧ (small false id).sysAccess = false ∧
    base.sysAccess = true ∧ base.core.inHandler = false ∧ base.ctx.isSome = true ∧
    (∀ s ∈ [small false id, base], ∀ n ∈ ([0, 0x001, 0x002, 0x101, 0x102, 0x263] : List (BitVec 12)),
      reaches s (.csrr 1 n) = true ∧ reaches s (.csrw n 1) = true ∧ reaches s .eret = true ∧ reaches s (.seize 1) = true) ∧
    (let s := small true fun c => { c with flt := { c.flt with stop := .handler } };
      s.core.inHandler = true ∧ reaches s .eret = true) ∧
    ∀ n ∈ [0x10, 0x1F, 0x220, 0x224, 0x00B, 0x00C, 0x00D, 0x100, 0x101, 0x102, 0x226, 0x22A, 0x22D, 0x225, 0x227, 0x229, 0x230,
      0x240], (Claim.plainCsr n).isSome = true := by decide

/-- A core whose chain walk is active. -/
def walking : State := small true fun c => { c with xc := { c.xc with walk := { c.xc.walk with active := true } } }

theorem witness_ControlWordsComplete :
    base.precheck .c (.domq 63 30) = none ∧ base.precheck .c (.clkdiv .v 2) = none ∧ base.precheck .c .pwrack = none ∧
    base.precheck .c (.csrr 1 0) = none ∧ base.precheck .c (.csrw 0 1) = none ∧ base.precheck .c (.csrw 0x251 1) = none ∧
    (∀ p ∈ base.dev.packets, p.fresh = true) ∧
    (let s := { base with dev := { base.dev with mcgDie := 3, mcgRouter := 47, mcgGroup := 255, packets := [⟨false, 3, 47, 255, 0, 1, 0, 0, []⟩] } };
      s.precheck .c (.csrw 0x251 1) = none ∧ ∃ p ∈ s.dev.packets, p.fresh = false ∧ p.die = s.dev.mcgDie ∧
        p.router = s.dev.mcgRouter ∧ p.group = s.dev.mcgGroup) ∧
    walking.core.xc.walkBusy = true ∧ base.core.xc.walkBusy = false ∧ base.core.awake 5 = true ∧
    (128 : Dword).toNat % 128 = 0 ∧ (128 : Dword).toNat % 2 ^ 49 ≠ 0 := by decide

/-- A core in handler mode behind a stop of every engine. -/
def inHandler : State := small true fun c => { c with
  flt := { c.flt with stop := .handler, before := Vector.replicate 5 .running } }

theorem witness_FaultsAreTakenAndLeft :
    base.ctx = some (ctx1 true) ∧ base.rowOf base.core = none ∧ base.core.flt.raised = [] ∧ base.core.flt.stop = .run ∧
    (∀ e ∈ engines, (base.core.eng e).landing = []) ∧ (mkFault 0x17 63 0 0).code < 256 ∧
    base.precheck .c (.trap 63) = none ∧ inHandler.precheck .c .eret = none ∧ inHandler.rowOf inHandler.core = none ∧
    (let s := small true fun c => { c with
        csr := { c.csr with faultinfo := 0x17, epc := c.csr.epc.set 0 0x40 }
        flt := { c.flt with stop := .handler, savedSlot := some (some 0x80) } };
      s.precheck .c .eret = none ∧ s.core.flt.epcWritten = false ∧ s.core.csr.faultinfo.toNat % 2 ^ 8 = 0x17) ∧
    inHandler.core.flt.savedSlot = none ∧ (ctx1 true).id = inHandler.core.ctxId ∧
    (∀ e ∈ engines, (inHandler.core.eng e).landing = [] ∧ (inHandler.core.eng e).held = []) ∧ inHandler.core.accesses = [] := by
  refine ⟨rfl, rfl, rfl, rfl, by decide, by decide, by decide, by decide, rfl, by decide, rfl, rfl, by decide, rfl⟩

/-- A row of two columns whose words of C raise a fault, one after the other. -/
def rowed (stop : StopState) (f : Row → Row) (g : Core → Core) : State :=
  let core : Core := { core1 with
    resident := some ⟨1, 0, BitVec.allOnes 24, .wave, 0, 0, 1, 0, 5⟩
    flt := { core1.flt with stop := stop, before := Vector.replicate 5 .running } }
  let row : Row := ⟨5, 0, [⟨0, 0, 0⟩, ⟨0, 0, 1⟩], Vector.replicate 5 [], Vector.replicate 5 [], false,
    Vector.replicate 5 none, false, none, false, false⟩
  ⟨[], g core, [{ core with id := ⟨0, 0, 1⟩, resident := some ⟨1, 0, BitVec.allOnes 24, .wave, 0, 1, 1, 0, 5⟩ }],
    { Device.reset with ctxs := [ctx1 true], rows := [f row] }⟩

/-- A fault of the west column of a running row; a stopped row one of whose columns recorded it; the first and the last column to
issue ERET. -/
theorem witness_RowsStopAndReturn :
    (let s := (rowed .run id id).raise .m (mkFault 0x0B 3 12 0);
      (s.rowOf s.core).map Row.members = some [⟨0, 0, 0⟩, ⟨0, 0, 1⟩] ∧ (s.rowOf s.core).map Row.draining = some false ∧
        s.core.recorded.map Prod.fst = some .m ∧ s.core.accesses = [] ∧
        ∀ id ∈ [(⟨0, 0, 0⟩ : CoreId), ⟨0, 0, 1⟩], (s.coreAt id).flt.stop = .run ∧ id ∈ s.cores.map Core.id) ∧
    (let s := (rowed .stopped (fun r => { r with faulted := some .m }) id).raise .m (mkFault 0x0B 3 12 0);
      s.ctx.isSome = true ∧ (s.rowOf s.core).bind Row.faulted = some .m ∧ s.core.recorded.isSome = true ∧
        (s.coreAt ⟨0, 0, 1⟩).recorded = none ∧ (s.coreAt ⟨0, 0, 1⟩).resident.map Resident.col = some 1 ∧
        ∀ id ∈ [(⟨0, 0, 0⟩ : CoreId), ⟨0, 0, 1⟩], (s.coreAt id).flt.stop = .stopped ∧ id ∈ s.cores.map Core.id) ∧
    (let s := rowed .handler id id;
      s.precheck .c .eret = none ∧ (s.coreAt ⟨0, 0, 1⟩).flt.stop ≠ .returned ∧ (s.rowOf s.core).isSome = true) ∧
    (let s := rowed .returned id fun c => { c with flt := { c.flt with stop := .handler, savedSkip := 2 } };
      s.precheck .c .eret = none ∧ (s.coreAt ⟨0, 0, 1⟩).flt.stop = .returned ∧ Claim.skipOf s.core .c = 2 ∧
        Claim.skipOf (s.coreAt ⟨0, 0, 1⟩) .c = 0 ∧ s.core.csr.faultinfo.toNat % 2 ^ 8 ≠ 0x17) := by decide

/-- A hold one word past its bound and one at it, and one of A whose word has a page without a valid entry; a core at its watchdog's
limit, and one whose watchdog is off. -/
theorem witness_HoldsExpire :
    (let s := small true fun c => { c with
        ea := { c.ea with hold := some ⟨false, 5, some .m, some 16, 17, some (mkFault 0x09 0 1 0x50000)⟩ } };
      ∃ h, s.core.ea.hold = some h ∧ h.bound = some 16 ∧ h.producer = some .m ∧ h.count = 17 ∧
        h.first.map FaultRec.code = some 0x09) ∧
    (∀ n ∈ [16, 17], (small true fun c => { c with ec := { c.ec with hold := some ⟨false, 5, some .a, some 16, n, none⟩ } }
      ).core.ec.hold = some ⟨false, 5, some .a, some 16, n, none⟩) ∧
    (let s := small true fun c => { c with flt := { c.flt with wd := 300000000 } };
      s.ctx = some (ctx1 true) ∧ s.core.flt.stop = .run ∧ (ctx1 true).wdlimit ≠ 0 ∧
        3000 * (ctx1 true).wdlimit.toNat ≤ s.core.flt.wd ∧ s.watched = true) ∧
    base.core.flt.wd < 3000 * (ctx1 true).wdlimit.toNat := by
  refine ⟨⟨_, rfl, rfl, rfl, rfl, rfl⟩, by decide, ⟨rfl, rfl, by decide, by decide, by decide⟩, by decide⟩

/-- A core with a1 at the start of its scratchpad, a2 = 64, and its tiles t16 to t31 full. -/
def tiled : State := small true fun c => { c with
  regs := { c.regs with a := (c.regs.a.set 1 0xFFFFFFFFFF000000).set 2 64 }
  tiles := { c.tiles with t := vof 32 fun k => if 16 ≤ k then flagged [] .full else Coupled.reset [] } }

theorem tiled_ready (tops : List TileRef) (h : ∀ q, TileRef.queue q ∉ tops) : Claim.tileReady tiled tops :=
  ⟨by decide, by decide, rfl, rfl, fun q hq => absurd hq (h q)⟩

/-- A tile load of four rows at its first and last row; a unit of a tile load, at the end of its tile. -/
theorem witness_TileLoadsFillTheirTile :
    (tiled.rowPieces ⟨3, .tile 5, 1, 2, 3, 63, false, 0, 255⟩ false).length = 4 ∧
    (tiled.rowPieces ⟨3, .tile 5, 1, 2, 3, 63, false, 0, 255⟩ true)[3]?.isSome = true ∧
    (let s := accessing (.tileLoad 31 true) (.spad ⟨0, 0, 0⟩ 0) 8 0;
      s.canPerform 0 = true ∧ s.core.accesses.length = 1 ∧ Memory.wf (s.core.tiles.t[31]).data = true) := by decide

/-- The conditions on the pieces of a tile word that lies in the scratchpad. -/
def piecesOkB (s : State) (ps : List Piece) (indexed store : Bool) : Bool :=
  decide ((∀ p ∈ ps, p.ea.toNat % p.align = 0 ∧ p.classBad = none ∧ s.formatBad p indexed store = false) ∧
    s.banksAsleep ps = none) && ((ps.map Piece.pages).flatten ++ (ps.map s.scalePages).flatten).isEmpty

theorem pieces_ok {s : State} {ps : List Piece} {indexed store : Bool} (h : piecesOkB s ps indexed store = true) :
    Claim.piecesOk s ps indexed store := by
  simp only [piecesOkB, Bool.and_eq_true, decide_eq_true_eq, List.isEmpty_iff] at h
  refine ⟨h.1.1, h.1.2, ?_⟩
  rw [h.2]
  simp

/-- Every tile word, a load into an empty tile and a store from a full one; QDEF of a ring past t31, of none, and of the
whole file. -/
theorem witness_TileWordsComplete :
    (∀ p ∈ ([(.tld ⟨3, .tile 5, 1, 2, 3, 63, false, 0, 255⟩, false, 5), (.tldRaw ⟨3, .tile 0, 1, 2, 0, 4095, true, 0, 255⟩, false, 0),
        (.tst ⟨3, .tile 16, 1, 2, 31, 127, true, 1, 255⟩, true, 16), (.tldx ⟨3, .tile 7, 1, .tile 31, 2, 31, false, 255⟩, false, 7),
        (.tstx ⟨3, .tile 30, 1, .tile 31, 0, 0, false, 255⟩, true, 30)] : List (Instr × Bool × Fin 32)),
      tiled.precheck .a p.1 = none ∧ (Claim.tileWord p.1 tiled).any (fun (store, top, _, _, ps, idx) =>
        decide (store = p.2.1 ∧ top = .tile p.2.2 ∧ (idx = none ∨ idx = some (.tile 31))) &&
          piecesOkB tiled ps idx.isSome store) = true) ∧
    (tiled.core.tiles.t[(31 : Fin 32)]).seen = .full ∧
    (∀ k : Fin 32, k < 16 → (tiled.core.tiles.t[k]).canWrite .a = true) ∧
    (∀ k : Fin 32, 16 ≤ k → (tiled.core.tiles.t[k]).canRead false = true) ∧
    Claim.tileReady tiled [.tile 5] ∧ Claim.tileReady tiled [.tile 30, .tile 31] ∧ tiled.dev.canonical ∧
    (base.precheck .a (.qdef 7 31 2) = none ∧ base.precheck .a (.qdef 7 31 0) = none ∧ base.precheck .a (.qdef 7 0 32) = none ∧
      base.core.awake 1 = true ∧ base.core.awake 2 = true ∧ 32 < (31 : Fin 32).val + (2 : BitVec 6).toNat ∧
      (0 : Fin 32).val + (32 : BitVec 6).toNat ≤ 32 ∧ ∀ k : Fin 8, (base.core.tiles.tq[k]).valid = false) :=
  ⟨by decide, by decide, by decide, by decide, tiled_ready _ (by simp), tiled_ready _ (by simp),
    ⟨rfl, rfl, rfl, rfl, rfl, rfl, rfl⟩, by decide⟩

/-- A core with the pages of `paged`, and with its a1 in the one that can be written. -/
def tiledPage : State := small true fun c => { c with
  tlbA := tlb1
  regs := { c.regs with a := (c.regs.a.set 1 0x100).set 2 64 }
  tiles := { c.tiles with t := vof 32 fun k => if 16 ≤ k then flagged [] .full else Coupled.reset [] } }

/-- The conditions on pieces that lie in pages of the TLB of A. -/
def pagesOkB (s : State) (ps : List Piece) (indexed store : Bool) : Bool :=
  decide ((∀ p ∈ ps, p.ea.toNat % p.align = 0 ∧ p.classBad = none ∧ s.formatBad p indexed store = false) ∧ s.banksAsleep ps = none) &&
    ((ps.map Piece.pages).flatten ++ (ps.map s.scalePages).flatten).all fun va => decide (va < 2 ^ 49) &&
      match s.lookA va with
      | .leaf e _ _ => formatOk e && (!store || decide (ebits e 2 1 = 1 ∧ ebits e 4 1 = 0))
      | _ => false

theorem pages_ok {s : State} {ps : List Piece} {indexed store : Bool} (h : pagesOkB s ps indexed store = true) :
    Claim.piecesOk s ps indexed store := by
  simp only [pagesOkB, Bool.and_eq_true, decide_eq_true_eq, List.all_eq_true] at h
  refine ⟨h.1.1, h.1.2, fun va hva => ?_⟩
  obtain ⟨hlt, hl⟩ := h.2 va hva
  refine ⟨hlt, ?_⟩
  split at hl
  · rename_i e pb home he
    refine ⟨e, pb, home, he, by simp_all, fun hs => ?_⟩
    subst hs
    simp_all
  · cases hl

set_option maxRecDepth 8000 in
/-- A tile load and a tile store in a page of HBM, whose entry at 0x1000 they mark; QDEF of a ring that overlaps another queue, and of a
queue with a full tile. -/
theorem witness_TileWordsComplete_pages :
    (∀ p ∈ ([(.tld ⟨3, .tile 5, 1, 2, 3, 63, false, 0, 255⟩, false), (.tst ⟨3, .tile 16, 1, 2, 3, 63, true, 1, 255⟩, true)] : List (Instr × Bool)),
      tiledPage.precheck .a p.1 = none ∧ (Claim.tileWord p.1 tiledPage).any (fun (store, _, _, _, ps, idx) =>
        decide (store = p.2 ∧ ps.map Piece.pages ≠ []) && pagesOkB tiledPage ps idx.isSome store) = true) ∧
    tiledPage.lookA 0x100 = .leaf 7 16 0x1000 ∧ tiledPage.dev.canonical ∧ Claim.tileReady tiledPage [.tile 5] ∧
    (let s := small true fun c => { c with tiles := { c.tiles with
          t := c.tiles.t.set 9 (flagged [] .full), tq := (c.tiles.tq.set 1 ⟨true, 0, 0, 4, 4⟩).set 2 ⟨true, 0, 0, 4, 8⟩ } };
      s.precheck .a (.qdef 0 7 1) = none ∧ ¬Claim.ringIsApart s 0 7 1 ∧ Claim.ringIsApart s 2 0 4 ∧ ¬Claim.ringIsEmpty s 2 ∧
        Claim.ringIsEmpty s 1) := by
  refine ⟨by decide, by decide, ⟨rfl, rfl, rfl, rfl, rfl, rfl, rfl⟩, ⟨by decide, by decide, rfl, rfl, fun q hq => by simp at hq⟩,
    by decide, ?_, ?_, ?_, ?_⟩ <;> (simp only [Claim.ringIsApart, Claim.ringIsEmpty]; decide)

/-- One lane word of each kind, and every VMOV source. -/
theorem witness_LaneWordsComplete :
    (∀ i ∈ [Instr.vadd .f32 0 .dyn 1 2 3, .vsub .i8 7 .dyn 1 2 3, .vmul .f16 1 .rdn 1 2 3, .vfma .bf16 0 .rne 1 2 3 4,
        .vfms .f32 0 .rtz 1 2 3 4, .vnfma .f16 0 .rup 1 2 3 4, .vmin .f32 0 .dyn 1 2 3, .vmax .i16 0 .dyn 1 2 3,
        .vabs .i32 0 .dyn 1 2, .vneg .bf16 0 .dyn 1 2, .vaddi .f32 0 .dyn 1 2 0x3F800000, .vmovi 0 1 7, .vsel 0 1 2 3 4,
        .vand 0 1 2 3, .vor 0 1 2 3, .vxor 0 1 2 3, .vandn 0 1 2 3, .vnot 0 1 2, .vsll .i32 0 1 2 3, .vsrl .i16 0 1 2 3,
        .vsra .i8 0 1 2 3, .vslli .i32 0 1 2 31, .vsrli .i8 0 1 2 7, .vsrai .i16 0 1 2 15, .vroundi .f32 0 .dyn 1 2,
        .vfexp2 0 .dyn 1 2, .vscaleb 0 .dyn 1 2 3, .vgetexp 0 .dyn 1 2, .vgetmant 0 .dyn 1 2, .vrcp 0 .dyn 1 2,
        .vrsq 0 .dyn 1 2, .vlog2 0 .dyn 1 2, .vclass 0 1 2, .vperm 0 1 2 3, .viota 0 31, .vmov 0 1 (.reg 31), .vmov 0 1 .vw,
        .vmov 0 1 .col, .vmov 0 1 .row, .vmov 0 1 .die, .vmov 0 1 .ctx],
      (Claim.lane i base).isSome = true ∧ base.precheck .v i = none) ∧ base.core.awake 3 = true ∧ (2 ^ 24 - 1 : Nat) ≠ 0 := by decide

theorem witness_MaskWordsComplete :
    (∀ i ∈ [Instr.vcmpEq .f32 0 0 2 3, .vcmpNe .i8 0 7 2 3, .vcmpLt .f16 0 1 2 3, .vcmpLe .bf16 0 1 2 3, .vcmpGt .i32 0 1 2 3,
        .vcmpGe .i16 0 1 2 3, .vcmpUn .f32 0 1 2 3, .vmand 0 1 2 3, .vmor 0 1 2 3, .vmxor 0 1 2 3, .vmandn 0 1 2 3,
        .vmnot 0 1 2, .vmmov 0 1 2],
      (Claim.maskBit i base).isSome = true ∧ base.precheck .v i = none) ∧ base.core.awake 3 = true := by decide

theorem witness_ConversionsAndReductionsComplete :
    base.precheck .v (.vcvt .e4m3 .f32 true false 0 .sr 1 2) = none ∧ base.precheck .v (.vcvt .f32 .e2m1 true false 0 .dyn 1 2) = none ∧
    Ty.fp .e2m1 = false ∧ base.precheck .v (.vcvt .t8 .f32 false true 0 .rne 1 2) = none ∧
    (∀ i ∈ [Instr.vredSum .i32 0 .dyn 1 2, .vredMax .i32 1 .dyn 1 2, .vredMin .i32 1 .dyn 1 2, .vredSum .f32 0 .dyn 1 2],
      base.precheck .v i = none) ∧ base.core.awake 3 = true ∧ Claim.enabled base 1 2 = [] ∧
    Claim.enabled base 0 2 ≠ [] := by
  refine ⟨by decide, by decide, by decide, by decide, by decide, by decide, by decide, by decide⟩

/-- A gang row of two columns, its west column at hand. -/
def gang : State :=
  let core : Core := { core1 with resident := some ⟨1, 0, BitVec.allOnes 24, .wave, 0, 0, 1, 0, 5⟩ }
  let row : Row := ⟨5, 0, [⟨0, 0, 0⟩, ⟨0, 0, 1⟩], Vector.replicate 5 [], Vector.replicate 5 [], false,
    Vector.replicate 5 none, false, none, false, false⟩
  ⟨[], core, [{ core with id := ⟨0, 0, 1⟩, resident := some ⟨1, 0, BitVec.allOnes 24, .wave, 0, 1, 1, 0, 5⟩ }],
    { Device.reset with ctxs := [ctx1 true], rows := [row] }⟩

/-- A core with a claim of rows 3 to 9 of tile 31 for lane group 3, every bank allocated. -/
def claimed : State := small true fun c => { c with
  mx := { c.mx with alloc := 0xFF, claims := c.mx.claims.set 15 ⟨true, ⟨31, 3, 9, 3⟩⟩ } }

theorem witness_VectorMovesComplete :
    (fullWords.precheck .v (.vbcast 0 31 15 true 0) = none ∧ fullWords.core.awake 3 = true ∧
      (fullWords.core.regs.w[(15 : Fin 16)]).canRead true = true) ∧
    (tiled.precheck .v (.vpop 0 1 (.tile 31) 7 false 0) = none ∧ tiled.core.awake 1 = true ∧
      (tiled.core.tiles.t[tiled.core.tileFrom (.tile 31)]).canRead false = true) ∧
    (tiled.precheck .v (.vpush 0 1 (.tile 0) 7 false 0) = none ∧
      (tiled.core.tiles.t[tiled.core.tileTo (.tile 0)]).canWrite .v = true) ∧
    (∀ row ∈ [(3 : Fin 32), 9], claimed.precheck .v (.vdrain .f32 0 .dyn 1 31 row 3 255) = none ∧
      claimed.core.awake (23 + 31 / 4) = true ∧ claimed.core.mx.claims[(15 : Fin 16)] = ⟨true, ⟨31, 3, 9, 3⟩⟩) ∧
    (base.precheck .v (.vpute 0 1) = none ∧ base.east base.core = none) ∧
    (gang.precheck .v (.vpute 0 1) = none ∧ gang.east gang.core = some ⟨0, 0, 1⟩ ∧ (⟨0, 0, 1⟩ : CoreId) ≠ gang.core.id) := by
  decide

theorem witness_MatrixSetWordsComplete :
    (∀ i ∈ [Instr.mset 5 (.imm 1048575) 1 2 3, .mwin 7, .mfmt .mxfp8 .mxfp8, .msrc ⟨3, true, 0, 0, false, 0⟩],
      (Claim.setMatrix i base.core.mx).isSome = true ∧ base.precheck .m i = none) ∧ base.core.awake 4 = true ∧
    fullWords.precheck .m (.mset 0 (.word 15 255) 1 2 3) = none ∧ fullWords.core.awake 4 = true ∧
    (fullWords.core.regs.w[(15 : Fin 16)]).canRead false = true := by decide

/-- Every bank allocated, a table of one step, and a window. -/
def readyNest (win : Fin 8) (trip : BitVec 20) : State := small true fun c => { c with
  mx := { c.mx with alloc := 0xFF, win := win, shadow := c.mx.shadow.set 0 ⟨trip, 0, 0, 0⟩ } }

/-- A nest at its first step of two, at its last step, and past it. -/
def nested (i : Nat) (done : Bool) : State := small true fun c => { c with
  mx := { c.mx with alloc := 0xFF, active := true, table := ⟨1, (Vector.replicate 6 Level.reset).set 0 ⟨2, 0, 0, 0⟩, 0, .bf16, .bf16,
    MSrc.reset, false, 0, (Vector.replicate 6 0).set 0 i, done, [], ⟨0, 0, 0⟩, ⟨0, 0, 0⟩⟩ } }

theorem witness_NestsRun :
    (∀ i ∈ [Instr.mgo, .mgoS 1023], base.precheck .m i = none) ∧ base.core.mx.active = false ∧
    (∃ l : Fin 6, ((readyNest 0 0).core.mx.shadow[l]).trip = 0) ∧
    (¬ (∃ l : Fin 6, ((readyNest 6 1).core.mx.shadow[l]).trip = 0) ∧ (readyNest 6 1).core.mx.active = false ∧
      6 ≤ (readyNest 6 1).core.mx.win.val ∧ ∀ k : Fin 16, ((readyNest 6 1).core.mx.claims[k]).valid = false) ∧
    (let s := readyNest 5 1; s.core.mx.win.val < 6 ∧ s.core.awake 4 = true ∧ s.core.awake 6 = true ∧
      (∀ b ∈ nestBanks s.core.mx.shadow s.core.mx.fa s.core.mx.fb s.core.mx.src true, s.touchSpad b.1 (b.2 * 2 ^ 17) = none) ∧
      ∀ t ∈ visited s.core.mx.shadow, s.core.awake (23 + t / 4) = true ∧ s.core.mx.alloc.getLsbD (t / 4) = true) ∧
    (let s := { readyNest 0 1 with core := { (readyNest 0 1).core with mx := { (readyNest 0 1).core.mx with alloc := 0xFE } } };
      0 ∈ visited s.core.mx.shadow ∧ s.core.mx.alloc.getLsbD 0 = false ∧
        ∀ t ∈ visited s.core.mx.shadow, s.core.awake (23 + t / 4) = true) ∧
    spWf (nested 0 false).core.mem.acc = true ∧
    ((nested 0 false).core.mx.nest.map Nest.done = some false ∧ (nested 1 false).core.mx.nest.map Nest.done = some false ∧
      (nested 0 false).core.flt.stop = .run ∧ vget (nested 0 false).core.flt.drained 3 false = false ∧ (nested 0 false).core.accesses = [] ∧
      (nested 1 true).core.mx.nest.map Nest.done = some true) := by decide

theorem witness_AccumulatorWordsComplete :
    (base.precheck .m (.malloc 0x81) = none ∧ base.core.awake 4 = true ∧
      ∀ b, b < 8 → base.core.awake (23 + b) = true) ∧
    (base.precheck .m (.mfree 0x81) = none ∧ base.core.busyTiles = [] ∧ base.core.mx.alloc.getLsbD 0 = false) ∧
    (claimed.precheck .m (.mfree 0x7F) = none ∧ (∀ b, b < 8 → claimed.core.mx.alloc.getLsbD b = true) ∧
      ∀ k : Fin 16, (claimed.core.mx.claims[k]).valid = true →
        (0x7F : BitVec 8).getLsbD ((claimed.core.mx.claims[k]).claim.tile.val / 4) = false) ∧
    (claimed.precheck .m (.mzero 0x40000001) = none ∧ claimed.core.busyTiles = [] ∧
      ∀ k : Fin 16, (claimed.core.mx.claims[k]).valid = true →
        (claimed.core.mx.claims[k]).claim.tile.val ≠ 30 ∧ (claimed.core.mx.claims[k]).claim.tile.val ≠ 0) ∧
    (claimed.precheck .m (.mclaim 31 10 31 0) = none ∧ (claimed.core.mx.claims[(0 : Fin 16)]).valid = false ∧
      ∀ k : Fin 16, (claimed.core.mx.claims[k]).valid = true → (claimed.core.mx.claims[k]).claim.lrow < (10 : Fin 32)) ∧
    (∀ k : Fin 16, (small true fun c => { c with mx := { c.mx with alloc := 1, claims := Vector.replicate 16 ⟨true, ⟨0, 0, 0, 0⟩⟩ } }
      ).core.mx.claims[k].valid = true) ∧
    (claimed.precheck .m (.mrelease 31 3 9 3) = none ∧ claimed.core.mx.claims[(15 : Fin 16)] = ⟨true, ⟨31, 3, 9, 3⟩⟩ ∧
      ∀ k : Fin 16, (claimed.core.mx.claims[k]).valid = true → (claimed.core.mx.claims[k]).claim ≠ ⟨31, 3, 9, 2⟩) := by decide

/-- A drain of the whole of a tile of small elements, of a scratchpad row, MFLAGS, MCHK, and a write whose data are there. -/
theorem witness_DrainsLand :
    (claimed.core.mx.writes.length < 15 ∧ claimed.core.busyTiles = [] ∧ claimed.core.awake 4 = true ∧
      claimed.core.awake 30 = true ∧ claimed.core.mx.alloc.getLsbD 7 = true) ∧
    (∀ k : Fin 16, (claimed.core.mx.claims[k]).valid = true → (claimed.core.mx.claims[k]).claim.tile = 31 →
      (claimed.core.mx.claims[k]).claim.lrow < (10 : Fin 32) ∨ (31 : Fin 32) < (claimed.core.mx.claims[k]).claim.frow) ∧
    claimed.precheck .m (.mdrain 31 10 31 (.spad 0x1FF500) .f32 .dyn) = none ∧
    claimed.precheck .m (.mdrain 31 10 31 (.tile (.tile 0) 255) .i8 .dyn) = none ∧
    claimed.precheck .m (.mflags 31 (.tile 31) 255) = none ∧ claimed.precheck .m (.mflagsC 0 (.tile 0) 255) = none ∧
    (∀ k : Fin 16, (claimed.core.mx.claims[k]).valid = true → (claimed.core.mx.claims[k]).claim.tile ≠ (0 : Fin 32)) ∧ spWf claimed.core.mem.acc = true ∧
    (claimed.core.awake 1 = true ∧ (claimed.core.tiles.t[claimed.core.tileTo (.tile 31)]).canWrite .m = true) ∧
    (claimed.precheck .m (.mchk 15 255) = none ∧ claimed.core.mx.active = false ∧
      (claimed.core.regs.w[(15 : Fin 16)]).canWrite .m = true) ∧
    (∀ d ∈ [MDest.spad 9, .word 15 7, .tile 31 [1, 2]],
      let s := small true fun c => { c with mx := { c.mx with writes := [⟨d, 1⟩] } };
      s.core.mx.writes[0]? = some ⟨d, 1⟩ ∧ s.core.flt.stop = .run ∧ s.core.accesses = [] ∧
        Memory.wf (s.core.tiles.t[(31 : Fin 32)]).data = true) := by decide

/-- A copy word whose descriptor lies at the start of the scratchpad. -/
def xd : XD := ⟨3, none, false, 7, 0, none, 3⟩

/-- A running launch of the core alone, with a communication step of one slot. -/
def launch1 : Launch := { newLaunch 0 0 5 0x40 1 { Record.empty with step := 1 } none with
  state := .running, members := [⟨0, 0, 0⟩] }

/-- Fields, each an offset, a size and a value, written into a memory. -/
def fields (m : Memory) (fs : List (Nat × Nat × Nat)) : Memory := fs.foldl (fun m f => writeLE m f.1 f.2.1 f.2.2) m

/-- A core with a descriptor in its scratchpad, a page that may be moved at 0, one of SBM at 0x20000, and a link program of
one hop at 0x200. -/
def shelf (fs : List (Nat × Nat × Nat)) : State :=
  let s := small true fun c => { c with
    tlbX := [⟨1, 0, 16, 7 + 16, 0x1000⟩, ⟨1, 0x20000, 16, 7 + 2 ^ 51, 0x1010⟩]
    mem := { c.mem with spad := fields [] fs } }
  { s with dev := { s.dev with
    launches := [launch1]
    hbm := fields [] [(0x200, 1, 1), (0x222, 1, 31), (0x223, 1, 31), (0x227, 1, 1)] } }

/-- Whether a request passes the checks. -/
def passesChecks (s : State) (op : Nat) : Bool :=
  match (s.checkCopy (xd.req op (Claim.descriptor s xd))).1 with
  | .ok _ => true
  | _ => false

theorem checks_of_pass {s : State} {op : Nat} (h : passesChecks s op = true) :
    ∃ hops s', s.checkCopy (xd.req op (Claim.descriptor s xd)) = (.ok hops, s') := by
  unfold passesChecks at h
  cases hc : s.checkCopy (xd.req op (Claim.descriptor s xd)) with
  | mk a b =>
    rw [hc] at h
    cases a with
    | ok hops => exact ⟨hops, b, rfl⟩
    | _ => cases h

/-- A descriptor for each opcode at which all checks pass: counts of 1, a type at its bound. -/
def shelves : List (Instr × Nat × List (Nat × Nat × Nat)) :=
  [(.xcopy xd, 1, [(0, 8, 0x100), (8, 8, 0xFFFFFFFFFF000400), (16, 2, 1), (18, 2, 1), (20, 2, 1), (22, 2, 1), (56, 1, 3)]),
    (.xconv xd, 2, [(8, 8, 0xFFFFFFFFFF000400), (20, 2, 1), (22, 2, 1), (24, 2, 1), (26, 2, 1), (28, 2, 1), (30, 2, 1), (32, 2, 1),
      (34, 4, 0x01010101)]),
    (.xmcast xd, 3, [(8, 8, 0xFFFFFFFFFF000400), (16, 4, 2 ^ 20), (24, 8, 1)]),
    (.xcsr xd, 4, [(52, 4, 1)]), (.xgather xd, 5, [(24, 4, 1), (28, 4, 65535)]), (.xscatter xd, 6, [(24, 4, 1), (28, 4, 1)]),
    (.xsmd xd, 7, [(8, 2, 16368), (10, 2, 16)]), (.xred xd, 8, [(8, 8, 0x20000), (16, 4, 1), (20, 1, 2)]),
    (.xamo xd, 9, [(0, 8, 0x20008), (24, 8, 2 ^ 21 - 8), (32, 1, 11), (33, 1, 1)]), (.xmig xd, 10, [(8, 8, 0x10000)]),
    (.xlink xd, 11, [(0, 8, 0x200), (24, 4, 4)])]

set_option maxRecDepth 4000 in
/-- Every copy word at a descriptor that passes, XMCAST to no core, and XCHAIN with a record and without one. -/
theorem witness_CopyWordsComplete :
    (∀ p ∈ shelves, let s := shelf p.2.2; Claim.copyWord p.1 = some (p.2.1, xd) ∧ s.precheck .x p.1 = none ∧
      s.core.xc.copies.length < 1024 ∧ s.core.awake (7 + 64 * xd.desc.val / 2 ^ 17 % 16) = true ∧
      passesChecks s p.2.1 = true ∧ (p.2.1 = 3 → fld (Claim.descriptor s xd) 24 8 ≠ 0)) ∧
    (let s := shelf [(8, 8, 0xFFFFFFFFFF000400), (16, 4, 8)]; s.precheck .x (.xmcast xd) = none ∧ passesChecks s 3 = true ∧
      fld (Claim.descriptor s xd) 24 8 = 0) ∧
    (∀ a ∈ [0, 0x80], let s := shelf [(0, 8, a)]; s.precheck .x (.xchain xd) = none ∧ s.core.xc.walkBusy = false ∧
      passesChecks s 12 = true) ∧ ∀ fs, Claim.engineUp (shelf fs) .x := by
  refine ⟨by decide, by decide, by decide, fun fs => ⟨fun d hd => ?_, fun _ => ⟨rfl, fun k hk => absurd hk List.not_mem_nil⟩⟩⟩
  cases hd; rfl

/-- A cask that is busy, one that is not, and one that is defined. -/
theorem witness_CaskAndJoinWordsComplete :
    (casked.precheck .x (.xcask 63 63 0) = none ∧ casked.core.xc.busy 63 = true ∧ casked.core.xc.busy 62 = false) ∧
    (casked.precheck .x (.xsig 63 0xFFFFFFFF) = none ∧ (casked.core.xc.cask 62).valid = false ∧
      (casked.core.xc.cask 63).valid = true) ∧ casked.precheck .x (.xjoin 0xFF) = none ∧ Claim.engineUp casked .x := by
  refine ⟨by decide, by decide, by decide, fun d hd => ?_, fun _ => ⟨rfl, fun k hk => absurd hk List.not_mem_nil⟩⟩
  cases hd; decide

/-- The copy that `newCopy` makes, numbered 7. -/
def copy7 : Copy := { (State.newCopy base (xd.req 1 []) 7 false) with left := 0 }

/-- A core with that copy changed by `f`, and one entry of the queue logic at its time. -/
def moving (f : Copy → Copy) : State := small true fun c => { c with
  xc := { c.xc with
    copies := [f copy7]
    entries := [⟨.copy 7, 0⟩]
    sigs := [⟨1, 63, 5, [8], true, false⟩, ⟨2, 63, 5, [7], false, false⟩] } }

/-- A credit below, at and past the bytes expected; a copy that enters; a credit on its way; signals that may and may not
set out; copies that are and are not complete. -/
theorem witness_CreditsMoveThroughQueues :
    (spWf casked.core.xc.slots = true ∧ (casked.core.xc.cask 63).wp < 64 ∧
      (casked.core.xc.slot 63 0).nom + 63 < (casked.core.xc.cask 63).exp ∧
      (casked.core.xc.cask 63).exp ≤ (casked.core.xc.slot 63 0).nom + 64 ∧ (casked.core.xc.cask 63).exp < 2 ^ 32 ∧
      (casked.core.xc.slot 63 0).act < 2 ^ 32) ∧
    (moving id).core.xc.entries = [⟨.copy 7, 0⟩] ∧
    (let x : Credit := ⟨⟨0, 0, 0⟩, 63, 5, 5, ⟨3, 5, 17⟩, 9⟩;
      let s := { base with dev := { base.dev with credits := [x] } }; s.dev.credits[0]? = some x ∧ x.core = s.core.id) ∧
    ((moving id).core.xc.sigs[0]? = some ⟨1, 63, 5, [8], true, false⟩ ∧ (∀ o ∈ (moving id).core.xc.copies, o.id ∉ [8]) ∧
      (moving id).core.xc.sigs[1]? = some ⟨2, 63, 5, [7], false, false⟩) ∧
    (∀ b ∈ [true, false], let k := { copy7 with sent := b, entered := true };
      (moving fun _ => k).core.copy? 7 = some k ∧ k.left = 0 ∧ (moving fun _ => k).core.xc.walk.open_ = []) ∧
    (∀ head ∈ [0, 0x200], (small true fun c => { c with xc := { c.xc with entries := [⟨.walk head 2 1, 0⟩] } }).core.xc.entries =
      [⟨.walk head 2 1, 0⟩]) := by decide

/-- A core whose walk stands at a record at 0x200. -/
def walks (fs : List (Nat × Nat × Nat)) : State :=
  let s := shelf []
  { s with
    core := { s.core with xc := { s.core.xc with walk := ⟨true, false, 0, 0x200, 2, 1, [], none⟩ } }
    dev := { s.dev with hbm := fields [] fs } }

/-- Whether the walk reads its record and it passes the checks. -/
def recordPasses (s : State) : Bool :=
  match s.translate .x s.core.xc.walk.addr .read with
  | (.ok h _, s') =>
    let p := bytesOf 128 (s'.readHome s'.core.ctxId h 128)
    s'.dev.homeReady h && decide (fld p 8 1 % 2 = 1) &&
      match recordReq p s.core.xc.walk.addr s.core.xc.walk.queue s'.sysAccess with
      | .ok r => match (s'.checkCopy r).1 with | .ok _ => true | _ => false
      | .error _ => false
  | _ => false

/-- A record of an XCOPY without and with OWN. -/
def walkRecord (own : Nat) : List (Nat × Nat × Nat) :=
  [(0x208, 2, 2 + own), (0x248, 8, 0xFFFFFFFFFF000400), (0x250, 2, 1), (0x252, 2, 1), (0x254, 2, 1), (0x256, 2, 1)]

set_option maxRecDepth 4000 in
theorem witness_StopsAreReported :
    (let k := { copy7 with stop := some ⟨none, false, 0x09, 1, 0x123, 0⟩ }; let s := moving fun _ => k;
      s.core.copy? 7 = some k ∧ (s.dev.ctx s.core.ctxId).isSome = true) ∧
    (let s := small true fun c => { c with aHalt := some ⟨none, false, 0x0A, 0, 0x123, 0⟩ };
      s.core.aHalt = some ⟨none, false, 0x0A, 0, 0x123, 0⟩ ∧ (s.dev.ctx s.core.ctxId).isSome = true) ∧
    (∀ own ∈ [0, 1], let s := walks (walkRecord own); s.core.xc.walk.active = true ∧ s.core.xc.walk.stop = none ∧
      s.core.xc.copies.length < 1024 ∧ recordPasses s = decide (own = 1) ∧
      (s.translate .x s.core.xc.walk.addr .read).1 = .ok (.hbm 0x200 false) 0x57) := by decide

/-- A row of the core and its east neighbour. -/
def row9 (barrier draining : Bool) : Row := ⟨9, 0, [⟨0, 0, 0⟩, ⟨0, 0, 1⟩], Vector.replicate 5 [],
  Vector.replicate 5 [], false, Vector.replicate 5 none, draining, none, barrier, false⟩

/-- The core in a column of a launch, with the row's barrier reached or not. -/
def atBarrier (mode : Mode) (col : Nat) (b : Bool) (f : Launch → Launch) : State :=
  let s := small true fun c => { c with resident := some ⟨1, 0, BitVec.allOnes 24, mode, 0, col, 1, 1, 9⟩ }
  { s with dev := { s.dev with launches := [f launch1], rows := [row9 b false] } }

/-- The core with every engine Idle or Joined, at an end word. -/
def atEnd (w : CWait) : State := small true fun c => { c with
  ea := Eng.reset
  ev := { Eng.reset with state := .joined }
  em := Eng.reset
  ex := Eng.reset
  ctl := { c.ctl with wait := w } }

set_option maxRecDepth 4000 in
/-- HALT and TEND; a core that retires at each; GYLE and BSYNC in every clause. -/
theorem witness_EndAndBarrierWordsComplete :
    (∀ i ∈ [Instr.halt, .tend], (atBarrier (if i = .halt then .detached else .task) 0 false id).precheck .c i = none) ∧
    (∀ w ∈ [CWait.halt, .tend], let s := atEnd w; s.core.flt.stop = .run ∧ s.canRetire = true ∧ s.core.ctl.wait = w ∧
      s.core.resident = some ⟨1, 0, BitVec.allOnes 24, .detached, 0, 0, 0, 0, 0⟩ ∧ s.dev.ctx 1 = some (ctx1 true) ∧
      spWf (ctx1 true).breg = true) ∧
    (let s := { rowed .run (fun r => { r with launch := 0 }) fun _ => { (atEnd .halt).core with
          resident := some ⟨1, 0, BitVec.allOnes 24, .wave, 0, 0, 1, 0, 5⟩ } with
        dev := { (rowed .run id id).dev with launches := [launch1] } };
      s.canRetire = true ∧ s.core.ctl.wait = .halt ∧ (s.rowOf s.core).map Row.members = some [⟨0, 0, 0⟩, ⟨0, 0, 1⟩] ∧
        (s.dev.launch 0).isSome = true) ∧
    base.core.ctl.wait ≠ .halt ∧ base.canRetire = false ∧
    (∀ b ∈ [[], [(⟨0, 0, 0⟩ : CoreId)]], ∀ p ∈ [(Mode.wave, 1), (.wave, 0), (.detached, 0)],
      let s := atBarrier p.1 p.2 false fun l => { l with passing := b };
      s.precheck .c .gyle = none ∧ s.launchOf s.core = some { launch1 with passing := b } ∧ s.core.resident.isSome = true) ∧
    (∀ col ∈ [0, 1], ∀ b ∈ [[], [(⟨0, 0, 0⟩ : CoreId)]], ∀ e ∈ [some 5, none], ∀ o ∈ [true, false],
      let l := { launch1 with barrierAt := some 2, commEnd := e, overrun := o, passing := b };
      let s := atBarrier .wave col true fun _ => l; s.precheck .c .bsync = none ∧ s.launchOf s.core = some l ∧
        ((s.dev.rows.find? fun w => decide (w.id = 9)).bind fun w => w.members.head?) = some ⟨0, 0, 0⟩) := by decide

set_option maxRecDepth 4000 in
/-- 14 R353: a BSYNC whose barrier is complete and whose communication step has not ended holds, and the barrier time stays. -/
theorem test_bsync_waits_for_its_step :
    (let l := { launch1 with barrierAt := some 2, passing := [(⟨0, 0, 0⟩ : CoreId)] };
      let s := atBarrier .wave 0 true fun _ => l;
      match exec .bsync s with
      | .next t => decide (t.dev = s.dev ∧ t.core.ec.pc = s.core.ec.pc) && t.core.ec.hold.isSome
      | _ => false) = true := by decide

/-- 09 R253, 01 R58: the words of X that a return holds count again when the next word of X comes to issue. -/
theorem test_x_words_replayed :
    (let s := base.modFocus fun c => { c with xc := { c.xc with waiting := [⟨.copy 5, 3⟩] } };
      (s.replayed .x).core.xc.entries = [⟨.copy 5, 3⟩] ∧ (s.replayed .x).core.xc.waiting = [] ∧
        (s.replayed .c).core.xc.waiting = [⟨.copy 5, 3⟩]) := by decide

/-- Two cores of a row, at a barrier word. -/
def pair (f g : Core → Core) (r : Row) (l : Launch) : State :=
  let s := small true f
  { s with
    right := [g { core1 with id := ⟨0, 0, 1⟩ }]
    dev := { s.dev with launches := [l], rows := [r] } }

theorem witness_RowsGoInStep :
    (∀ w ∈ [CWait.gyle, .bsync], ∀ k ∈ [0, 1],
      let s := pair (fun c => { c with ctl := { c.ctl with wait := w } }) (fun c => { c with ec := { c.ec with index := k } })
        (row9 false false) launch1;
      s.dev.rows.find? (fun w => decide (w.id = 9)) = some (row9 false false) ∧ (s.coreAt ⟨0, 0, 0⟩).ctl.wait = w ∧
        (s.coreAt ⟨0, 0, 0⟩).flt.stop = .run ∧
        decide ((s.coreAt ⟨0, 0, 1⟩).ec.index = (s.coreAt ⟨0, 0, 0⟩).ec.index) = decide (k = 0) ∧
        (s.coreAt ⟨0, 0, 1⟩).ec.state = .running ∧ (s.coreAt ⟨0, 0, 1⟩).flt.stop = .run) ∧
    (∀ b ∈ [512, 511], ∀ now ∈ [1023, 1024],
      let l := { launch1 with barrierAt := some b };
      let s := pair id id (row9 true false) l; let t := { s with dev := { s.dev with globalTime := BitVec.ofNat 64 now } };
      t.dev.launch 0 = some l ∧ l.record.step ≠ 0 ∧ l.commEnd = none ∧ b + 512 ≤ 1024 ∧ 1024 < b + 512 + 1024 ∧
        decide (1024 ≤ t.dev.nextTime) = decide (now = 1024)) ∧
    (∀ now ∈ [1087, 1088],
      let l := { launch1 with commStart := some 1024, commEnd := some 1088 };
      let s := pair id id (row9 true false) l; let t := { s with dev := { s.dev with globalTime := BitVec.ofNat 64 now } };
      t.dev.launch 0 = some l ∧ decide (1088 ≤ t.dev.nextTime) = decide (now = 1088)) ∧
    (let stop := fun c : Core => { c with flt := { c.flt with stop := .stopped } }; let s := pair stop stop (row9 false true) launch1;
      s.dev.rows.find? (fun r => decide (r.id = 9)) = some (row9 false true) ∧
        ∀ id ∈ (row9 false true).members, (s.coreAt id).flt.stop = .stopped ∧ ∃ c ∈ s.cores, c.id = id) := by decide

/-- A core whose job has the queue 4 from the device side, with `n` records in it, and a launch in a state. -/
def submitting (n : Nat) (x : LState) (binding : Option Nat) : State :=
  { paged with
    core := { paged.core with ctl := { paged.core.ctl with binding := binding } }
    dev := { paged.dev with
      launches := [{ launch1 with key := 3, queue := 4, state := x }]
      queues := paged.dev.queues.set 4 { Queue.reset with
        enable := false
        devq := true, job := 1, device := List.replicate n ⟨0x100, 1, ⟨0, 0, 0⟩, false, 9, none⟩ } } }

/-- The same with s5 naming queue 4 and SEQ 5, and s6 the job. -/
def cancelling : State :=
  let s := submitting 0 .ready none
  { s with core := { s.core with regs := { s.core.regs with s := (s.core.regs.s.set 5 0x400000005).set 6 1 } } }

set_option maxRecDepth 4000 in
theorem witness_LaunchWordsComplete :
    (∀ n ∈ [62, 63], ∀ i ∈ [Instr.launch 2, .tspawn 2], let s := submitting n .ready none;
      s.precheck .c i = none ∧ s.core.ctl.binding = none ∧ s.dev.deviceQueue (s.dev.ctxJob s.core.ctxId) = some 4 ∧
        decide (64 ≤ s.dev.heldLaunches 4 + (s.dev.queue 4).device.length) = decide (n = 63) ∧
        (s.core.readS 2).toNat % 64 = 0 ∧ classify (s.core.readS 2) = .virt 0x100 ∧
        (homeIn (s.cPlace (s.core.readS 2) 64 .read true)).isSome = true) ∧
    (let s := submitting 0 .running (some 3); s.precheck .c (.tspawn 2) = none ∧ s.core.ctl.binding = some 3 ∧
      s.dev.bindPending 3 = false) ∧
    (∀ i ∈ [Instr.cancelL 0, .cancelG 0, .cancelP 0],
      let s := submitting 0 .bound none; (i = .cancelL 0 ∨ (Claim.cancel i s).isSome = true) ∧ s.precheck .c i = none ∧
      ∀ l ∈ s.dev.launches, ∀ r ∈ s.core.resident.toList, r.launch ≠ l.key) ∧
    (let t := cancelling;
      (Claim.cancel (.cancelL 5) t).isSome = true ∧ (Claim.cancel (.cancelJ 6) t).isSome = true ∧
        t.precheck .c (.cancelL 5) = none ∧ t.precheck .c (.cancelJ 6) = none) ∧
    (let s := submitting 0 .ready none; (s.dev.queue ((s.core.readS 0).toNat / 2 ^ 32 % 16)).job ≠ s.dev.ctxJob s.core.ctxId ∧
      (s.core.readS 0).toNat % 2 ^ 16 ≠ s.dev.ctxJob s.core.ctxId ∧ s.precheck .c (.seize 0) = none) := by decide

/-- A context whose tree maps all of HBM's first 8 GiB by one entry at 0x80000. -/
def ctxR : Ctx := { ctx1 true with ptroot := 2 ^ 63 + 0x80000 }

/-- The device of that context, of job 1 with queue 5, the core free, and fields in HBM. -/
def rooted (q : Queue → Queue) (ls : List Launch) (fs : List (Nat × Nat × Nat)) : State :=
  ⟨[], { core1 with resident := none }, [], { Device.reset with
    ctxs := [ctxR]
    jobs := [newJob 1 1 false]
    queues := Device.reset.queues.set 5 (q { Queue.reset with enable := true, job := 1, sqtail := 1, nextSeq := 7 })
    launches := ls
    host := fields [] [(0, 8, 0x4000)]
    hbm := fields [] ((0x80000, 8, 7 + 3 * 2 ^ 49) :: fs) }⟩

/-- The fields of the record of a gang of one core, and of a task unit with one input cask of 2 bytes. -/
def gangFields : List (Nat × Nat × Nat) := [(0, 4, 0x84000000), (12, 2, 1), (20, 1, 9), (28, 4, 7), (32, 8, 0x10000)]

def taskFields : List (Nat × Nat × Nat) :=
  [(0, 4, 0x06000000), (12, 2, 1), (21, 1, 1), (32, 8, 0x10000), (48, 4, 63 + 128)]

/-- The record of fields. -/
def recordIn (fs : List (Nat × Nat × Nat)) : Record := recordOf (readBytes (fields [] fs) 0 64)

/-- Fields moved. -/
def movedBy (n : Nat) (fs : List (Nat × Nat × Nat)) : List (Nat × Nat × Nat) := fs.map fun f => (f.1 + n, f.2)

/-- The record of queue 5 read: what came of it, and the launch that it would be. -/
def readsGood (s : State) (key : Nat) : Bool :=
  match s.readLaunchRecord 1 0x4000 with
  | (.ok b, s') =>
    let r := recordOf b
    let l := newLaunch key 5 r.seq 0x4000 1 r none
    decide (r.seq = 7 ∧ r.mode ≠ 2) && !s'.rejects 5 none l && s'.couldPlace l
  | _ => false

/-- A completion record that waits. -/
def waits1 : Completion := ⟨1, 7, 0, 0, 0, 0x4000, false, 9, 1⟩

/-- The host's writes wait behind one that waits. -/
def hostParked : State := { base with dev := { base.dev with
  hostIf := { base.dev.hostIf with parked := [⟨0, 0, 0, 0, 1, 5, false, 0⟩] } } }

set_option maxRecDepth 4000 in
theorem witness_SubmissionsAreAccepted :
    (base.dev.hostIf.parked = [] ∧ (hostParked).dev.hostIf.parked ≠ []) ∧
    (((rooted id [] []).dev.queue 5).enable = true ∧ (base.dev.queue 5).enable = false ∧
      (0xE0001CC0 : BitVec 32).toNat / 2 ^ 8 % 2 ^ 4 ≤ 12 ∧ (0xE0001CC0 : BitVec 32).toNat / 2 ^ 4 % 2 ^ 4 ≤ 12) ∧
    (∀ q : Fin 16, ∃ ring : Fin 17, ring.val = q.val) ∧
    (let s := rooted id [] []; s.dev.heldLaunches 5 < 64 ∧ s.dev.nextEntry 5 = some (0x4000, 1, none) ∧
      (s.readLaunchRecord 1 0x4001).1 = .bad ∧ readsGood s 0 = false) ∧
    readsGood (rooted id [] (movedBy 0x4000 gangFields)) 0 = true ∧
    (∀ j ∈ ((rooted id [] []).dev.job 1).toList, (recordIn gangFields).graph ∉ j.cancelG ∧
      (recordIn gangFields).phase ∉ j.cancelP) ∧
    (∀ head ∈ [0, 15],
      let s := rooted (fun q => { q with cqtail := 15, cqhead := head, completions := [waits1] }) [] [];
      (s.dev.queue 5).completions = [waits1] ∧ Memory.wf s.dev.host = true ∧
        decide (((s.dev.queue 5).cqtail + 1) % 2 ^ (4 + (s.dev.queue 5).cqs) = (s.dev.queue 5).cqhead % 2 ^ (4 + (s.dev.queue 5).cqs))
          = decide (head = 0)) ∧
    (base.dev.ctx 4095 = none ∧ base.dev.job 2 = none) := by
  refine ⟨by decide, by decide, fun q => ⟨⟨q.val, by omega⟩, rfl⟩, by decide, by decide, by decide, by decide, by decide⟩

/-- A launch of a record in queue 5. -/
def launchOf5 (fs : List (Nat × Nat × Nat)) (x : LState) : Launch :=
  { newLaunch 3 5 7 0x4000 1 (recordIn fs) none with state := x }

/-- The core bound to launch 3, the slot of its cask filled. -/
def boundCore : State :=
  let s := rooted id [launchOf5 taskFields .bound] []
  { s with core := { s.core with
    resident := some ⟨1, 3, 0, .task, 0, 0, 0, 0, 0⟩
    bound := true
    xc := { s.core.xc with
      casks := s.core.xc.casks.set 63 ⟨true, 1, 0, 0, 2⟩
      slots := [(64 * 63, (⟨true, false, 2, 2⟩ : Slot).pack)] } } }

set_option maxRecDepth 4000 in
theorem witness_LaunchesRun :
    (∀ x ∈ [LState.waiting, .ready], let s := rooted id [launchOf5 gangFields x] [];
      s.dev.launch 3 = some (launchOf5 gangFields x) ∧
        s.dev.waitsMet false (s.dev.jobOf (launchOf5 gangFields x)) (recordIn gangFields) = true) ∧
    (let s := rooted id [] []; s.dev.pointer < 16 ∧ s.dev.idleVisits < 16 ∧ s.dev.candidate s.dev.pointer = none ∧
      16 ≤ ({ s with dev := { s.dev with idleVisits := 16 } } : State).dev.idleVisits) ∧
    (let l := launchOf5 gangFields .ready; let s := rooted id [l] []; let t := { s with dev := { s.dev with pointer := 5 } };
      t.dev.candidate t.dev.pointer = some l ∧ t.level = some 1 ∧ t.dev.priority l = some 1 ∧
        t.placing l = some (.gang 0 [([⟨0, 0, 0⟩], [])]) ∧ l.cost ≤ (t.dev.queue t.dev.pointer).deficit + l.record.weight) ∧
    (let l := launchOf5 taskFields .ready; let s0 := rooted id [l] []; let s := { s0 with dev := { s0.dev with pointer := 5 } };
      s.dev.idleVisits < 16 ∧ l.queue = s.dev.pointer ∧ s.dev.pointer < 16 ∧
      l.cost ≤ (s.dev.queue s.dev.pointer).deficit + l.record.weight ∧ s.dev.launch 3 = some l ∧ l.state = .ready ∧ l.record.mode = 2 ∧ s.dev.candidate l.queue = some l ∧
        (s.dev.priority l).isSome = true ∧ s.dev.priority l = s.level ∧ s.placing l = some (.bind ⟨0, 0, 0⟩) ∧
        (∃ c ∈ s.cores, c.id = ⟨0, 0, 0⟩) ∧ (l.record.casks.map Prod.fst).Nodup) ∧
    (boundCore.dev.launch 3 = some (launchOf5 taskFields .bound) ∧ boundCore.unitCore 3 = some ⟨0, 0, 0⟩ ∧
      (boundCore.coreAt ⟨0, 0, 0⟩).bound = true ∧ (∀ k ∈ (recordIn taskFields).casks,
        ((boundCore.coreAt ⟨0, 0, 0⟩).xc.slot k.1 0).filled = true) ∧ boundCore.dev.ctx 1 = some ctxR ∧ boundCore.mapDiffers (launchOf5 taskFields .bound) = false ∧
      (recordIn taskFields).ncask ≠ 0 ∧
      ({ boundCore with dev := { boundCore.dev with loaded := [⟨⟨1, 0, 0x10000, [], 0, 0, [], 0, 0, 0, 0, 0, 0⟩, 0, [[5]]⟩] } } : State
        ).mapDiffers (launchOf5 taskFields .bound) = true) ∧
    (∀ h ∈ [[⟨0, 0, 0⟩], []], let l := { launchOf5 gangFields .running with members := [⟨0, 0, 0⟩], halted := h };
      let s := rooted id [l] []; s.dev.launch 3 = some l ∧ l.record.mode ≠ 2 ∧ l.state = .running ∧ l.queue < 16 ∧
        decide (∀ id ∈ l.members, id ∈ l.halted) = decide (h ≠ []) ∧ l.record.cmpl = true ∧ l.record.sig ≠ 0 ∧
        s.dev.job (s.dev.queue l.queue).job = some (newJob 1 1 false) ∧ s.dev.preempted l.ctx = false ∧
        spGet (newJob 1 1 false).counters l.record.sig ≠ BitVec.allOnes 32) := by
  decide

/-- A copy of a C word and an X word at 0x10000, its C entry at its start, with a field in each. -/
def code1 : CodeCopy := ⟨1, 0, 0x10000, [0, 0, 0, 0x28, 0, 0, 0, 0, 0, 8, 0, 0, 0, 0, 0, 4], 4, 8,
  [⟨.arena18, 0, 5, -6⟩, ⟨.coord10, 8, 0, 0⟩], 0, 0, 0, 0, 0, 0⟩

/-- The header of a file that the loader takes. -/
def head1 : ElfHeader := ⟨2, 1, 0, 1, 0x7CA4, 1⟩

/-- That copy loaded under a map, and a launch of it in a state. -/
def loadedAs (map : List (List Nat)) (x : LState) : State :=
  let s := rooted id [{ launchOf5 gangFields x with members := [⟨0, 0, 0⟩] }] []
  { s with dev := { s.dev with loaded := [⟨code1, 0, map⟩] } }

/-- A data section at its alignment, whose dword holds the placement of that copy. -/
def data1 : DataSection := ⟨0x100, [], 64, List.replicate 64 0, [0], [⟨.varent, 32, 0x10000, 0⟩]⟩

set_option maxRecDepth 8000 in
/-- Copies that pass their checks and that do not, with and without a rectangle; relocations each in a word of its own. -/
theorem witness_CodeIsLoaded :
    (let s := rooted id [] []; s.copyOk { code1 with base := 0x10001 } = false ∧ s.copyOk code1 = true ∧
      headerOk head1 = true ∧ headerOk { head1 with flags := 2 } = false ∧ Memory.wf s.dev.hbm = true) ∧
    Claim.relocsApart code1 ∧
    (let s := rooted id [] []; s.chosen code1 = some code1 ∧ s.columnMap code1 = some [[0]] ∧
      s.columnMap { code1 with cols := 1 } = none ∧
        ∀ r ∈ [0, 31], ∀ c ∈ [0, 17], s.columnMap { code1 with cols := 1, row0 := r, wcol := c } = none) := by
  refine ⟨by decide, ?_, by decide⟩
  unfold Claim.relocsApart Claim.fieldWidth
  decide

set_option maxRecDepth 8000 in
/-- A launch that waits for its copy, under another map or on another row; a copy in use and not. -/
theorem witness_CodeIsLoaded_relocation :
    (∀ p ∈ ([(0, [[5]]), (1, [[0]])] : List (Nat × List (List Nat))),
      let l := { launchOf5 gangFields .bound with members := [⟨0, 0, 0⟩] }
      let s0 := loadedAs p.2 .bound
      let k : Loaded := ⟨code1, p.1, p.2⟩
      let s := { s0 with dev := { s0.dev with loaded := [k] } };
      s.dev.loaded[0]? = some k ∧
        (s.dev.launches.filter fun l => decide (l.state = .bound) && (decide (l.record.mode ≠ 2) || l.resume || s.mapDiffers l) &&
          decide (s.dev.copyOf l = some k)) = [l] ∧
        (p.1 ≠ s.topRow l ∨ p.2 ≠ s.columns l) ∧ ∀ b ∈ [true, false], s.dev.copyInUse k (fun _ => b) = false) ∧
    (let s := loadedAs [[0]] .running; s.dev.copyInUse ⟨code1, 0, [[0]]⟩ (fun _ => false) = true) ∧
    (let s := loadedAs [[0]] .ended; s.dev.loaded[0]? = some ⟨code1, 0, [[0]]⟩ ∧ code1.relocs[1]? = some ⟨.coord10, 8, 0, 0⟩ ∧
      code1.relocs[0]? = some ⟨.arena18, 0, 5, -6⟩ ∧ s.dev.copyInUse ⟨code1, 0, [[0]]⟩ (fun _ => false) = false ∧
      Memory.wf s.dev.hbm = true) := by
  decide

set_option maxRecDepth 8000 in
/-- A data section that is mapped and aligned, and that is not; a dword of it that a patch names. -/
theorem witness_CodeIsLoaded_data :
    (let img : CodeImage := ⟨head1, [], [code1], []⟩; let r : Reloc := ⟨.varent, 32, 0x10000, 0⟩;
      r.offset + 8 ≤ data1.bytes.length ∧ variantAt data1 r.offset = some 0 ∧
        img.copies.find? (fun k => decide (k.base + k.centry = r.symbol ∧ k.variant = 0)) = some code1) ∧
    ((0x10005 : Int) = (((0x10000 : Nat) : Int) + 5) % (2 ^ 64 : Int) ∧ data1.bytes.length < 57 + 8) ∧
    (let s := rooted id [] []; s.dev.ctx 1 = some ctxR ∧
      (walk s.dev.hbm ctxR.ptroot 0x107 matches .leaf _ _ _) = true ∧
      (walk s.dev.hbm ctxR.ptroot (2 ^ 33) matches .leaf _ _ _) = false ∧
      (s.loadVirt 1 0x100 (List.replicate 8 0)).isSome = true ∧ (s.loadVirt 1 (2 ^ 33) (List.replicate 8 0)).isNone = true ∧
      data1.va % data1.align = 0 ∧ 0x108 % data1.align ≠ 0) ∧
    (let s0 := rooted id [] []; let s := { s0 with dev := { s0.dev with sections := [(1, 0x100, data1.relocs)] } };
      s.dev.loaded.length ≤ 0 ∧ s.dev.sections[0 - s.dev.loaded.length]? = some (1, 0x100, data1.relocs) ∧
      data1.relocs[0]? = some ⟨.varent, 32, 0x10000, 0⟩ ∧ (s.loadVirt 1 (0x100 + 32) (bytesOf 8 5)).isSome = true) := by
  decide

/-- The core runs a launch of the context, with open stops and reports of it. -/
def stopped (c : Core → Core) (x : Ctx → Ctx) (rs : List Report) : State :=
  let s := rooted id [] []
  { s with
    core := c core1
    dev := { s.dev with ctxs := [x ctxR], reports := rs } }

/-- A report of a halt of A. -/
def report1 : Report := ⟨1, 0, 1, 9, 5, 0, 0, 0x123, 0x10000⟩

set_option maxRecDepth 8000 in
/-- A report with room for it and without; a written report of a core that is resident, and of one that is not; data that
cannot be corrected, without and with a context; a fault of a handler. -/
theorem witness_ReportsAndReplies :
    (∀ tail ∈ [4095, 4094], let s := stopped id (fun c => { c with frqTail := tail }) [report1];
      s.dev.reports[0]? = some report1 ∧ s.dev.ctx report1.ctx = some { ctxR with frqTail := tail } ∧
        decide ((tail + 1) % 4096 = ctxR.frqHead) = decide (tail = 4095) ∧ report1.ctx < 4096 ∧ report1.kind < 16 ∧
        (let b := report1.bytes; b.length = 32 ∧ fld b 0 2 = 1 ∧ fld b 2 1 = 1 ∧ fld b 3 1 = 9 ∧ fld b 4 4 = 5 ∧ fld b 8 2 = 0 ∧
          fld b 10 1 = 0 ∧ fld b 11 5 = 0 ∧ fld b 16 8 = 0x123 ∧ fld b 24 8 = 0x10000) ∧
        (s.writeSystem (ctxR.frqbase.toNat + 32 * tail) report1.bytes).isSome = true) ∧
    (let s := stopped (fun c => { c with aHalt := some ⟨some 5, false, 9, 0, 0x123, 0⟩ })
        (fun c => { c with stops := [⟨5, ⟨0, 0, 0⟩, 0, 0⟩] }) [];
      (s.dev.ctx 1).map (fun c => c.stops.find? fun o => decide (o.fseq = 5)) = some (some ⟨5, ⟨0, 0, 0⟩, 0, 0⟩) ∧
        s.dev.reports = [] ∧ (s.coreAt ⟨0, 0, 0⟩).ctxId = 1 ∧ (∃ k ∈ s.cores, k.id = ⟨0, 0, 0⟩) ∧
        (s.coreAt ⟨0, 0, 0⟩).aHalt = some ⟨some 5, false, 9, 0, 0x123, 0⟩) ∧
    (let s := stopped (fun c => { c with resident := none }) (fun c => { c with stops := [⟨5, ⟨0, 0, 0⟩, 0, 0⟩] }) [];
      (s.dev.ctx 1).isSome = true ∧ (s.coreAt ⟨0, 0, 0⟩).ctxId ≠ 1 ∧ ∀ p ∈ ctxR.replies, p.1 ≠ 5) ∧
    (let i : Image := ⟨1, true, false, [], [], [], []⟩
      let s := stopped (fun c => { c with resident := none }) (fun c => { c with stops := [⟨5, ⟨0, 0, 0⟩, 0, 0⟩], saved := some i }) [];
      s.dev.systemWaits ({ ctxR with saved := some i }.faultEntryAt i ⟨5, ⟨0, 0, 0⟩, 0, 0⟩ + 4) 2 .write = false) ∧
    (∀ r ∈ [none, core1.resident], let s := stopped (fun c => { c with resident := r }) id [];
      s.dev.mgmt.eccEvents = [] ∧ (s.dev.hostIf.errtail + 1) % 256 ≠ s.dev.hostIf.errhead ∧ s.core.resident = r ∧
        (r.isSome = true → s.dev.ctx s.core.ctxId = some ctxR) ∧ ctxR.id < 4096 ∧ ctxR.contained = none) ∧
    (let f := mkFault 7 0 0 0;
      let s := stopped (fun c => { c with flt := { c.flt with raised := [(.c, f)], stop := .handler } }) id [];
      s.core.recorded = some (.c, f) ∧ s.core.inHandler = true ∧ s.dev.ctx s.core.ctxId = some ctxR) := by decide

set_option maxRecDepth 8000 in
/-- A second uncorrectable error of a bank within the day; a checksum of a nest step that is wrong. -/
theorem witness_ReportsAndReplies_fences :
    (let s := stopped (fun c => { c with resident := none }) id [];
      let t := { s with dev := { s.dev with mgmt := { s.dev.mgmt with eccEvents := [(2 * 65536 + 5, -86399999999999)] } } };
      t.core.id.number = 0 ∧ t.core.resident = none ∧ t.dev.mgmt.eccEvents = [(2 * 65536 + 5, -86399999999999)] ∧
        (t.dev.globalTime.toNat : Int) < -86399999999999 + 86400000000000) ∧
    (let s := { nested 0 false with dev := (stopped id id []).dev };
      s.core.mx.nest.isSome = true ∧ s.canStep = true ∧ s.dev.ctx s.core.ctxId = some ctxR) := by decide

set_option maxRecDepth 8000 in
/-- A context at each point of its pre-emption: requested, due, saving, past its deadline, saved at a boundary. -/
theorem witness_PreemptionSavesContexts :
    (let s := stopped id id []; s.dev.ctx 1 = some ctxR ∧ ctxR.boundaryBy = none ∧ ctxR.saveBy = none ∧ ctxR.saved = none) ∧
    (let s := stopped id (fun c => { c with boundaryBy := some 9 }) []; (s.dev.ctx 1).map Ctx.boundaryBy = some (some 9) ∧
      (s.unplaceHeld 1).dev.anyRuns 1 = false ∧ (s.unplaceHeld 1).dev.saveWaits ctxR 0 = false ∧ (∀ k ∈ (s.unplaceHeld 1).cores, k.ctxId = 1 → k.blocksBoundary = false) ∧
      s.dev.launches = [] ∧ s.dev.now < 9 ∧ ctxR.contained = none) ∧
    (let l := launchOf5 gangFields .bound; l.ctx = 1 ∧ l.state = .bound ∧ l.record.mode ≠ 2 ∧ l.resume = false) ∧
    (let s := stopped id (fun c => { c with boundaryBy := some 0 }) []; (s.dev.ctx 1).map Ctx.boundaryBy = some (some 0) ∧
      0 ≤ s.dev.now ∧ s.dev.saveWaits ctxR 0 = false ∧ (∀ k ∈ s.coresOf 1, (s.coreAt k).canFreeze = true) ∧ (s.unplaceHeld 1).coresOf 1 = [⟨0, 0, 0⟩]) ∧
    (let s := stopped (fun c => { c with flt := { c.flt with drained := Vector.replicate 5 true } })
        (fun c => { c with saveBy := some 9 }) []; (s.dev.ctx 1).map Ctx.saveBy = some (some 9) ∧ s.dev.now < 9 ∧
      s.dev.saveWaits { ctxR with saveBy := some 9 } (s.coreRecords (s.dev.savedLaunches 1)).length = false ∧
      ∀ k ∈ s.coresOf 1, s.saveReady (s.coreAt k) = true) ∧
    (let s := stopped id (fun c => { c with saveBy := some 0 }) []; (s.dev.ctx 1).map Ctx.saveBy = some (some 0) ∧
      0 ≤ s.dev.now ∧ s.dev.saveWaits { ctxR with saveBy := some 0 } 0 = false) ∧
    (∀ a ∈ [true, false], let s := stopped id (fun c => { c with saved := some ⟨0, true, false, [], [], [], []⟩ }) [];
      let t := { s with dev := { s.dev with seizure := ⟨a, 1, 0, [1], false, false⟩ } };
      (t.dev.ctx 1).map Ctx.saved = some (some ⟨0, true, false, [], [], [], []⟩) ∧ t.dev.seizure.active = a ∧
        1 ∈ t.dev.seizure.frozen ∧ ctxR.stops = []) := by decide

/-- The context of a core is saved with a launch, and its image: the launch that waits for its resumption, and whether the core is free. -/
def savedWith (fs : List (Nat × Nat × Nat)) (free : Bool) (r : Option Resident) : State × Image :=
  let l := { launchOf5 fs .ready with resume := true, begun := true }
  let img : Image := ⟨1, true, false, [l], [(3, { core1 with resident := r })], [], []⟩
  let s := rooted id [l] []
  ({ s with
    core := if free then s.core else { s.core with resident := some ⟨9, 9, 0, .detached, 0, 0, 0, 0, 0⟩ }
    dev := { s.dev with ctxs := [{ ctxR with saved := some img }] } }, img)

set_option maxRecDepth 8000 in
/-- A launch that a save takes, with its core. -/
theorem witness_PreemptionSavesContexts_cores :
    (let l := { launchOf5 gangFields .running with members := [⟨0, 0, 0⟩] };
      let s0 := stopped (fun c => { c with flt := { c.flt with drained := Vector.replicate 5 true } }) (fun c => { c with saveBy := some 9 }) [];
      let s := { s0 with dev := { s0.dev with launches := [l] } };
      s.dev.savedLaunches 1 = [l] ∧ s.coresFor l = [⟨0, 0, 0⟩] ∧ (s.cores.map Core.id).contains ⟨0, 0, 0⟩ = true ∧
        (s.coresOf 1).all (fun k => s.saveReady (s.coreAt k)) = true) := by decide

set_option maxRecDepth 8000 in
/-- A context saved with a gang whose core is free, and is not. -/
theorem witness_PreemptionSavesContexts_gang :
    (∀ b ∈ [true, false], let p := savedWith gangFields b (some ⟨1, 3, 0, .detached, 0, 0, 0, 0, 0⟩); let s := p.1; let i := p.2;
      let ls := s.dev.launches.filter fun l => decide (l.ctx = 1) && l.resume && i.holds l.key;
      decide ((s.dev.ctx 1).map Ctx.saved = some (some i)) && !s.dev.seizure.active && decide (ls.length = 1) && s.resumesNext ls
        && !s.dev.systemWaits ctxR.savebase.toNat (0x10000 + recordBytes * i.cores.length) .read
        && ls.all (fun l => decide (s.dev.launch l.key = some l ∧ l.record.mode ≠ 2) && decide ((s.resumePlace l).isSome = b)
          && decide ((s.resumePlace l).map scanMembers = (if b then some [⟨0, 0, 0⟩] else none))
          && decide ((s.resumeImage 1 i [l]).isSome = b))
        && decide (s.cores.map Core.id).Nodup && i.cores.all (fun k => k.2.resident.isSome) = true) := by decide

set_option maxRecDepth 8000 in
/-- A context saved with a task unit whose core is free, and is not. -/
theorem witness_PreemptionSavesContexts_unit :
    (∀ b ∈ [true, false], let r : Resident := ⟨1, 3, 0, .task, 0, 0, 0, 0, 0⟩; let p := savedWith taskFields b (some r); let s := p.1; let i := p.2;
      s.dev.launches.all (fun l => decide (s.dev.launch l.key = some l ∧ l.record.mode = 2)
        && decide (((i.cores.filter fun k => decide (k.1 = l.key)).map Prod.snd).map Core.resident = [some r])
        && decide (s.pool l = some [⟨0, 0, 0⟩] ∧ r.row * (s.rootOf l).cols + r.col = 0)
        && decide (decide (s.coreClass l.record.use (s.coreAt ⟨0, 0, 0⟩) = .member) = b)) = true) := by decide

/-- A seizure of job 2 with context 1 frozen, saved or not, complete or not. -/
def seized (img : Option Image) (complete : Bool) : State :=
  let s := stopped id (fun c => { c with saved := img, boundaryBy := if img.isSome then none else some 9 }) []
  { s with dev := { s.dev with seizure := ⟨true, 2, 0, [1], complete, false⟩ } }

set_option maxRecDepth 8000 in
theorem witness_SeizureFreezesContexts :
    (base.dev.seizure.active = false ∧ (0xFFFF : Dword).toNat % 2 ^ 16 = 0xFFFF ∧ (0x10000 : Dword).toNat % 2 ^ 16 = 0 ∧
      1 ∈ base.otherContexts 0xFFFF) ∧
    (∀ b ∈ [true, false], (seized none b).dev.seizure.active = true ∧ (seized none b).dev.seizure.complete = b) ∧
    (∃ n ∈ (seized none false).dev.seizure.frozen, ((seized none false).dev.ctx n).map Ctx.saved = some none) ∧
    (let s := seized (some ⟨2, true, false, [], [], [], []⟩) false;
      (∀ n ∈ s.dev.seizure.frozen, ∀ x ∈ (s.dev.ctx n).toList, x.saved.isSome = true) ∧ s.dev.seizure.release = false) ∧
    (let s := seized (some ⟨2, true, false, [], [], [], []⟩) false;
      let t := { s with dev := { s.dev with ctxs := s.dev.ctxs.map fun (c : Ctx) => { c with system := false } } };
      t.dev.systemWaits t.dev.freezebase.toNat t.dev.freezeBytes .write = false) := by
  decide

/-- The same device with HWCTX naming context 1 and queue 5, and bits added to the entry of the tree. -/
def window (entry : Nat) : State :=
  let s := rooted id [] [(0x80000, 8, 7 + 3 * 2 ^ 49 + entry)]
  { s with dev := { s.dev with hostIf := { s.dev.hostIf with hwctx := 0x50001 } } }

/-- What the window's translation comes to: 0 a place that is ready, 1 invalid, 2 forbidden, 3 being moved. -/
def windowSees (s : State) (va : Nat) (kind : Kind) : Nat :=
  match s.hostTranslate 1 va kind with
  | (.ok h _, s') => if s'.dev.homeReady h then 0 else 4
  | (.invalid, _) => 1
  | (.forbidden _, _) => 2
  | (.parked, _) => 3

set_option maxRecDepth 4000 in
/-- Aligned accesses at both ends of a size, that succeed, whose page is invalid, whose entry is malformed, and whose page is
being moved. -/
theorem witness_HostReachesTheDevice :
    (window 0).dev.hostIf.hwbase.toNat + (0xFFFFC : BitVec 36).toNat = 0xFFFFC ∧
    (0xFFFFC : Nat) % (4 : Fin 9).val = 0 ∧ 8 % (8 : Fin 9).val = 0 ∧
    (∀ va ∈ [0, 8, 0xFFFFC], windowSees (window 0) va .read = 0 ∧ windowSees (window 0) va .write = 0) ∧
    windowSees (window 0) (2 ^ 33) .read = 1 ∧ windowSees (window 0) (2 ^ 33) .write = 1 ∧
    windowSees (window 0x100) 0 .read = 2 ∧ windowSees (window 0x100) 0 .write = 2 ∧ windowSees (window 16) 0 .write = 3 ∧
    windowSees { window 0 with dev := { (window 0).dev with tlbHost := tlb1 } } 0x20000 .read = 4 :=
  ⟨rfl, rfl, rfl, by decide, rfl, rfl, rfl, rfl, rfl, rfl⟩

/-- A core whose TLBs hold pages; an invalidation pending, with a virtual access of a core that it reaches, and without. -/
theorem witness_TranslationsAreInvalidated :
    paged.dev.inval.pend = false ∧
    (let t := { paged with dev := { paged.dev with inval := ⟨5, true, false, 1, 0, 1⟩ } };
      t.dev.inval.pend = true ∧ t.dev.hostIf.parked = [] ∧ t.dev.hostIf.reads = [] ∧
        ∀ c ∈ t.dev.mgmt.core :: t.cores, c.accesses = []) ∧
    (let a : Access := ⟨1, .c, 0, 0, .store, [⟨.hbm 0x100 false, 0x100, 1, 0, 0, 0, none, none, false⟩], 0, false, [(0x100, 16)]⟩;
      let s := small true fun c => { c with accesses := [a] };
      let t := { s with dev := { s.dev with inval := ⟨5, true, false, 0, 0, 1⟩ } };
      t.dev.inval.pend = true ∧ t.core.accesses = [a] ∧ a.id < t.dev.inval.since ∧ t.dev.inval.ctx = t.core.ctxId ∧
        (0x100 : Nat) / 2 ^ 16 = 2 ^ 16 * t.dev.inval.page / 2 ^ 16) := by
  decide

/-- A packet at a router whose entry delivers it to the core and sends it on, before and after its eighth router. -/
def routed (passed : Nat) : State := { base with dev := { base.dev with
  mcg := [(255, 0x211)]
  packets := [⟨false, 0, 0, 255, passed, 1, 0, 0x1FFFFE, [1, 2]⟩] } }

theorem witness_LinksCarryTheirState :
    ({ base with dev := { base.dev with mcgRouter := 47, mcgGroup := 255 } } : State).dev.mcgGroup ≠ 0 ∧
    spWf base.dev.mcg = true ∧ base.dev.mcgGroup = 0 ∧
    (∀ k ∈ [7, 8], let s := routed k; let p : Packet := ⟨false, 0, 0, 255, k, 1, 0, 0x1FFFFE, [1, 2]⟩;
      s.dev.packets[0]? = some p ∧ p.group ≠ 0 ∧ p.die < 4 ∧ egresses (spGet s.dev.mcg 255) 0 0 ≠ [] ∧
        (spGet s.dev.mcg 255).getLsbD 0 = true ∧ (let c := s.coreAt (routerCore 0 0 0);
          c.id = routerCore 0 0 0 ∧ c.resident.isSome = true ∧ c.ctxId = p.ctx ∧ p.off + p.bytes.length ≤ 2 ^ 21 ∧
          (∀ j, j < p.bytes.length → c.awake (7 + (p.off + j) / 2 ^ 17 % 16) = true) ∧ Memory.wf c.mem.spad = true)) ∧
    (base.dev.hostIf.errtail + 1) % 256 ≠ base.dev.hostIf.errhead := by decide

theorem witness_ManagementCoreServes :
    (∀ b ∈ [true, false], ({ base with dev := { base.dev with mgmt := { base.dev.mgmt with booted := b } } } : State).dev.mgmt.booted = b) ∧
    (∀ c ∈ [none, some 1, some 2, some 3],
      ({ base with dev := { base.dev with mgmt := { base.dev.mgmt with command := c } } } : State).dev.mgmt.command = c) ∧
    Memory.wf base.dev.host = true ∧
    (∀ head ∈ [1, 0], let e : ErrRec := ⟨5, 2, 575, 1, 0x100⟩;
      let s : State := { base with dev := { base.dev with
        hostIf := { base.dev.hostIf with errhead := head }
        mgmt := { base.dev.mgmt with errors := [e] } } };
      s.dev.mgmt.errors = [e] ∧
        decide ((s.dev.hostIf.errtail + 1) % 256 = s.dev.hostIf.errhead) = decide (head = 1)) := by decide

/-- Cluster 0 in a state. -/
def clustered (f : Cluster → Cluster) (frac : Nat) (time : Dword) : State := { base with dev := { base.dev with
  timeFrac := frac
  globalTime := time
  ctxs := [{ ctx1 true with boosted := [0], tokens := 5 }]
  clusters := base.dev.clusters.set 0 (f Cluster.reset) } }

/-- Rails below, at and above their aim; timers at 0 and not; the ends of a µs and of a ms, and another ref cycle; a bank
that a launch references; a die whose core holds a context. -/
theorem witness_PowerFollowsItsLimits :
    (∀ v ∈ [134, 135, 136], let s := clustered (fun x => { x with railTimer := some 0, rail := v }) 0 0;
      (s.dev.cluster 0).railTimer = some 0 ∧ (∀ c ∈ s.cores, ∀ e ∈ engines, (c.eng e).request = none) ∧
        (s.dev.cluster 0).gate = .run ∧ s.needVolts 0 true = 135 ∧ (s.dev.cluster 0).rail = v) ∧
    (base.dev.cluster 0).railTimer ≠ some 0 ∧
    (let s := clustered (fun x => { x with ackTimer := some 0, grant := some 0 }) 0 0;
      (s.dev.cluster 0).ackTimer = some 0 ∧ (s.dev.cluster 0).grant = some 0 ∧ (base.dev.cluster 0).ackTimer ≠ some 0 ∧
        (base.dev.cluster 0).grant ≠ some 0) ∧
    (∀ p ∈ ([(2000000, 999), (2999999, 999999)] : List (Nat × Dword)), let s := clustered id p.1 p.2;
      s.dev.timeAdvances = true ∧ (s.dev.globalTime.toNat + 1) % 1000 = 0 ∧ s.dev.paid = false ∧ s.dev.refilled = false ∧
      ∀ x ∈ s.dev.ctxs, x.boosted ≠ [] ∧ x.boosted.length < x.tokens) ∧
    ((clustered id 2 999999).dev.globalTime.toNat + 1) % 1000000 = 0 ∧ base.dev.timeAdvances = false ∧
    (spWf base.dev.sbmState = true ∧ ∃ l ∈ [{ launch1 with banks := [1151] }], 1151 ∈ l.banks) ∧
    (let s := rowed .run id id; s.hasRows 1 = true ∧ base.hasRows 1 = false ∧ (s.dev.ctx 1).map Ctx.contained = some none ∧
      ∀ c ∈ s.cores, c.id.die = 0 ∧ c.ctxId = 1) ∧
    (base.dev.hostIf.errtail + 1) % 256 ≠ base.dev.hostIf.errhead ∧ base.cores = [base.core] ∧ base.core.id.die = 0 ∧
    base.core.resident.isSome = true ∧ base.dev.ctx base.core.ctxId = some (ctx1 true) ∧ (ctx1 true).id < 4096 ∧
    (ctx1 true).contained = none := by
  refine ⟨by decide, by decide, by decide, by decide, by decide, by decide, by decide, by decide, by decide, rfl, by decide, by decide,
    rfl, by decide, rfl⟩

theorem witness_ClustersAreGated :
    (base.dev.clsel.toNat = (0 : Fin 192).val) ∧
    (∀ g ∈ [Gate.run, .waking, .draining, .quiesced, .retained, .clockoff, .railoff], ∀ b ∈ [none, some 0, some 9],
      ∀ v ∈ [true, false], let x := { Cluster.reset with gate := g, busy := b, vacant := v };
      ((clustered (fun _ => x) 0 0).dev.cluster 0) = x) ∧
    (let s := clustered (fun x => { x with gate := .draining, vacant := true }) 0 0;
      s.clusterHeld 0 ≠ 0 ∧ ({ s with core := { s.core with resident := none } } : State).clusterHeld 0 = 0) ∧
    spWf base.dev.sbmState = true := by decide

/-- The word of an instruction of each family; the nops of the five streams. -/
theorem witness_DecodeEncodeAgree : ∀ p ∈ ([(.c, .add 63 0 63), (.c, .nop), (.a, .anop), (.v, .vfma .f32 2 .rtz 4 1 2 3),
      (.m, .mwin 2), (.x, .xcopy xd)] : List (Engine × Instr)), p.2.stream = some p.1 ∧ p.2.wf = true := by decide

theorem witness_DecodedWordsAreWellFormed :
    (0x04304200 : Nat) < 2 ^ (8 * Engine.c.wordBytes) ∧ decode .c 0x04304200 = .ok (.add 3 1 2) ∧
    (22 * 2 ^ 58 : Nat) < 2 ^ (8 * Engine.x.wordBytes) ∧ decode .x (22 * 2 ^ 58) = .ok .xnop := by decide

/-- A core of which one engine alone runs, with a word at its program counter. -/
def alone (e : Engine) (w : Nat) : State :=
  let s := small true fun c =>
    let idle := fun x : Eng => { x with state := .idle }
    let c := { c with ec := idle c.ec, ea := idle c.ea, ev := idle c.ev, em := idle c.em, ex := idle c.ex }
    c.modEng e fun x => { x with state := .running }
  { s with dev := { s.dev with hbm := writeLE [] 0x10000 16 w } }

set_option maxRecDepth 4000 in
theorem witness_StepRunsTheDecodedWord :
    (∀ p ∈ ([(.c, 0x04304200), (.c, 0), (.c, 0xF8000400), (.a, 0x040014D0E3FE02FF), (.v, 0x1012204010C00000),
        (.m, 0x08000000000000000000000000000002), (.x, 22 * 2 ^ 58)] : List (Engine × Nat)),
      let s := alone p.1 p.2;
      s.dev.agenda = [] ∧ s.dev.closing = false ∧ s.dev.active s.core = true ∧ s.internalStep.isNone = true ∧
      s.rowOf s.core = none ∧ (∀ o ∈ engines, o.num < p.1.num → s.core.ready o = false) ∧ s.core.ready p.1 = true ∧
      s.core.fetching = true ∧ s.ctx = some (ctx1 true) ∧
      (let pc := (s.core.eng p.1).pc.toNat; pc % p.1.wordBytes = 0 ∧ hbmBacked 0 = true ∧ hbmBacked 0x100000 = true ∧
        (ctx1 true).codebase.toNat = 0 ∧ (ctx1 true).codebound.toNat = 0x100000 ∧
        hbmBacked pc = true ∧ pc + p.1.wordBytes ≤ 0x100000 ∧ readLE s.dev.hbm pc p.1.wordBytes = p.2)) ∧
    (∀ p ∈ ([(.c, 0x10002), (.c, 0x100000), (.a, 0xFFFFC), (.x, 0xFFFFFFFFFFFFFFF8), (.m, 0x200000)] : List (Engine × Nat)),
      let s0 := alone p.1 0;
      let s := { s0 with core := s0.core.modEng p.1 fun x => { x with pc := BitVec.ofNat 64 p.2 } };
      s.dev.agenda = [] ∧ s.dev.closing = false ∧ s.dev.active s.core = true ∧ s.internalStep.isNone = true ∧
      s.rowOf s.core = none ∧ (∀ o ∈ engines, o.num < p.1.num → s.core.ready o = false) ∧ s.core.ready p.1 = true ∧
      s.core.fetching = true ∧ s.ctx = some (ctx1 true) ∧
      (let pc := (s.core.eng p.1).pc.toNat; pc % p.1.wordBytes ≠ 0 ∨ 0x100000 < pc + p.1.wordBytes)) ∧
    (let s0 := alone .c 0; let x := { ctx1 true with codebase := 0x20000 }; let s := { s0 with dev := { s0.dev with ctxs := [x] } };
      s.ctx = some x ∧ s.core.ec.pc.toNat < x.codebase.toNat % 2 ^ 49 ∧ s.core.ready .c = true ∧ s.internalStep.isNone = true) ∧
    (∀ w ∈ [0x04304200, 0], ∀ o ∈ engines, o.num < Engine.c.num → (alone .c w).core.ready o = false) ∧
    (alone .c 0xF8000400).contextIllegal .c .nop = false ∧ Instr.tlbinvDevice.stream = none := by decide

/-- A state in canonical form that steps. -/
theorem witness_DeviceMemoryStaysCanonical :
    let s := accessing .store (.sbm 0) 8 1; s.dev.canonical ∧ s.coresCanonical ∧ ∃ t, step s = .next t :=
  ⟨(small_canonical _ _ _ _).1, (small_canonical _ _ _ _).2, _, rfl⟩

theorem witness_CoreMemoryStaysCanonical :
    let s := accessing .store (.sbm 0) 8 1; s.dev.canonical ∧ s.coresCanonical ∧ ∃ t, step s = .next t :=
  ⟨(small_canonical _ _ _ _).1, (small_canonical _ _ _ _).2, _, rfl⟩

end Sys2Proof.Tests
end

section
/-! PROOFS. The domain words of C (01 R45–R52, 05 R171): the set a word names, the weight of a set, and what an effect
that waits for the end of the ref cycle leaves unchanged. -/

namespace Sys2Proof

/-- A difference of powers of two is a run of ones. -/
theorem testBit_two_pow_sub_two_pow (a b d : Nat) : (2 ^ b - 2 ^ a).testBit d = decide (a ≤ d ∧ d < b) := by
  rcases Nat.le_total a b with h | h
  · obtain ⟨n, rfl⟩ := Nat.exists_eq_add_of_le h
    have hrun : 2 ^ (a + n) - 2 ^ a = 2 ^ a * (2 ^ n - 1) := by rw [Nat.mul_sub_one, ← Nat.pow_add]
    rw [hrun, Nat.testBit_two_pow_mul, Nat.testBit_two_pow_sub_one, ← Bool.decide_and, decide_eq_decide]
    omega
  · rw [Nat.sub_eq_zero_of_le (Nat.pow_le_pow_right (by decide) h), Nat.zero_testBit, eq_comm, decide_eq_false_iff_not]
    omega

/-- The bits of a field of a DSET that names the domains from its first to its last. -/
theorem testBit_bankRange (base f l d : Nat) :
    ((2 ^ (l + 1) - 2 ^ f) * 2 ^ base).testBit d = decide (base + f ≤ d ∧ d ≤ base + l) := by
  rw [Nat.testBit_mul_two_pow, testBit_two_pow_sub_two_pow, ← Bool.decide_and, decide_eq_decide]
  omega

/-- The mask of a DSET field holds the domains that the field names. -/
theorem DSet.mask_getLsbD (x : DSet) (d : Nat) : x.mask.getLsbD d = (decide (d < 31) && Claim.named x d) := by
  have hind : x.dind.toNat.testBit d = (decide (d < 7) && x.dind.getLsbD d) := by
    rw [BitVec.testBit_toNat]
    by_cases hd : d < 7
    · simp [hd]
    · simp [hd, BitVec.getLsbD_of_ge x.dind d (by omega)]
  obtain ⟨dind, sp, ac⟩ := x
  simp only [DSet.mask, Claim.named, BitVec.getLsbD_ofNat, Nat.testBit_or, hind]
  congr 2
  · cases sp with
    | none => simp
    | some r => rw [testBit_bankRange]
  · cases ac with
    | none => simp
    | some r => rw [testBit_bankRange]

end Sys2Proof

namespace Sys2Proof.Machine

/-! ## The set and the weight of a domain word -/

/-- The domains a STEEP or KILN acts on, of those that its set names (01 R45). -/
theorem Core.actedOn_getLsbD {set : BitVec 31} {p : Nat → Bool} (hp : ∀ d, d < 31 → set.getLsbD d = p d) (c : Core)
    (act : DomAct) (d : Nat) :
    (c.actedOn set act).getLsbD d =
      (decide (d < 31) && p d && !(decide (d = 0) && (decide (act ≠ .steep) || decide (c.mode = .wave)))) := by
  have hset : set.getLsbD d = (decide (d < 31) && p d) := by
    by_cases hd : d < 31
    · rw [hp d hd, decide_eq_true hd, Bool.true_and]
    · simp [hd, BitVec.getLsbD_of_ge set d (Nat.le_of_not_lt hd)]
  have hclear : (set &&& ~~~1#31).getLsbD d = (decide (d < 31) && p d && !decide (d = 0)) := by
    simp only [BitVec.getLsbD_and, BitVec.getLsbD_not, BitVec.getLsbD_one, eq_comm (a := d), hset]
    cases decide (d < 31) <;> simp
  unfold Core.actedOn
  split
  next h =>
    have hcond : (decide (act ≠ .steep) || decide (c.mode = .wave)) = true := by simpa [or_comm] using h
    rw [hclear, hcond, Bool.and_true]
  next h =>
    have hcond : (decide (act ≠ .steep) || decide (c.mode = .wave)) = false := by simpa [and_comm] using h
    rw [hcond, Bool.and_false, Bool.not_false, Bool.and_true, hset]

/-- A domain is in the list of a mask where it is in the mask. -/
theorem mem_domsOf {set : BitVec 31} {d : Nat} : d ∈ domsOf set ↔ set.getLsbD d = true := by
  simp only [domsOf, List.mem_filter, List.mem_range, and_iff_right_iff_imp]
  exact BitVec.lt_of_getLsbD

/-- The inrush weights of the domains that a condition picks sum to its weight (01 R46). -/
theorem inrushOf_filter_range (p : Nat → Bool) : inrushOf ((List.range 31).filter p) = Claim.weight p := by
  have hw : ∀ d, inrush d = if d = 3 then 2 else if d = 4 then 4 else 1 := fun d => by
    unfold inrush
    split <;> simp_all
  simp only [inrushOf, Claim.weight, ← hw]
  rw [List.sum_map_ite]
  simp

/-- The weight of the domains of a mask that meet a condition. -/
theorem inrushOf_filter_domsOf (set : BitVec 31) (q : Nat → Bool) :
    inrushOf ((domsOf set).filter q) = Claim.weight fun d => set.getLsbD d && q d := by
  rw [domsOf, List.filter_filter, inrushOf_filter_range]
  simp only [Bool.and_comm]

/-! ## An effect at the end of the ref cycle -/

/-- An effect queued to the end of the ref cycle. -/
def Core.queueEnd (c : Core) (x : EndAct) : Core := { c with ctl := { c.ctl with atEnd := c.ctl.atEnd ++ [x] } }

/-- A stream that goes on and a queued effect do not touch each other. -/
theorem Core.advance_queueEnd (c : Core) (x : EndAct) : (c.queueEnd x).advance .c .seq = (c.advance .c .seq).queueEnd x := by
  rcases hslot : c.ctl.slot with _ | _ | _ <;>
    simp only [Core.advance, Core.queueEnd, Core.setEng, Core.eng_c, if_true, hslot]

/-- The count of an issue and a queued effect do not touch each other. -/
theorem Core.countIssue_queueEnd (c : Core) (e : Engine) (x : EndAct) :
    (c.queueEnd x).countIssue e = (c.countIssue e).queueEnd x := rfl

/-- The engines of a core that has queued an effect. -/
@[simp] theorem Core.queueEnd_eng (c : Core) (x : EndAct) (e : Engine) : (c.queueEnd x).eng e = c.eng e := by
  cases e <;> rfl

/-- A word of C has issued and its one effect waits for the end of the ref cycle: its stream goes on, no result is in
flight from it, and all but the queue of such effects is unchanged. -/
def QueuesEnd (s t : State) (x : EndAct) : Prop :=
  GoesOn .c s t ∧ Lands .c s t [] ∧ t.core.ctl.atEnd = s.core.ctl.atEnd ++ [x] ∧
    OnlyStream .c s { t with core := { t.core with ctl := { t.core.ctl with atEnd := s.core.ctl.atEnd } } }

/-- A word of C whose part only queues an effect issues with that effect alone. -/
theorem State.word_atEnd {s : State} {i : Instr} {k : State → WordOut} {x : EndAct}
    (h : s.precheck .c i = none) (hk : k s = .ok (s.modFocus fun c => c.queueEnd x) .seq) :
    ∃ t, s.word .c i k = .next t ∧ QueuesEnd s t x := by
  obtain ⟨u, hu, hland, hgo, honly⟩ := State.word_passes (k := fun s => .ok s .seq) h rfl
  have hlater : (s.modFocus fun c => c.queueEnd x).behind .c .seq = (s.behind .c .seq).modFocus fun c => c.queueEnd x := by
    simp only [State.behind, State.modFocus, Core.advance_queueEnd, Core.countIssue_queueEnd]
  have hword : s.word .c i k = .next (u.modFocus fun c => c.queueEnd x) := by
    rw [State.word_ok h rfl, Host.Outcome.next.injEq] at hu
    rw [State.word_ok h hk, ← hu]
    exact congrArg _ hlater
  have hctl : u.core.ctl.atEnd = s.core.ctl.atEnd := by
    have hstill : u.still.core.ctl.atEnd = s.still.core.ctl.atEnd := by rw [honly.1]
    exact hstill
  refine ⟨_, hword, ?_⟩
  simp only [QueuesEnd, GoesOn, Lands, State.modFocus_core, Core.queueEnd_eng]
  refine ⟨hgo, hland, congrArg (· ++ [x]) hctl, ?_⟩
  rw [← hctl]
  exact honly

/-! ## STEEP and KILN -/

/-- The weight of the domains that a STEEP would start to wake: those of its set that are Off or Retained (01 R50). -/
def Core.newWeight (c : Core) (set : BitVec 31) : Nat :=
  Claim.weight fun d => set.getLsbD d && decide (c.dom d = .off ∨ c.dom d = .retained)

/-- The weight of the domains that are Waking (01 R50). -/
def Core.wakingWeight (c : Core) : Nat := Claim.weight fun d => (c.dom d).isWaking

/-- A STEEP above the inrush limit raises *inrush overcommit*. -/
theorem State.steepWord_overcommit {s : State} {i : Instr} {set : BitVec 31} (h : s.precheck .c i = none)
    (hw : 6 < s.core.wakingWeight + s.core.newWeight (s.core.actedOn set .steep)) :
    s.steepWord i set =
      .next (s.raise .c ⟨0x05, s.core.newWeight (s.core.actedOn set .steep), s.core.wakingWeight, 0, 0⟩) := by
  refine State.word_fault h ?_
  simp only [inrushOf_filter_domsOf, Core.wakingDoms, inrushOf_filter_range]
  exact if_pos hw

/-- A STEEP within the inrush limit issues and queues its change. -/
theorem State.steepWord_queues {s : State} {i : Instr} {set : BitVec 31} (h : s.precheck .c i = none)
    (hw : s.core.wakingWeight + s.core.newWeight (s.core.actedOn set .steep) ≤ 6) :
    ∃ t, s.steepWord i set = .next t ∧ QueuesEnd s t (.dom (s.core.actedOn set .steep) .steep) := by
  refine State.word_atEnd h ?_
  simp only [inrushOf_filter_domsOf, Core.wakingDoms, inrushOf_filter_range]
  exact if_neg (Nat.not_lt.mpr hw)

/-- A KILN whose domains have no work outstanding issues and queues its change. -/
theorem State.kilnWord_queues {s : State} {i : Instr} {set : BitVec 31} {act : DomAct} (h : s.precheck .c i = none)
    (hq : ∀ d, (s.core.actedOn set act).getLsbD d = true → s.outstanding d = false) :
    ∃ t, s.kilnWord i set act = .next t ∧ QueuesEnd s t (.dom (s.core.actedOn set act) act) := by
  refine State.word_atEnd h (if_neg ?_)
  rw [List.any_eq_true]
  rintro ⟨d, hd, hbusy⟩
  exact Bool.false_ne_true ((hq d (mem_domsOf.mp hd)).symm.trans hbusy)

/-- A domain word is a STEEP or a KILN of a set whose acted-on domains are those of the statement. -/
theorem exec_of_domains {i : Instr} {s : State} {act : DomAct} {p : Nat → Bool} (h : Claim.domains i s = some (act, p)) :
    ∃ set, (∀ d, (s.core.actedOn set act).getLsbD d = p d) ∧
      ((act = .steep ∧ exec i s = s.steepWord i set) ∨ (act ≠ .steep ∧ exec i s = s.kilnWord i set act)) := by
  have hmask : ∀ (x : DSet) d, d < 31 → x.mask.getLsbD d = Claim.named x d := fun x d hd => by
    rw [DSet.mask_getLsbD, decide_eq_true hd, Bool.true_and]
  have hreg : ∀ (a : SReg) d, d < 31 → ((s.core.readS a).truncate 31).getLsbD d = (s.core.readS a).getLsbD d :=
    fun a d hd => by rw [BitVec.truncate_eq_setWidth, BitVec.getLsbD_setWidth, decide_eq_true hd, Bool.true_and]
  cases i
  case steep x => cases h; exact ⟨_, Core.actedOn_getLsbD (hmask x) _ _, .inl ⟨rfl, rfl⟩⟩
  case kilnR x => cases h; exact ⟨_, Core.actedOn_getLsbD (hmask x) _ _, .inr ⟨nofun, rfl⟩⟩
  case kilnL x => cases h; exact ⟨_, Core.actedOn_getLsbD (hmask x) _ _, .inr ⟨nofun, rfl⟩⟩
  case steepReg a => cases h; exact ⟨_, Core.actedOn_getLsbD (hreg a) _ _, .inl ⟨rfl, rfl⟩⟩
  case kilnRReg a => cases h; exact ⟨_, Core.actedOn_getLsbD (hreg a) _ _, .inr ⟨nofun, rfl⟩⟩
  case kilnLReg a => cases h; exact ⟨_, Core.actedOn_getLsbD (hreg a) _ _, .inr ⟨nofun, rfl⟩⟩
  all_goals exact nomatch h

/-- Settles O18: a STEEP is decided by the two weights, a KILN by the work outstanding, and either one's change is queued
to the end of the ref cycle by the one lemma about such an issue. -/
theorem domainWordsComplete : Obligations.DomainWordsComplete := by
  unfold Obligations.DomainWordsComplete
  intro i s act p hdom hcheck
  obtain ⟨set, hset, hexec⟩ := exec_of_domains hdom
  intro new was
  have hnew : s.core.newWeight (s.core.actedOn set act) = new := by simp only [Core.newWeight, hset]; rfl
  have hwas : s.core.wakingWeight = was := rfl
  rw [← hnew, ← hwas]
  obtain ⟨rfl, hexec⟩ | ⟨hact, hexec⟩ := hexec
  · rw [hexec]
    refine ⟨fun _ hover => State.steepWord_overcommit hcheck hover, ?_⟩
    rintro (⟨-, hle⟩ | ⟨hne, -⟩)
    · obtain ⟨t, ht, hq⟩ := State.steepWord_queues hcheck hle
      exact ⟨t, _, ht, hset, hq⟩
    · exact absurd rfl hne
  · refine ⟨fun h => absurd h hact, ?_⟩
    rintro (⟨h, -⟩ | ⟨-, hquiet⟩)
    · exact absurd h hact
    · obtain ⟨t, ht, hq⟩ := State.kilnWord_queues hcheck fun d hd => hquiet d ((hset d).symm.trans hd)
      exact ⟨t, _, hexec.trans ht, hset, hq⟩

end Sys2Proof.Machine
end

section
/-! PROOFS. The words of C and A that compute (05 R153–R155, 06 R190): their results as arithmetic on the numbers that their
operands stand for, and the decoding of the compares. -/

namespace Sys2Proof.Machine

/-! ## What the operators compute -/

section
variable {w v : Nat} (a b : BitVec w)

theorem add_eq_ofNat : a + b = BitVec.ofNat w (a.toNat + b.toNat) := by
  simp only [BitVec.ofNat_add, BitVec.ofNat_toNat, BitVec.setWidth_eq]

theorem add_signExtend_eq_ofInt (c : BitVec v) : a + c.signExtend w = BitVec.ofInt w (a.toInt + c.toInt) := by
  simp only [BitVec.ofInt_add, BitVec.ofInt_toInt, BitVec.signExtend]

theorem sub_eq_ofInt : a - b = BitVec.ofInt w (a.toInt - b.toInt) :=
  BitVec.eq_of_toInt_eq (by simp only [BitVec.toInt_ofInt, BitVec.toInt_sub])

theorem mul_eq_ofNat : a * b = BitVec.ofNat w (a.toNat * b.toNat) := by
  simp only [BitVec.ofNat_mul, BitVec.ofNat_toNat, BitVec.setWidth_eq]

theorem and_eq_ofNat : a &&& b = BitVec.ofNat w (a.toNat &&& b.toNat) := by
  simp only [BitVec.ofNat_and, BitVec.ofNat_toNat, BitVec.setWidth_eq]

theorem or_eq_ofNat : a ||| b = BitVec.ofNat w (a.toNat ||| b.toNat) := by
  simp only [BitVec.ofNat_or, BitVec.ofNat_toNat, BitVec.setWidth_eq]

theorem xor_eq_ofNat : a ^^^ b = BitVec.ofNat w (a.toNat ^^^ b.toNat) := by
  simp only [BitVec.ofNat_xor, BitVec.ofNat_toNat, BitVec.setWidth_eq]

theorem shiftLeft_eq_ofNat (k : Nat) : a <<< k = BitVec.ofNat w (a.toNat * 2 ^ k) :=
  BitVec.eq_of_toNat_eq (by simp only [BitVec.toNat_ofNat, BitVec.toNat_shiftLeft, Nat.shiftLeft_eq])

theorem ushiftRight_eq_ofNat (k : Nat) : a >>> k = BitVec.ofNat w (a.toNat / 2 ^ k) := by
  rw [← Nat.shiftRight_eq_div_pow, ← BitVec.toNat_ushiftRight, BitVec.ofNat_toNat, BitVec.setWidth_eq]

theorem sshiftRight_eq_ofInt (k : Nat) : a.sshiftRight k = BitVec.ofInt w (a.toInt / 2 ^ k) := by
  have hnum : (a.sshiftRight k).toInt = a.toInt / 2 ^ k := by
    rw [BitVec.toInt_sshiftRight, Int.shiftRight_eq_div_pow, Nat.cast_pow, Nat.cast_ofNat]
  rw [← hnum, BitVec.ofInt_toInt]

theorem unsignedMin_eq_ofNat : (if b.ult a then b else a) = BitVec.ofNat w (min a.toNat b.toNat) := by
  simp only [min_comm a.toNat, min_def_lt, ← apply_ite BitVec.toNat, BitVec.ofNat_toNat, BitVec.setWidth_eq, BitVec.ult,
    decide_eq_true_eq]

theorem unsignedMax_eq_ofNat : (if a.ult b then b else a) = BitVec.ofNat w (max a.toNat b.toNat) := by
  simp only [max_def_lt, ← apply_ite BitVec.toNat, BitVec.ofNat_toNat, BitVec.setWidth_eq, BitVec.ult, decide_eq_true_eq]

theorem signedMin_eq_ofInt : (if b.slt a then b else a) = BitVec.ofInt w (min a.toInt b.toInt) := by
  simp only [min_comm a.toInt, min_def_lt, ← apply_ite BitVec.toInt, BitVec.ofInt_toInt, BitVec.slt, decide_eq_true_eq]

theorem signedMax_eq_ofInt : (if a.slt b then b else a) = BitVec.ofInt w (max a.toInt b.toInt) := by
  simp only [max_def_lt, ← apply_ite BitVec.toInt, BitVec.ofInt_toInt, BitVec.slt, decide_eq_true_eq]

theorem ite_eq_ofNat (q : Bool) : (if q then a else b) = BitVec.ofNat w (if q then a.toNat else b.toNat) := by
  simp only [← apply_ite BitVec.toNat, BitVec.ofNat_toNat, BitVec.setWidth_eq]

/-- An immediate put below a register shifted left by its width. -/
theorem shiftLeft_or_zeroExtend_eq_ofNat (c : BitVec v) :
    a <<< v ||| c.zeroExtend w = BitVec.ofNat w (a.toNat * 2 ^ v + c.toNat) := by
  rw [← Nat.shiftLeft_eq, Nat.shiftLeft_add_eq_or_of_lt c.isLt, BitVec.ofNat_or, Nat.shiftLeft_eq, ← shiftLeft_eq_ofNat,
    BitVec.ofNat_toNat]

end

/-- The bit length of a number that is not zero. -/
theorem size_eq_log2_succ {n : Nat} (h : n ≠ 0) : n.size = Nat.log2 n + 1 :=
  Nat.le_antisymm (Nat.size_le.mpr Nat.lt_log2_self) (Nat.lt_size.mpr (Nat.log2_self_le h))

/-- CLZ counts the bits above the bit length. -/
theorem clz64_eq_ofNat (a : Dword) : clz64 a = BitVec.ofNat 64 (64 - a.toNat.size) := by
  unfold clz64
  split
  next h => simp [h]
  next h =>
    rw [size_eq_log2_succ fun h0 => h (BitVec.eq_of_toNat_eq h0)]
    exact congrArg _ (Nat.succ_sub_succ 63 _).symm

/-- Counting the members that meet a condition is summing ones. -/
theorem countP_eq_sum_toNat {α : Type} (p : α → Bool) (l : List α) : l.countP p = (l.map fun x => (p x).toNat).sum := by
  induction l with
  | nil => rfl
  | cons x l ih => cases hx : p x <;> simp [hx, ih, Nat.add_comm]

/-- POPC sums the binary digits. -/
theorem popc64_eq_ofNat (a : Dword) : popc64 a = BitVec.ofNat 64 ((List.range 64).map fun k => a.toNat / 2 ^ k % 2).sum := by
  simp only [popc64, countP_eq_sum_toNat, ← BitVec.testBit_toNat, Nat.toNat_testBit]

/-- The signed number of a register is zero where the register is. -/
theorem toInt_eq_zero_iff {w : Nat} (b : BitVec w) : b.toInt = 0 ↔ b = 0 := by
  rw [← BitVec.toInt_inj, BitVec.ofNat_eq_ofNat, BitVec.toInt_zero]

/-- The unsigned number of a register is zero where the register is. -/
theorem toNat_eq_zero_iff {w : Nat} (b : BitVec w) : b.toNat = 0 ↔ b = 0 := by
  rw [← BitVec.toNat_inj, BitVec.ofNat_eq_ofNat, BitVec.toNat_ofNat, Nat.zero_mod]

/-- DIV rounds toward zero; by zero it gives all ones. -/
theorem div64_eq_ofInt (a b : Dword) :
    div64 a b = BitVec.ofInt 64 (if b.toInt = 0 then -1 else a.toInt.tdiv b.toInt) := by
  simp only [div64, toInt_eq_zero_iff]
  split
  · rfl
  · exact BitVec.eq_of_toInt_eq (by rw [BitVec.toInt_sdiv, BitVec.toInt_ofInt])

/-- DIVU by zero gives all ones. -/
theorem divu64_eq_ofNat (a b : Dword) :
    divu64 a b = BitVec.ofNat 64 (if b.toNat = 0 then 2 ^ 64 - 1 else a.toNat / b.toNat) := by
  simp only [divu64, toNat_eq_zero_iff]
  split
  · rfl
  · rw [← BitVec.toNat_udiv, BitVec.ofNat_toNat, BitVec.setWidth_eq]

/-- REM has the sign of the dividend; by zero it gives the dividend. -/
theorem rem64_eq_ofInt (a b : Dword) :
    rem64 a b = BitVec.ofInt 64 (if b.toInt = 0 then a.toInt else a.toInt.tmod b.toInt) := by
  simp only [rem64, toInt_eq_zero_iff, ← BitVec.toInt_srem, ← apply_ite BitVec.toInt, BitVec.ofInt_toInt]

/-- REMU by zero gives the dividend. -/
theorem remu64_eq_ofNat (a b : Dword) :
    remu64 a b = BitVec.ofNat 64 (if b.toNat = 0 then a.toNat else a.toNat % b.toNat) := by
  simp only [remu64, toNat_eq_zero_iff, ← BitVec.toNat_umod, ← apply_ite BitVec.toNat, BitVec.ofNat_toNat,
    BitVec.setWidth_eq]

/-! ## The words -/

/-- A scalar word with the destination, value and latency of the statement. -/
theorem State.scalar_congr {s : State} {i : Instr} {d e : SReg} {u v x : Dword} {lat l : Nat} (hval : u = v)
    (h : some (d, v, lat) = some (e, x, l)) : s.scalar i d u lat = s.scalar i e x l := by
  cases h
  rw [hval]

/-- A scalar word of the statement is executed as a word whose one effect is that result. -/
theorem exec_of_scalar {i : Instr} {s : State} {d : SReg} {v : Dword} {lat : Nat} (h : Claim.scalar i s = some (d, v, lat)) :
    exec i s = s.scalar i d v lat := by
  cases i
  case add => exact State.scalar_congr (add_eq_ofNat _ _) h
  case sub => exact State.scalar_congr (sub_eq_ofInt _ _) h
  case and => exact State.scalar_congr (and_eq_ofNat _ _) h
  case or => exact State.scalar_congr (or_eq_ofNat _ _) h
  case xor => exact State.scalar_congr (xor_eq_ofNat _ _) h
  case sll => exact State.scalar_congr (shiftLeft_eq_ofNat _ _) h
  case srl => exact State.scalar_congr (ushiftRight_eq_ofNat _ _) h
  case sra => exact State.scalar_congr (sshiftRight_eq_ofInt _ _) h
  case min => exact State.scalar_congr (signedMin_eq_ofInt _ _) h
  case max => exact State.scalar_congr (signedMax_eq_ofInt _ _) h
  case minu => exact State.scalar_congr (unsignedMin_eq_ofNat _ _) h
  case maxu => exact State.scalar_congr (unsignedMax_eq_ofNat _ _) h
  case clz => exact State.scalar_congr (clz64_eq_ofNat _) h
  case popc => exact State.scalar_congr (popc64_eq_ofNat _) h
  case mul => exact State.scalar_congr (mul_eq_ofNat _ _) h
  case mulh => exact State.scalar_congr rfl h
  case mulhu => exact State.scalar_congr rfl h
  case div => exact State.scalar_congr (div64_eq_ofInt _ _) h
  case divu => exact State.scalar_congr (divu64_eq_ofNat _ _) h
  case rem => exact State.scalar_congr (rem64_eq_ofInt _ _) h
  case remu => exact State.scalar_congr (remu64_eq_ofNat _ _) h
  case sel => exact State.scalar_congr (ite_eq_ofNat _ _ _) h
  case addi => exact State.scalar_congr (add_signExtend_eq_ofInt _ _) h
  case andi => exact State.scalar_congr (and_eq_ofNat _ _) h
  case ori => exact State.scalar_congr (or_eq_ofNat _ _) h
  case xori => exact State.scalar_congr (xor_eq_ofNat _ _) h
  case slli => exact State.scalar_congr (shiftLeft_eq_ofNat _ _) h
  case srli => exact State.scalar_congr (ushiftRight_eq_ofNat _ _) h
  case srai => exact State.scalar_congr (sshiftRight_eq_ofInt _ _) h
  case li => exact State.scalar_congr rfl h
  case lui => exact State.scalar_congr (shiftLeft_or_zeroExtend_eq_ofNat _ _) h
  all_goals exact nomatch h

/-- A compare of the statement is executed as a word whose one effect is that predicate. -/
theorem exec_of_compare {i : Instr} {s : State} {q : QReg} {v : Bool} (h : Claim.compare i s = some (q, v)) :
    exec i s = s.predicate i q v := by
  cases i
  case cmpEq => cases h; exact congrArg (s.predicate _ _) (decide_eq_decide.mpr BitVec.toNat_inj.symm)
  case cmpNe => cases h; exact congrArg (s.predicate _ _) (decide_eq_decide.mpr (not_congr BitVec.toNat_inj.symm))
  case cmpLt => cases h; rfl
  case cmpLtu => cases h; rfl
  case cmpGe => cases h; exact congrArg (s.predicate _ _) BitVec.sle_eq_not_slt.symm
  case cmpGeu => cases h; exact congrArg (s.predicate _ _) (BitVec.ule_eq_not_ult _ _).symm
  all_goals exact nomatch h

/-- Every scalar word of 05 R153–R155 completes. -/
theorem scalarWordsComplete : Claim.scalarWordsComplete := fun i s d v lat hval hcheck => by
  rw [exec_of_scalar hval]
  exact State.word_lands hcheck rfl

/-- Every compare of 05 R153 completes. -/
theorem compareWordsComplete : Claim.compareWordsComplete := fun i s q v hval hcheck => by
  rw [exec_of_compare hval]
  exact State.word_lands hcheck rfl

/-- A word of A that needs d.a alone and puts an address in flight. -/
theorem State.aWord_landA {s : State} {i : Instr} {k : State → WordOut} {d : ANo} {v : Dword} (hawake : s.core.awake 2 = true)
    (hcheck : s.precheck .a i = none) (hk : k s = .ok (s.landA d v) .seq) :
    ∃ t, s.aWord i k = .next t ∧ GoesOn .a s t ∧ OnlyStream .a s t ∧ Lands .a s t [⟨.areg d, .word v, 1, 0⟩] := by
  have hdom : needDoms s.core [2] = none := by simp only [needDoms, List.filter, hawake, Bool.not_true]
  obtain ⟨t, ht, hland, hgo, honly⟩ := State.word_lands (k := k) hcheck hk
  refine ⟨t, ?_, hgo, honly, hland⟩
  rw [← ht]
  simp only [State.aWord, State.word, hdom]

/-- AADD and AADDI complete. -/
theorem addressWordsComplete : Claim.addressWordsComplete := by
  intro d a b imm s hawake
  constructor
  · intro hcheck
    rw [← add_eq_ofNat]
    show ∃ t, execAadd d a b s = .next t ∧ _
    exact State.aWord_landA hawake hcheck rfl
  · intro hcheck
    rw [← add_signExtend_eq_ofInt]
    show ∃ t, execAaddi d a imm s = .next t ∧ _
    exact State.aWord_landA hawake hcheck rfl

/-! ## The decoding of the compares (03 R107) -/

/-- A decoding accepts exactly the word whose reserved bits are clear. -/
theorem done_eq_ok_iff {rsv : Nat} {i j : Instr} : done rsv i = .ok j ↔ i = j ∧ rsv = 0 := by
  unfold done
  split
  next h => simp only [h, Except.ok.injEq, and_true]
  next h => simp only [h, reduceCtorEq, and_false]

/-- A check of a field accepts what is within its limits. -/
theorem check_eq_ok_iff {ok : Bool} {r : Except Reject Instr} {j : Instr} : check ok r = .ok j ↔ r = .ok j ∧ ok = true := by
  cases ok <;> simp [check]

/-- Only opcode 3 gives compares: each other opcode, and each function of it, names a word that is none. -/
theorem compare_eq_none_of_opcode_ne_three {w : Nat} (hop : bits w 26 6 ≠ 3) (s : State) :
    ∀ i, decodeC w = .ok i → Claim.compare i s = none := by
  unfold decodeC
  split
  case h_3 h => exact absurd h hop
  all_goals
    repeat' split
    all_goals simp only [done_eq_ok_iff, check_eq_ok_iff, reduceCtorEq, false_implies, and_imp, forall_eq',
      Claim.compare, implies_true]

/-- A word of C with opcode 3 and an assigned function is a compare of the predicate in bits 22:20, its bits 3:2 and 25:23
reserved; any other of that opcode is no word. -/
theorem decodeC_opcode_three {w : Nat} (hop : bits w 26 6 = 3) :
    (∃ i, decodeC w = done (bits w 2 2 + bits w 23 3) i ∧ ∀ s, (Claim.compare i s).map Prod.fst = some (rn w 20)) ∨
      (6 ≤ bits w 4 4 ∧ decodeC w = .error .illegal) := by
  simp only [decodeC, hop]
  split
  case h_1 => exact .inl ⟨.cmpEq _ _ _, rfl, fun _ => rfl⟩
  case h_2 => exact .inl ⟨.cmpNe _ _ _, rfl, fun _ => rfl⟩
  case h_3 => exact .inl ⟨.cmpLt _ _ _, rfl, fun _ => rfl⟩
  case h_4 => exact .inl ⟨.cmpLtu _ _ _, rfl, fun _ => rfl⟩
  case h_5 => exact .inl ⟨.cmpGe _ _ _, rfl, fun _ => rfl⟩
  case h_6 => exact .inl ⟨.cmpGeu _ _ _, rfl, fun _ => rfl⟩
  case h_7 h0 h1 h2 h3 h4 h5 =>
    simp only [imp_false] at h0 h1 h2 h3 h4 h5
    exact .inr ⟨by omega, rfl⟩

/-- The rest of 05 R153. -/
theorem compareNamesItsPredicate : Claim.compareNamesItsPredicate := by
  refine ⟨fun w hw hop hfn hrsv => ?_, fun w i s q v hdec hcmp => ?_, fun c x hdest => ?_, fun s => ⟨rfl, rfl⟩⟩
  · have hop6 : bits w 26 6 = 3 := by unfold bits; omega
    obtain ⟨i, hi, -⟩ | ⟨hbad, -⟩ := decodeC_opcode_three hop6
    · have hset : bits w 2 2 + bits w 23 3 ≠ 0 := fun h => hrsv (Nat.eq_zero_of_add_eq_zero_left h)
      exact ⟨i, hi.trans (if_neg hset)⟩
    · exact absurd hfn (Nat.not_lt.mpr hbad)
  · have hop : bits w 26 6 = 3 := by
      by_contra hne
      exact nomatch (compare_eq_none_of_opcode_ne_three hne s i hdec).symm.trans hcmp
    obtain ⟨j, hj, hq⟩ | ⟨-, hbad⟩ := decodeC_opcode_three hop
    · obtain ⟨rfl, hrsv⟩ := done_eq_ok_iff.mp (hj.symm.trans hdec)
      have hnamed : some q = some (rn w 20) := (congrArg (Option.map Prod.fst) hcmp).symm.trans (hq s)
      have h23 : bits w 23 3 = 0 := Nat.eq_zero_of_add_eq_zero_left hrsv
      rw [Option.some.inj hnamed]
      unfold bits at h23
      show w / 2 ^ 20 % 8 = w / 2 ^ 20 % 2 ^ 6
      omega
    · exact nomatch hbad.symm.trans hdec
  · unfold Core.landOne
    obtain h | h | h := hdest <;> rw [h] <;> rfl

/-- Settles O17: each word is executed as the issue of the result that the statement names, and such an issue completes by
the one lemma about results put in flight; only opcode 3 decodes to a compare, by its functions 0 to 5. -/
theorem computingWordsComplete : Obligations.ComputingWordsComplete :=
  ⟨scalarWordsComplete, compareWordsComplete, compareNamesItsPredicate, addressWordsComplete⟩

end Sys2Proof.Machine
end
